-- ==== Sys2Proof/Word.lean ====
section
/-! DEFINITION. The word types of the part (R2): an instruction word and a register are 64 bits, a byte is 8 bits,
and a lane mask covers the 32 lanes of the widest group (R71). -/

namespace Sys2Proof

/-- A register, a system register or an instruction word (R2, R18). -/
abbrev Word := BitVec 64

/-- A byte (R2). -/
abbrev Byte := BitVec 8

/-- A mask over the lanes of one group; bit L stands for lane index L (R71, R103). -/
abbrev Mask := BitVec 32

end Sys2Proof
end

