-- ==== Sys2Proof/Machine/Bits.lean ====
section
/-! DEFINITION. Bit fields, sub-elements of a register (R25), sign extension, byte order (R2) and small list helpers. -/

namespace Sys2Proof.Machine

/-- `bits(x, hi, lo)` of R7, as a natural number: `len` bits from bit `lo`. -/
def bitsN (x : Nat) (lo len : Nat) : Nat := (x >>> lo) % 2 ^ len

/-- `len` bits of a word from bit `lo`, unsigned (R7). -/
def field (x : Word) (lo len : Nat) : Nat := bitsN x.toNat lo len

/-- Bit `i` of a natural number. -/
def bitN (x i : Nat) : Bool := (x >>> i) % 2 == 1

/-- The signed value of an `n`-bit pattern (R7, `sext`). -/
def sextN (x n : Nat) : Int :=
  let y := x % 2 ^ n
  if n ≠ 0 ∧ y ≥ 2 ^ (n - 1) then (y : Int) - (2 ^ n : Nat) else (y : Int)

/-- The `n`-bit pattern of an integer, modulo `2^n` (R188). -/
def wrapN (v : Int) (n : Nat) : Nat := (v % ((2 ^ n : Nat) : Int)).toNat

/-- A word from a natural number, modulo `2^64`. -/
def w64 (n : Nat) : Word := BitVec.ofNat 64 n

/-- Sub-element `i` of width `w` of a register (R25). -/
def elem (w i : Nat) (x : Word) : Nat := bitsN x.toNat (w * i) w

/-- A natural number from elements of width `w`, element 0 lowest. -/
def packNat (w : Nat) : List Nat → Nat
  | [] => 0
  | e :: es => e % 2 ^ w + 2 ^ w * packNat w es

/-- A register from sub-elements of width `w`, element 0 lowest; bits above the last element are zero (R25). -/
def pack (w : Nat) (es : List Nat) : Word := w64 (packNat w es)

/-- The first `n` sub-elements of width `w`. -/
def elems (w n : Nat) (x : Word) : List Nat := (List.range n).map fun i => elem w i x

/-- `k` bytes of a natural number, lowest first (little-endian, R2). -/
def toBytes (n : Nat) : Nat → List Byte
  | 0 => []
  | k + 1 => BitVec.ofNat 8 n :: toBytes (n / 256) k

/-- The natural number that little-endian bytes hold (R2). -/
def ofBytes : List Byte → Nat
  | [] => 0
  | b :: bs => b.toNat + 256 * ofBytes bs

/-- Number of set bits among the lowest `n`. -/
def popN (x : Nat) : Nat → Nat
  | 0 => 0
  | n + 1 => (if bitN x n then 1 else 0) + popN x n

/-- Rotate the `w`-bit pattern `x` left by `n` (R218). -/
def rotlN (x n w : Nat) : Nat :=
  let k := n % w
  ((x <<< k) ||| (x >>> (w - k))) % 2 ^ w

/-- Reverse the lowest `w` bits (R221). -/
def revN (x : Nat) : Nat → Nat
  | 0 => 0
  | w + 1 => (if bitN x 0 then 2 ^ w else 0) + revN (x / 2) w

/-- Zero bits above the highest set bit of a `w`-bit pattern; `w` for zero (R221). -/
def clzN (x w : Nat) : Nat := if x = 0 then w else w - 1 - Nat.log2 x

/-- Zero bits below the lowest set bit of a `w`-bit pattern; `w` for zero (R221). -/
def ctzN (x : Nat) : Nat → Nat
  | 0 => 0
  | w + 1 => if bitN x 0 then 0 else 1 + ctzN (x / 2) w

/-- Lane `L` is in the mask. -/
def inMask (m : Mask) (l : Nat) : Bool := m.getLsbD l

/-- The mask of one lane. -/
def laneBit (l : Nat) : Mask := BitVec.ofNat 32 (2 ^ l)

/-- The lanes of a mask, in increasing lane index. -/
def lanesOf (m : Mask) : List Nat := (List.range 32).filter (inMask m)

/-- The mask of a list of lanes. -/
def maskOf (ls : List Nat) : Mask := ls.foldl (fun m l => m ||| laneBit l) 0

/-- The lowest lane of a mask. -/
def lowestLane (m : Mask) : Option Nat := (lanesOf m).head?

/-- Element `i` of a list, or the default. -/
def nth {α : Type} [Inhabited α] (l : List α) (i : Nat) : α := l.getD i default

/-- The first element of a list with a given key. -/
def lookupBy {α : Type} (key : α → Nat) (k : Nat) (l : List α) : Option α := l.find? fun x => key x == k

/-- Replace every element with the given key. -/
def updateBy {α : Type} (key : α → Nat) (k : Nat) (f : α → α) (l : List α) : List α :=
  l.map fun x => if key x == k then f x else x

/-- Keep the elements whose key differs. -/
def dropBy {α : Type} (key : α → Nat) (k : Nat) (l : List α) : List α := l.filter fun x => key x != k

/-- The element with the smallest value of a measure; the earliest of equals. -/
def minBy {α : Type} (f : α → Nat) : List α → Option α
  | [] => none
  | x :: xs =>
    match minBy f xs with
    | none => some x
    | some y => if f y < f x then some y else some x

/-- Sum of a measure over a list. -/
def sumBy {α : Type} (f : α → Nat) (l : List α) : Nat := l.foldl (fun a x => a + f x) 0

end Sys2Proof.Machine
end

