-- ==== Sys2Proof/Machine/Types.lean ====
section
/-! DEFINITION. The type codes (R52), the x8 format codes (R53), the rounding modes (R54), the scope, kind, order and
condition codes (R56). -/

namespace Sys2Proof.Machine

/-- The sixteen types that TY names (R52). -/
inductive Ty where
  | b64 | i64 | n64 | f64 | i32 | n32 | f32 | i32x2
  | n32x2 | f32x2 | f16x4 | bf16x4 | i16x4 | n16x4 | x8 | iv32
deriving DecidableEq, Repr, Inhabited

/-- The type of a TY code (R52). -/
def Ty.ofCode (c : Nat) : Ty :=
  match c with
  | 0 => .b64 | 1 => .i64 | 2 => .n64 | 3 => .f64 | 4 => .i32 | 5 => .n32 | 6 => .f32 | 7 => .i32x2
  | 8 => .n32x2 | 9 => .f32x2 | 10 => .f16x4 | 11 => .bf16x4 | 12 => .i16x4 | 13 => .n16x4 | 14 => .x8 | _ => .iv32

/-- The element width of a type (R25, R230). -/
def Ty.width : Ty → Nat
  | .b64 | .i64 | .n64 | .f64 | .iv32 => 64
  | .i32 | .n32 | .f32 | .i32x2 | .n32x2 | .f32x2 => 32
  | .f16x4 | .bf16x4 | .i16x4 | .n16x4 => 16
  | .x8 => 8

/-- The number of elements of a type in a register; 1 for the 32-bit scalars (R25, R250). -/
def Ty.count : Ty → Nat
  | .b64 | .i64 | .n64 | .f64 | .iv32 | .i32 | .n32 | .f32 => 1
  | .i32x2 | .n32x2 | .f32x2 => 2
  | .f16x4 | .bf16x4 | .i16x4 | .n16x4 => 4
  | .x8 => 8

/-- Read as signed by the integer instructions: the i types (R211). -/
def Ty.signed : Ty → Bool
  | .i64 | .i32 | .i32x2 | .i16x4 => true
  | _ => false

/-- The types of the set IT (R62, R210). -/
def Ty.isInt : Ty → Bool
  | .i64 | .n64 | .i32 | .n32 | .i32x2 | .n32x2 | .i16x4 | .n16x4 => true
  | _ => false

/-- The types of the set FT5 (R239). -/
def Ty.isFloat : Ty → Bool
  | .f64 | .f32 | .f32x2 | .f16x4 | .bf16x4 => true
  | _ => false

/-- The 32-bit scalar types, which write [63:32] as zero (R25). -/
def Ty.scalar32 : Ty → Bool
  | .i32 | .n32 | .f32 => true
  | _ => false

/-- The rounding modes (R54). -/
inductive RMode where
  | rne | rz | ru | rd | rna | rs
deriving DecidableEq, Repr, Inhabited

/-- The mode of a code 0 to 5 (R33, R54). -/
def RMode.ofCode (c : Nat) : RMode :=
  match c with
  | 0 => .rne | 1 => .rz | 2 => .ru | 3 => .rd | 4 => .rna | _ => .rs

/-- Scope codes (R56): 0 group, 1 block, 2 cluster, 3 device, 4 domain, 5 system. -/
inductive Scope where
  | group | block | cluster | device | domain | system
deriving DecidableEq, Repr, Inhabited

def Scope.ofCode (c : Nat) : Scope :=
  match c with
  | 0 => .group | 1 => .block | 2 => .cluster | 3 => .device | 4 => .domain | _ => .system

/-- The numeric place of a scope in R56's order. -/
def Scope.rank : Scope → Nat
  | .group => 0 | .block => 1 | .cluster => 2 | .device => 3 | .domain => 4 | .system => 5

/-- The trap causes of R426. -/
inductive Cause where
  | illegalOpcode | illegalField | illegalOperand | illegalPair | illegalContext
  | emptyRead | loopDepth | privLimit | pageFault | accessFault | align | rangeLock | poison
  | ifetchFault | brk | watch | soft | fpEnabled | haltWave
deriving DecidableEq, Repr, Inhabited

/-- The cause codes of R426. -/
def Cause.code : Cause → Nat
  | .illegalOpcode => 1 | .illegalField => 2 | .illegalOperand => 3 | .illegalPair => 4 | .illegalContext => 5
  | .emptyRead => 6 | .loopDepth => 7 | .privLimit => 8 | .pageFault => 9 | .accessFault => 10 | .align => 11
  | .rangeLock => 12 | .poison => 13 | .ifetchFault => 14 | .brk => 15 | .watch => 16 | .soft => 17
  | .fpEnabled => 18 | .haltWave => 19

/-- The cause of a code. -/
def Cause.ofCode (n : Nat) : Option Cause :=
  [Cause.illegalOpcode, .illegalField, .illegalOperand, .illegalPair, .illegalContext, .emptyRead, .loopDepth, .privLimit, .pageFault,
    .accessFault, .align, .rangeLock, .poison, .ifetchFault, .brk, .watch, .soft, .fpEnabled, .haltWave].find? fun c => c.code == n

/-- The place of a cause in the order in which a word that meets several reports one (R66, R105, R427). -/
def Cause.order : Cause → Nat
  | .ifetchFault => 0 | .illegalOpcode => 1 | .illegalContext => 2 | .illegalField => 3 | .illegalPair => 4
  | .illegalOperand => 5 | .loopDepth => 6 | .align => 7 | .privLimit => 8 | .accessFault => 9 | .rangeLock => 10
  | .pageFault => 11 | .poison => 12 | .emptyRead => 13 | .fpEnabled => 14 | .soft => 15 | .brk => 16 | .watch => 17
  | .haltWave => 18

end Sys2Proof.Machine
end

