-- ==== Sys2Proof/Syntax.lean ====
section
/-! DEFINITION. The instruction and event type: one constructor for every row of the opcode table. A word of the Pamet form
carries its full-form fields (R41); the I-, J- and M-forms read the same bits through accessors (R43, R44). A matrix-stream
word carries the fields of R282, a dual word its two halves (R58). An event row (a step of the part that is no instruction
word) carries the unit it concerns. -/

namespace Sys2Proof

/-- The fields of a full-form word (R41), without D and OP, and the literal word that follows it (R51). -/
structure Fields where
  /-- S, the stop bit -/
  safe : Bool
  ty : BitVec 4
  dst : BitVec 9
  sa : BitVec 9
  sb : BitVec 9
  sc : BitVec 9
  /-- guard predicate index; 0 is unguarded -/
  g : BitVec 4
  gn : Bool
  rm : BitVec 3
  fi : Bool
  fo : Bool
  sat : Bool
  /-- wait mode: bit 0 for source A, 1 for B, 2 for C -/
  w : BitVec 3
  lit : Option Word
deriving DecidableEq, Repr, Inhabited

/-- One 31-bit half of a dual word (R58). -/
structure Half where
  sop : BitVec 7
  dst : BitVec 8
  src : BitVec 8
  g : BitVec 4
  w : Bool
  f : Bool
deriving DecidableEq, Repr, Inhabited

/-- MZERO's fields (R282). -/
structure MZero where
  entry : BitVec 16
  xr : BitVec 3
  count1 : BitVec 16
deriving DecidableEq, Repr, Inhabited

/-- MBLOAD's fields (R282). -/
structure MBLoad where
  off : BitVec 14
  xr : BitVec 3
  slot : BitVec 2
  fmt : BitVec 5
  k1 : BitVec 4
  ks : BitVec 4
  ns : BitVec 3
  nc1 : BitVec 3
deriving DecidableEq, Repr, Inhabited

/-- MMUL's fields (R282). -/
structure MMul where
  buf : BitVec 2
  aoff : BitVec 11
  xa : BitVec 3
  m1 : BitVec 7
  k1 : BitVec 4
  ks : BitVec 4
  slot : BitVec 2
  ns : BitVec 3
  nc1 : BitVec 3
  fmt : BitVec 5
  entry : BitVec 7
  xc : BitVec 3
deriving DecidableEq, Repr, Inhabited

/-- MSTORE's fields (R282). -/
structure MStore where
  entry : BitVec 16
  xc : BitVec 3
  off : BitVec 14
  xs : BitVec 3
  m1 : BitVec 7
  cn1 : BitVec 4
  out : BitVec 6
  sat : Bool
deriving DecidableEq, Repr, Inhabited

/-- MLOOP's fields (R282). -/
structure MLoop where
  count : BitVec 16
  len1 : BitVec 8
  xr1 : BitVec 3
  step1 : BitVec 16
  xr2 : BitVec 3
  step2 : BitVec 8
deriving DecidableEq, Repr, Inhabited

/-- What an access asks of a translation (R392, R396). -/
inductive Access where
  | read | write | atomic | reduce | fetch
deriving DecidableEq, Repr, Inhabited

/-- The AtomicOps a host sends through BAR2 (R399). -/
inductive HostAtomic where
  | fetchAdd | swap | cas
deriving DecidableEq, Repr, Inhabited

/-- A request of a peer chip (R402): the job, the source chip, the access, and the operands. `tag` names the response. -/
structure PeerReq where
  job : Nat
  src : Nat
  access : Access
  va : Nat
  size : Nat
  data : List Byte
  /-- atomic operation: 0 to 6 by R45's selector, 7 for compare-and-swap (data holds compare then swap) -/
  op : Nat
  ty : Machine.Ty
  tag : Nat
  /-- it comes from a DBG_STEP (R473, R477) -/
  step : Bool
deriving DecidableEq, Repr, Inhabited

/-- The engines that acknowledge a stop request (R446). -/
inductive EngineId where
  | issue | msq | copy | marcher | raster | grinder | fabric
deriving DecidableEq, Repr, Inhabited

/-- Where an uncorrectable error is found (R452, R454). -/
inductive EccPlace where
  | memory (pa : Nat)
  | scratch (bid off : Nat)
  | vreg (gid lane n : Nat)
  | kreg (gid n : Nat)
  | accum (bid entry : Nat)
  | slot (bid n off : Nat)
  | buffer (bid n off : Nat)
  /-- a sector of a group's private bytes in L1, by its address over 32 -/
  | priv (gid sec : Nat)
  /-- a sector (0 to 3) of a line's copy in a core's L1 or Grinder cache -/
  | l1 (core ctx line sec : Nat)
  | grinder (core ctx line sec : Nat)
  /-- a line of a core's instruction cache -/
  | icache (core ctx line : Nat)
  /-- an entry of a TLB, by the TLB's number, the base and the size in bits -/
  | tlb (n ctx base bits : Nat)
  | other
deriving DecidableEq, Repr, Inhabited

/-- The trigger record of a halt wave (R471, R474): the four words of the domain cause record, the chip and the cause. -/
structure TrigRec where
  chip : Nat
  cause : Nat
  gts : Nat
  word1 : Word
  word2 : Word
  word3 : Word
  safeord : Nat
deriving DecidableEq, Repr, Inhabited

/-- Every row of the opcode table: the instructions of the Pamet form (R63), the matrix-stream words (R282) and the events. -/
inductive Instr where
  /-- NOP (R93): Issues a word with no effect other than counting as a word and, with S set, as a safe point. -/
  | nop (f : Fields)
  /-- NEXT (R94): Ends the segment and names the immediate segment index as each present fibre's successor. -/
  | next (f : Fields)
  /-- NEXTP (R94): Ends the segment and names either the immediate segment or c + 1 per fibre, chosen by a predicate. -/
  | nextp (f : Fields)
  /-- NEXTX (R94): Ends the segment and names the segment given by bits [17:0] of a register as each fibre's successor. -/
  | nextx (f : Fields)
  /-- CALL (R94): Ends the segment, names the immediate successor and writes c + 1 into the link register. -/
  | call (f : Fields)
  /-- RET (R95): Ends the segment like NEXTX and is marked as a return for trace, profile and step-out. -/
  | ret (f : Fields)
  /-- FORK (R96): Creates a child fibre, or a helper, in a free lane of the group or quad and writes a success predicate. -/
  | fork (f : Fields)
  /-- QUIT (R97): Ends every present fibre of the batch, freeing lanes and ending helpers, groups and blocks as they empty. -/
  | quit (f : Fields)
  /-- LOOP (R98): Pushes a loop level with a per-group count, or skips the body for groups whose count is zero. -/
  | loop (f : Fields)
  /-- LOOP_PASS_END (R98): At the end of a body pass, decrements the count and either loops back or pops the level. -/
  | loopPassEnd (batch : Nat)
  /-- REP (R99): Makes the next word issue n times with stepped register fields. -/
  | rep (f : Fields)
  /-- BAR (R100): Arrives at a block barrier and waits until the phase of this arrival completes. -/
  | bar (f : Fields)
  /-- BARA (R100): Arrives at a block barrier and continues. -/
  | bara (f : Fields)
  /-- BARW (R100): Waits until the phase of the group's latest arrival at a block barrier completes. -/
  | barw (f : Fields)
  /-- ELECT (R101): Sets a predicate true in the lowest candidate lane of each group and false in the others. -/
  | elect (f : Fields)
  /-- VOTE (R101): Writes the all, any or ballot of a predicate over the group's candidates. -/
  | vote (f : Fields)
  /-- PLOP (R101): Writes a predicate from a truth table over three predicates. -/
  | plop (f : Fields)
  /-- PMOV (R101): Copies the predicate image to a register, or writes predicates from a register under a mask. -/
  | pmov (f : Fields)
  /-- YIELD (R102): Sets the batch's segment-entry time to the current clock. -/
  | yield (f : Fields)
  /-- SLEEP (R102): Keeps the batch from issuing for n to n + 64 clocks. -/
  | sleep (f : Fields)
  /-- SLEEP_END (R102): When the sleep time expires, the batch may issue again. -/
  | sleepEnd (batch : Nat)
  /-- LIVE (R103): Writes the masks of live non-helper and live helper fibres of the group. -/
  | live (f : Fields)
  /-- BATCH_FORM (R81): The sorter forms a new batch from the oldest ready entry and other ready entries for the same segment. -/
  | batchForm (core sched : Nat)
  /-- BATCH_ISSUE (R81): In each clock the sorter picks one batch by priority, age and slot and issues its next word. -/
  | batchIssue (core sched : Nat)
  /-- STARVED_ENTRY_ISSUE (R82): A ready entry unbatched for 4096 issue clocks is issued in a batch of its own. -/
  | starvedEntryIssue (core sched : Nat)
  /-- VARIABLE_LATENCY_RESULT (R27): A variable-latency instruction writes its result and marks the destination full in each participating lane. -/
  | variableLatencyResult (gid seq : Nat) (lanes : Mask)
  /-- IADD (R212): Integer add with wrap or saturation. -/
  | iadd (f : Fields)
  /-- ISUB (R212): Integer subtract with wrap or saturation. -/
  | isub (f : Fields)
  /-- IADDC (R213): Adds with carry, writing the sum and the carry into two registers. -/
  | iaddc (f : Fields)
  /-- IMUL (R212): Integer multiply, low product. -/
  | imul (f : Fields)
  /-- IMULH (R212): Writes the upper half of the double-width product. -/
  | imulh (f : Fields)
  /-- IMAD (R212): Integer multiply-add. -/
  | imad (f : Fields)
  /-- IMADW (R212): 32-bit multiply added to a 64-bit value, with a 64-bit result. -/
  | imadw (f : Fields)
  /-- IABS (R212): Integer absolute value. -/
  | iabs (f : Fields)
  /-- IMIN (R212): Integer minimum. -/
  | imin (f : Fields)
  /-- IMAX (R212): Integer maximum. -/
  | imax (f : Fields)
  /-- IDIV (R214): Integer division truncating toward zero, with a variable-latency result. -/
  | idiv (f : Fields)
  /-- IREM (R214): Integer remainder taking the sign of the dividend, with a variable-latency result. -/
  | irem (f : Fields)
  /-- ICMP (R215): Writes a predicate from an integer comparison. -/
  | icmp (f : Fields)
  /-- SEL (R216): Bitwise or per-element select. -/
  | sel (f : Fields)
  /-- AND (R217): Bitwise AND. -/
  | and (f : Fields)
  /-- OR (R217): Bitwise OR. -/
  | or (f : Fields)
  /-- XOR (R217): Bitwise XOR. -/
  | xor (f : Fields)
  /-- ANDN (R217): Bitwise a AND NOT b. -/
  | andn (f : Fields)
  /-- TERN (R217): Applies a three-input bit function chosen by an 8-bit table. -/
  | tern (f : Fields)
  /-- SHL (R218): Shift left per element. -/
  | shl (f : Fields)
  /-- SHR (R218): Logical shift right per element. -/
  | shr (f : Fields)
  /-- SAR (R218): Arithmetic shift right per element. -/
  | sar (f : Fields)
  /-- ROT (R218): Rotate left per element. -/
  | rot (f : Fields)
  /-- FUNNEL (R219): Funnel shift of a double-width value. -/
  | funnel (f : Fields)
  /-- BFE (R220): Extracts a bit field. -/
  | bfe (f : Fields)
  /-- BFI (R220): Inserts a bit field. -/
  | bfi (f : Fields)
  /-- BREV (R221): Reverses bits per element. -/
  | brev (f : Fields)
  /-- POPC (R221): Counts set bits per element. -/
  | popc (f : Fields)
  /-- CLZ (R221): Counts leading zero bits per element. -/
  | clz (f : Fields)
  /-- CTZ (R221): Counts trailing zero bits per element. -/
  | ctz (f : Fields)
  /-- BPERM (R222): Permutes bytes from a 16-byte table. -/
  | bperm (f : Fields)
  /-- ISAD (R223): Accumulates a sum of absolute differences. -/
  | isad (f : Fields)
  /-- IDOT (R223): Accumulates an integer dot product. -/
  | idot (f : Fields)
  /-- PACK (R224): Narrows two registers into one. -/
  | pack (f : Fields)
  /-- UNPACK (R224): Widens half of one register. -/
  | unpack (f : Fields)
  /-- MOV (R225): Writes a source value under a type. -/
  | mov (f : Fields)
  /-- MOVI (R225): Writes a sign-extended 27-bit immediate. -/
  | movi (f : Fields)
  /-- LEA (R226): Writes an effective address without accessing memory. -/
  | lea (f : Fields)
  /-- HRAND (R227): Computes a 64-bit hash of an address, a seed and a stream. -/
  | hrand (f : Fields)
  /-- LXCH (R232): Gathers elements across the group by per-element index. -/
  | lxch (f : Fields)
  /-- LXOR (R232): Exchanges elements across the group by XOR of the index. -/
  | lxor (f : Fields)
  /-- LBCAST (R232): Broadcasts one element to every writer. -/
  | lbcast (f : Fields)
  /-- QXCH (R233): Exchanges a register within a quad. -/
  | qxch (f : Fields)
  /-- QDDX (R234): Horizontal derivative across a quad. -/
  | qddx (f : Fields)
  /-- QDDY (R234): Vertical derivative across a quad. -/
  | qddy (f : Fields)
  /-- LREDUCE (R235): Reduces the contributors' values and writes the result to every writer. -/
  | lreduce (f : Fields)
  /-- LSCAN (R235): Writes an inclusive or exclusive prefix combination to each writer. -/
  | lscan (f : Fields)
  /-- KGET (R236): Reads a k register of another group of the block, with a variable-latency result. -/
  | kget (f : Fields)
  /-- HELPER (R237): Writes STATUS.HELPER into a predicate. -/
  | helper (f : Fields)
  /-- SUBSWZ (R237): Reorders sub-elements within a lane. -/
  | subswz (f : Fields)
  /-- FADD (R241): Floating add rounded once. -/
  | fadd (f : Fields)
  /-- FSUB (R241): Floating subtract rounded once. -/
  | fsub (f : Fields)
  /-- FMUL (R241): Floating multiply rounded once. -/
  | fmul (f : Fields)
  /-- FMA (R241): Fused multiply-add with one rounding. -/
  | fma (f : Fields)
  /-- FMIN (R242): Floating minimum that prefers a number to a NaN. -/
  | fmin (f : Fields)
  /-- FMAX (R242): Floating maximum that prefers a number to a NaN. -/
  | fmax (f : Fields)
  /-- FMINN (R242): Floating minimum that propagates NaN. -/
  | fminn (f : Fields)
  /-- FMAXN (R242): Floating maximum that propagates NaN. -/
  | fmaxn (f : Fields)
  /-- FCMP (R243): Writes a predicate from a floating comparison. -/
  | fcmp (f : Fields)
  /-- FCLASS (R244): Writes a one-hot class mask per element. -/
  | fclass (f : Fields)
  /-- FNEG (R245): Inverts the sign bit per element. -/
  | fneg (f : Fields)
  /-- FABS (R245): Clears the sign bit per element. -/
  | fabs (f : Fields)
  /-- FRINT (R246): Rounds to an integral value by the mode in force. -/
  | frint (f : Fields)
  /-- FFRACT (R246): Writes the fractional part rounded down. -/
  | ffract (f : Fields)
  /-- FLDEXP (R247): Scales by a power of two. -/
  | fldexp (f : Fields)
  /-- FFREXP (R247): Splits a value into significand and exponent registers. -/
  | ffrexp (f : Fields)
  /-- FRCP (R248): Correctly rounded reciprocal, variable latency. -/
  | frcp (f : Fields)
  /-- FRSQ (R248): Faithful reciprocal square root, variable latency. -/
  | frsq (f : Fields)
  /-- FSQRT (R248): Correctly rounded square root, variable latency. -/
  | fsqrt (f : Fields)
  /-- FDIV (R248): Correctly rounded division, variable latency. -/
  | fdiv (f : Fields)
  /-- FEXP2 (R248): Faithful base-2 exponential, variable latency. -/
  | fexp2 (f : Fields)
  /-- FLOG2 (R248): Faithful base-2 logarithm, variable latency. -/
  | flog2 (f : Fields)
  /-- FSIN (R248): Sine in radians, variable latency. -/
  | fsin (f : Fields)
  /-- FCOS (R248): Cosine in radians, variable latency. -/
  | fcos (f : Fields)
  /-- CVT (R250): Converts between floating and integer or floating types. -/
  | cvt (f : Fields)
  /-- CVT8 (R252): Converts to or from a binary8 format in selected bytes. -/
  | cvt8 (f : Fields)
  /-- FDOT2 (R253): Short dot product into FP32 with one rounding. -/
  | fdot2 (f : Fields)
  /-- SCACC (R254): Applies two binary8 scales to a partial sum and accumulates with one rounding. -/
  | scacc (f : Fields)
  /-- IVADD (R257): Interval add, rounded outward. -/
  | ivadd (f : Fields)
  /-- IVSUB (R257): Interval subtract, rounded outward. -/
  | ivsub (f : Fields)
  /-- IVMUL (R257): Interval multiply, rounded outward. -/
  | ivmul (f : Fields)
  /-- IVDIV (R257): Interval divide, variable latency. -/
  | ivdiv (f : Fields)
  /-- IVSQR (R257): Interval square. -/
  | ivsqr (f : Fields)
  /-- IVSQRT (R257): Interval square root, variable latency. -/
  | ivsqrt (f : Fields)
  /-- IVMIN (R257): Interval minimum. -/
  | ivmin (f : Fields)
  /-- IVMAX (R257): Interval maximum. -/
  | ivmax (f : Fields)
  /-- IVABS (R257): Interval absolute value. -/
  | ivabs (f : Fields)
  /-- IVHULL (R257): Hull of two intervals. -/
  | ivhull (f : Fields)
  /-- IVMAKE (R258): Builds an interval from two FP32 values. -/
  | ivmake (f : Fields)
  /-- IVSPLIT (R259): Splits an interval at its midpoint into two registers. -/
  | ivsplit (f : Fields)
  /-- IVTEST (R260): Writes a predicate from an interval test. -/
  | ivtest (f : Fields)
  /-- IVMID (R259): Writes one FP32 point of an interval. -/
  | ivmid (f : Fields)
  /-- DUAL_WORD (R60): Issues two short operations of the short-op table as one word. -/
  | dualWord (safe : Bool) (a b : Half)
  /-- LD (R120): Loads from global memory. -/
  | ld (f : Fields)
  /-- ST (R120): Stores to global memory. -/
  | st (f : Fields)
  /-- LDS (R120): Loads from the block's scratchpad. -/
  | lds (f : Fields)
  /-- STS (R120): Stores to the block's scratchpad. -/
  | sts (f : Fields)
  /-- LDP (R120): Loads from the fibre's private memory. -/
  | ldp (f : Fields)
  /-- STP (R120): Stores to the fibre's private memory. -/
  | stp (f : Fields)
  /-- LDRS (R110): Loads from another block's scratchpad in the cluster. -/
  | ldrs (f : Fields)
  /-- STRS (R110): Stores to another block's scratchpad in the cluster. -/
  | strs (f : Fields)
  /-- ATOM (R122): Global atomic read-modify-write that returns the old value. -/
  | atom (f : Fields)
  /-- RED (R122): Global atomic reduction without a return value. -/
  | red (f : Fields)
  /-- SATOM (R122): Scratchpad atomic that returns the old value. -/
  | satom (f : Fields)
  /-- CAS (R124): Compare-and-swap, narrow or 16-byte wide. -/
  | cas (f : Fields)
  /-- FENCE (R126): Orders the fencing lanes' accesses at a scope with acquire, release or seq kind. -/
  | fence (f : Fields)
  /-- FENCERO (R127): Invalidates the context's Grinder lines and acquires at device scope for later read-only reads. -/
  | fencero (f : Fields)
  /-- PREF (R128): Requests lines into L1 and the LLC without trapping. -/
  | pref (f : Fields)
  /-- IPREF (R129): Requests instruction-cache lines of a segment. -/
  | ipref (f : Fields)
  /-- FETCH (R130): Loads global memory through the Grinder. -/
  | fetch (f : Fields)
  /-- FETCH3 (R131): Samples a brick map trilinearly with its gradient. -/
  | fetch3 (f : Fields)
  /-- SOPEN (R134): Opens a sparse stream from a descriptor. -/
  | sopen (f : Fields)
  /-- SADV (R134): Advances or gallops a stream. -/
  | sadv (f : Fields)
  /-- STEST (R134): Writes a predicate that tells whether a stream has ended. -/
  | stest (f : Fields)
  /-- SCLOSE (R134): Closes a stream register. -/
  | sclose (f : Fields)
  /-- SISECT (R134): Runs a skip-ahead intersection of two streams. -/
  | sisect (f : Fields)
  /-- SMERGE (R134): Reports the smaller coordinate of two streams and which streams hold it. -/
  | smerge (f : Fields)
  /-- SGET (R134): Reads a stream's current coordinate and value. -/
  | sget (f : Fields)
  /-- STREAM_SETTLE (R133): The Grinder settles a stream's new state and clears busy, or holds a fault. -/
  | streamSettle (gid lane q : Nat)
  /-- ICACHE_FILL (R118): An instruction-cache line is filled after a demand miss or an IPREF. -/
  | icacheFill (core : Nat)
  /-- PRIVATE_LINE_WRITEBACK (R112): L1 writes a dirty private line's dirty sectors back to the page's target. -/
  | privateLineWriteback (gid line : Nat)
  /-- QPUT (R184): Claims a queue index per lane and appends the packet held in eight registers. -/
  | qput (f : Fields)
  /-- QPUT_SLOT_PUBLISH (R184): Once room exists, a claimed lane writes its slot and publishes the phase bit with a release. -/
  | qputSlotPublish (gid seq : Nat)
  /-- WPGET (R185): Reads a channel's write pointer and sequence number with a device-scope acquire. -/
  | wpget (f : Fields)
  /-- TBINIT (R186): Initialises a transaction barrier. -/
  | tbinit (f : Fields)
  /-- TBARR (R186): Adds bytes and one arrival to a transaction barrier as a release. -/
  | tbarr (f : Fields)
  /-- TBWAIT (R186): Waits until a transaction barrier's phase differs from the given parity, then acquires. -/
  | tbwait (f : Fields)
  /-- CPE_PACKET_ACCEPT (R166): The CPE takes in the next copy packet once its phase bit turns, checks it and registers its ranges. -/
  | cpePacketAccept (ctx header : Nat)
  /-- CHANNEL_PACKET_START (R175): A packet becomes the channel's running packet, raising S and moving P to its destination. -/
  | channelPacketStart (ctx cluster chan : Nat)
  /-- COPY_SECTOR_DELIVER (R175): A channel delivers the next destination sector in address order and advances its pointer. -/
  | copySectorDeliver (ctx cluster chan : Nat)
  /-- COPY_COMPLETE (R176): After the last byte, the CPE performs the bytes, releases locks, posts the barrier, signals and sets STATE 2. -/
  | copyComplete (ctx cluster chan : Nat)
  /-- MBARA (R292): Adds the batch's fibres toward the group's arrival at a matrix barrier. -/
  | mbara (f : Fields)
  /-- MBARW (R292): Holds the group until the relevant matrix barrier phase turns. -/
  | mbarw (f : Fields)
  /-- MMOVE (R293): Joins the matrix words before a barrier turn and reads accumulator entries into registers. -/
  | mmove (f : Fields)
  /-- MSTART (R295): Starts a matrix stream on the MSQ with arguments in x1 and x2. -/
  | mstart (f : Fields)
  /-- MZERO (R283): Writes zero into a run of accumulator entries. -/
  | mzero (x : MZero)
  /-- MBLOAD (R284): Copies a dense image from scratchpad into a B slot. -/
  | mbload (x : MBLoad)
  /-- MMUL (R285): Multiplies buffer rows by slot columns into accumulator tiles, one indivisible row update at a time. -/
  | mmul (x : MMul)
  /-- MSTORE (R286): Converts and writes an accumulator tile into scratchpad. -/
  | mstore (x : MStore)
  /-- MWAIT (R276): Holds the MSQ until a matrix barrier's arrivals reach the expected count, then acquires. -/
  | mwait (n : BitVec 4)
  /-- MARRIVE (R276): Sets the MSQ's arrival on a matrix barrier. -/
  | marrive (n : BitVec 4) (count : BitVec 6)
  /-- MLOOP (R288): Runs the following stream words count times with index-register steps. -/
  | mloop (x : MLoop)
  /-- MLOOP_PASS_END (R288): At the end of a stream loop pass, steps the index registers, decrements the count and repeats or pops. -/
  | mloopPassEnd (bid : Nat)
  /-- MATRIX_BARRIER_TURN (R276): A matrix barrier turns when arrivals, SARR and the earlier MBLOAD and MSTORE completions all hold. -/
  | matrixBarrierTurn (bid n : Nat)
  /-- MARCH (R299): Starts one ray job per participating lane once ray-job slots are free. -/
  | march (f : Fields)
  /-- RAY_SPAN_EVAL (R303): A ray job evaluates its bytecode over one span and clears, splits, pops or ends. -/
  | raySpanEval (core slot : Nat)
  /-- RAY_JOB_END (R300): A ray job writes t_hit and its status, performs its depth update and turns the registers full. -/
  | rayJobEnd (core slot : Nat)
  /-- OPAQUE_REPLY (R315): On seeing its TAG at the reply area, the marcher acquires, reads the result and resumes the job. -/
  | opaqueReply (core slot : Nat)
  /-- PRUNE (R317): Evaluates the scene over a box and writes pruned bytecode to scratchpad. -/
  | prune (f : Fields)
  /-- RDRAW (R319): Submits one triangle batch to the cluster's raster unit. -/
  | rdraw (f : Fields)
  /-- RASTER_TRIANGLE (R320): The raster unit covers, tests and writes the depth of one triangle's pixels. -/
  | rasterTriangle (cluster : Nat)
  /-- FRAGMENT_RECORD_APPEND (R321): Once room exists, an emitted quad is appended as a fragment record. -/
  | fragmentRecordAppend (cluster : Nat)
  /-- RREL (R322): Waits for earlier raster batches and their fragment fibres, then releases at a scope. -/
  | rrel (f : Fields)
  /-- ENQ (R372): Claims and publishes one queue record per participating lane. -/
  | enq (f : Fields)
  /-- ENQ_WAIT_SUSPEND (R372): After 4096 clocks waiting for room, ENQ with a successor suspends the group. -/
  | enqWaitSuspend (batch : Nat)
  /-- DEQ (R373): Claims published records for claimants, or ends the group when none can come. -/
  | deq (f : Fields)
  /-- EVSIG (R374): Adds to an event count as a release. -/
  | evsig (f : Fields)
  /-- EVWAIT (R374): Holds the batch until the event wait is met, then acquires. -/
  | evwait (f : Fields)
  /-- EVWAIT_SUSPEND (R374): After 4096 clocks of waiting, EVWAIT with a successor suspends the group. -/
  | evwaitSuspend (batch : Nat)
  /-- EVENT_WAITER_RELEASE (R369): A met event waiter is released, within 64 clocks inline or 65,536 on the overflow path. -/
  | eventWaiterRelease (batch : Nat)
  /-- SUSPEND (R375): Writes a continuation record with a wait descriptor and ends the group's fibres. -/
  | suspend (f : Fields)
  /-- SPAWN (R376): Hands the TSC a launch packet gated by a dependence counter. -/
  | spawn (f : Fields)
  /-- DCDEC (R376): Decrements a dependence counter as a release, readying its task at zero. -/
  | dcdec (f : Fields)
  /-- CONTINUATION_RESUME (R367): A ready continuation is admitted as a one-group block and restored at its successor. -/
  | continuationResume (ctx record : Nat)
  /-- TRAP (R441): Raises a SOFT trap with a software code. -/
  | trap (f : Fields)
  /-- RFT (R442): Leaves the handler, restores state from the frame, replays entries and resumes the fibres. -/
  | rft (f : Fields)
  /-- SREAD (R443): Reads a system register into a register. -/
  | sread (f : Fields)
  /-- SWRITE (R443): Writes a system register. -/
  | swrite (f : Fields)
  /-- PUBLISH (R418): Runs a publish or retire request and writes the handle or failure into a k register. -/
  | publish (f : Fields)
  /-- PMCAP_START (R484): Writes a PMCAP start record with counters and clears the group's PRE bit. -/
  | pmcapStart (f : Fields)
  /-- PMCAP_STOP (R484): Writes a PMCAP stop record with counters. -/
  | pmcapStop (f : Fields)
  /-- BRK (R464): Starts a halt wave or traps BREAK with a tag. -/
  | brk (f : Fields)
  /-- TIME (R457): Writes the global timestamp. -/
  | time (f : Fields)
  /-- ERD (R352): Reads the context's energy state by selector. -/
  | erd (f : Fields)
  /-- DBGMB (R463): Writes a value into the mailbox slot of each lane in debug mode. -/
  | dbgmb (f : Fields)
  /-- LAUNCH_ACCEPT (R332): The TSC accepts a published launch packet, checks it and assigns an acceptance time. -/
  | launchAccept (ctx header : Nat)
  /-- CARVE_OUT_CHANGE (R115): A drained core writes back private lines, invalidates L1, clears scratchpad and admits the new setting. -/
  | carveOutChange (core : Nat)
  /-- LAUNCH_COMPLETE (R343): When every block and operation has ended, writes are performed, the event is signalled and STATE becomes 2. -/
  | launchComplete (lid : Nat)
  /-- STAGE_END (R363): A stage whose producers ended and whose queues drained ends, and its waiting DEQs end their groups. -/
  | stageEnd (pipe stage : Nat)
  /-- PAGE_WALK (R392): A walker translates a virtual address in four levels and sets A and D or gives a fault. -/
  | pageWalk (ctx va : Nat) (access : Access)
  /-- TRAP_TAKE (R428): A group stops, drains its words, takes a frame, writes it and starts its handler in privileged mode. -/
  | trapTake (gid : Nat)
  /-- HOST_BAR2_WRITE (R162): A host write through BAR2 performs at system scope. -/
  | hostBar2Write (pa : Nat) (bytes : List Byte)
  /-- HOST_BAR2_READ (R162): A host read through BAR2 returns values performed at the home LLC. -/
  | hostBar2Read (pa n : Nat)
  /-- HOST_ATOMICOP (R399): A host AtomicOp through BAR2 performs at the home LLC. -/
  | hostAtomicop (op : HostAtomic) (pa size a b : Nat)
  /-- PEER_REQUEST (R402): A target chip translates and performs a peer request of a job, or faults or parks it. -/
  | peerRequest (r : PeerReq)
  /-- HOST_REGISTER_WRITE (R400): A host write to a control-window register that has no row of its own. -/
  | hostRegisterWrite (off : Nat) (value : Word)
  /-- ENGINE_STOP_ACK (R446): An engine stops at its unit and acknowledges the collector's stop request. -/
  | engineStopAck (ctx : Nat) (e : EngineId)
  /-- GROUP_STOP_TIMEOUT (R446): A group that reaches no safe point within 65,536 issue clocks stops at its current word. -/
  | groupStopTimeout (gid : Nat)
  /-- CONTEXT_STOPPED (R447): Once every engine has acknowledged, the context is declared stopped. -/
  | contextStopped (ctx : Nat)
  /-- PERST_DEASSERT (R403): Boot verifies firmware, trains memory and links, clears arrays and sets READY. -/
  | perstDeassert (image : List Byte) (trained : Bool)
  /-- ECC_CORRECTED (R452): A correctable error is corrected in place and counted. -/
  | eccCorrected (code : Nat)
  /-- ECC_UNCORRECTABLE (R452): An uncorrectable error poisons data, files a host error-log entry and raises vector 2. -/
  | eccUncorrectable (code ctx : Nat) (place : EccPlace)
  /-- LINK_DOWN (R452): After 16 failed retries a fabric link is taken down and logged. -/
  | linkDown (port : Nat)
  /-- HALT_WAVE_RECEIVE (R471): A chip receives a halt wave, records or replaces the trigger, forwards it and stops the job. -/
  | haltWaveReceive (job : Nat) (t : TrigRec) (port : Nat)
  /-- JOB_FROZEN (R471): After every engine acknowledged and 2 µs past the trigger, the chip's job state turns frozen. -/
  | jobFrozen (job : Nat)
  /-- RESUME_WAVE_RECEIVE (R471): A chip receives the resume wave, records T and forwards it. -/
  | resumeWaveReceive (job release port : Nat)
  /-- HALT_RELEASE (R476): At GTS T each chip sends freeze-buffer responses, opens its ports and resumes the job. -/
  | haltRelease (job : Nat)
  /-- TRACE_SYNC (R481): A SYNC record replaces a SAFE record at every 256th safe point and the other listed points. -/
  | traceSync (gid : Nat)
  /-- PROF_TAG (R483): When the LFSR spacing of issued words runs out, a word is tagged and recorded at write-back. -/
  | profTag (core sched : Nat)
  /-- MATRIX_OP_COMPLETE (R157): An MSQ matrix word (MBLOAD, MMUL row pass, MSTORE) finishes its work some clocks after issue, updating its storage and releasing its range-lock entries. -/
  | matrixOpComplete (bid seq : Nat)
  /-- MATRIX_STREAM_WORD_FETCH (R269): The MSQ fetches and checks its next stream word, faulting the MSQ if the word is unfetchable, is not a matrix opcode, or lies past the stream's end without MEND. -/
  | matrixStreamWordFetch (bid : Nat)
  /-- WRITE_PERFORMED_AT_SCOPE (R137): A global write that has left the writer's L1 reaches the point of coherence of a wider scope, such as the home LLC, and becomes visible there. -/
  | writePerformedAtScope (core index : Nat)
  /-- MEND (R287): Sets the MSQ state to ended once every earlier word has issued. -/
  | mend
  /-- BLOCK_ADMIT (R338): The dispatcher places the next block of launches in order on a fitting core and homes its groups. -/
  | blockAdmit
  /-- BALANCING_ROUND_END (R360): Every 65,536 clocks, reservation rates are updated and the SBC recomputes stage allotments. -/
  | balancingRoundEnd
  /-- FAULT_RECORD_FLUSH (R396): A held fault record is written to the ring when a slot becomes free. -/
  | faultRecordFlush
  /-- HSTAT_READ (R400): A host read of HSTAT returns the status and clears OVERRUN. -/
  | hstatRead
  /-- COMMAND_DONE (R400): A host command completes, writing RESULT, clearing BUSY and raising vector 1. -/
  | commandDone
  /-- CTX_CREATE (R401): Reads a context descriptor and creates the context. -/
  | ctxCreate
  /-- CTX_DESTROY (R401): Stops and discards every piece of work and state of a context. -/
  | ctxDestroy
  /-- QUEUE_REG (R401): Registers a queue header. -/
  | queueReg
  /-- QUEUE_BIND (R401): Binds host-appended copies of a queue to a launch. -/
  | queueBind
  /-- QUEUE_UNREG (R401): Unregisters a queue once its consumer leaves the packet in hand. -/
  | queueUnreg
  /-- TLB_INVAL (R394): Invalidates cached translations of a context's pages. -/
  | tlbInval
  /-- FAULT_RESUME (R398): Closes a fault record and replays every access parked on the page. -/
  | faultResume
  /-- FAULT_FAIL (R398): Closes a fault record and ends the parked accesses as access faults. -/
  | faultFail
  /-- SEAL (R395): Seals frames so that no write reaches them. -/
  | sealFrames
  /-- UNSEAL (R395): Unseals frames after discarding their instruction-cache lines. -/
  | unsealFrames
  /-- SET_BUDGET (R401): Sets EBUDGET.CHIP from the next admission decision. -/
  | setBudget
  /-- CTX_STOP (R445): The PCL stops a context and writes its save image if the area is large enough. -/
  | ctxStop
  /-- CTX_START (R449): Reads a save image and resumes the context's blocks and engines at their units. -/
  | ctxStart
  /-- CTX_SETREG (R445): Writes EBUDGET, TRAPBASE or TRAPFRAME of a context. -/
  | ctxSetreg
  /-- THERMAL_HIGH (R404): At 95 °C the part sets THERM, raises vector 3 and treats the chip budget as zero. -/
  | thermalHigh
  /-- THERMAL_RECOVER (R404): Below 90 °C the chip budget is restored for admission. -/
  | thermalRecover
  /-- THERMAL_TRIP (R404): At 110 °C every engine stops, the trip pin asserts and all state is lost. -/
  | thermalTrip
  /-- BACKGROUND_SCRUB (R455): The part scrubs GDDR and LLC sectors in the background. -/
  | backgroundScrub
  /-- HALT_ARM (R470): Sets the context's halt trigger mask. -/
  | haltArm
  /-- HALT_NOW (R458): Triggers a halt wave at the current GTS. -/
  | haltNow
  /-- HALT_RESUME (R476): Starts the resume wave with release time T. -/
  | haltResume
  /-- DBG_STUFF (R462): Runs program-buffer words as one batch of a halted group in debug mode. -/
  | dbgStuff
  /-- DBG_STEP (R477): Advances one group of a frozen job to its next safe points. -/
  | dbgStep
  /-- BP_SET (R466): Sets a breakpoint entry. -/
  | bpSet
  /-- WP_SET (R467): Sets a watchpoint entry. -/
  | wpSet
  /-- DBG_READ (R459): Returns debug state by selector. -/
  | dbgRead
  /-- DBG_WRITE (R458): Writes a debug-class register. -/
  | dbgWrite
  /-- HALT_TRIGGER (R471): A local trigger records itself, sends the halt wave and starts stopping the job. -/
  | haltTrigger
deriving DecidableEq, Repr, Inhabited

end Sys2Proof
end

