-- ==== Sys2Proof/Machine/Encoding.lean ====
section
/-! DEFINITION. The encoding tables of the part: for each row of the opcode map its opcode, its layout and the use of each
field (R41 to R65, R92, R119, R183, R210, R230, R239, R282, R290, R298, R352, R371, R418, R440, R457, R463, R464, R484), the
short-op table (R62), and the static checks of a word that R65 lists. -/

namespace Sys2Proof.Machine

/-- The layouts of R41, R43 and R44. -/
inductive Layout where
  | F | I | J | M
deriving DecidableEq, Repr, Inhabited

/-- What the DST field holds. -/
inductive DstUse where
  | none
  /-- v, k or o register (R47); o barred when the row is variable-latency (R20) -/
  | any
  | vreg | kreg
  /-- predicate in [3:0] (R55) -/
  | pred
  /-- stream register in [2:0] (R64) -/
  | stream
  /-- D and D + 1, v or k -/
  | pair
  /-- D and D + 1, v only -/
  | vpair
  /-- VOTE: predicate, or a v register for a ballot (R101) -/
  | vote
  /-- PMOV: a register, or zero when it writes predicates (R101) -/
  | pmov
  | load | loadV | store | storeV | atomic | cas
deriving DecidableEq, Repr, Inhabited

/-- What a source field holds. -/
inductive SrcUse where
  | none
  | opnd
  /-- k register, constant, literal or zero code (R230, R290, R298, R371) -/
  | uni
  | vreg | kreg
  /-- v register or the zero code (R298) -/
  | vz
  /-- an index or code in the lowest `n` bits -/
  | low (n : Nat)
  /-- the M-form's scaled offset -/
  | off
  /-- CVT's third field: a register only when the element counts differ (R250) -/
  | cvt
  /-- PMOV's sources: registers only when it writes predicates -/
  | pmov
deriving DecidableEq, Repr, Inhabited

/-- How RM is read: as a rounding mode or ignored (6 illegal, R42), zero, a cache policy (R44), or table bits (TERN). -/
inductive RmUse where
  | ignored | zero | policy | table
deriving DecidableEq, Repr, Inhabited

/-- One row of the encoding tables. `tys` lists the TY codes admitted, `imm` how many immediate bits may be non-zero, `dist` the
visibility distance of a fixed-latency result (R83), `vl` the dagger of R63. -/
structure Row where
  op : Nat
  lay : Layout
  dst : DstUse
  a : SrcUse
  b : SrcUse
  c : SrcUse
  imm : Nat
  tys : List Nat
  guard : Bool
  rm : RmUse
  fl : Bool
  sat : Bool
  dist : Nat
  vl : Bool
deriving DecidableEq, Repr, Inhabited

def tB64 : List Nat := [0]
/-- IT (R62). -/
def tIT : List Nat := [1, 2, 4, 5, 7, 8, 12, 13]
/-- IT and x8. -/
def tIX : List Nat := [1, 2, 4, 5, 7, 8, 12, 13, 14]
/-- FT5 and FT4 (R239). -/
def tFT5 : List Nat := [3, 6, 9, 10, 11]
def tFT4 : List Nat := [6, 9, 10, 11]
/-- LT (R230): every type but the 32-bit scalars. -/
def tLT : List Nat := [0, 1, 2, 3, 7, 8, 9, 10, 11, 12, 13, 14, 15]
/-- The M-form sizes (R44). -/
def tSize : List Nat := [0, 1, 2, 4, 5, 8, 9, 12, 13]
/-- The atomic types (R45). -/
def tAtom : List Nat := [0, 1, 2, 3, 4, 5, 6]
def tAll : List Nat := [0, 1, 2, 3, 4, 5, 6, 7, 8, 9, 10, 11, 12, 13, 14, 15]
/-- MOV: every code but E (R225). -/
def tMov : List Nat := [0, 1, 2, 3, 4, 5, 6, 7, 8, 9, 10, 11, 12, 13, 15]
/-- CVT's destination types (R250). -/
def tCvt : List Nat := [1, 2, 3, 4, 5, 6, 7, 8, 9, 10, 11, 12, 13]

/-- A number from (value, width) fields, the first lowest. -/
def packFields : List (Nat × Nat) → Nat
  | [] => 0
  | (v, n) :: rest => v % 2 ^ n + 2 ^ n * packFields rest

/-- The payload bits [53:0] of the matrix-stream words (R282). -/
def mzeroBits (x : MZero) : Nat := packFields [(x.entry.toNat, 16), (x.xr.toNat, 3), (x.count1.toNat, 16)]
def mbloadBits (x : MBLoad) : Nat :=
  packFields [(x.off.toNat, 14), (x.xr.toNat, 3), (x.slot.toNat, 2), (x.fmt.toNat, 5), (x.k1.toNat, 4), (x.ks.toNat, 4),
    (x.ns.toNat, 3), (x.nc1.toNat, 3)]
def mmulBits (x : MMul) : Nat :=
  packFields [(x.buf.toNat, 2), (x.aoff.toNat, 11), (x.xa.toNat, 3), (x.m1.toNat, 7), (x.k1.toNat, 4), (x.ks.toNat, 4),
    (x.slot.toNat, 2), (x.ns.toNat, 3), (x.nc1.toNat, 3), (x.fmt.toNat, 5), (x.entry.toNat, 7), (x.xc.toNat, 3)]
def mstoreBits (x : MStore) : Nat :=
  packFields [(x.entry.toNat, 16), (x.xc.toNat, 3), (x.off.toNat, 14), (x.xs.toNat, 3), (x.m1.toNat, 7), (x.cn1.toNat, 4),
    (x.out.toNat, 6), (if x.sat then 1 else 0, 1)]
def mloopBits (x : MLoop) : Nat :=
  packFields [(x.count.toNat, 16), (x.len1.toNat, 8), (x.xr1.toNat, 3), (x.step1.toNat, 16), (x.xr2.toNat, 3),
    (x.step2.toNat, 8)]

/-- How a row of the opcode table stands in memory: a full-form word, a dual word, a matrix-stream word (opcode and payload),
or no word at all (an event). -/
inductive Form where
  | full (r : Row) (f : Fields)
  | dual (safe : Bool) (a b : Half)
  | matrix (op : Nat) (payload : Nat)
  | event
deriving DecidableEq, Repr, Inhabited

/-- The encoding row of each instruction (R63 and the encoding table of its chapter). -/
def formOf : Instr → Form
  | .nop f => .full ⟨0x00, .F, .none, .none, .none, .none, 0, tB64, false, .zero, false, false, 0, false⟩ f
  | .next f => .full ⟨0x01, .J, .none, .none, .none, .none, 18, tB64, false, .zero, false, false, 0, false⟩ f
  | .nextp f => .full ⟨0x02, .J, .none, .none, .none, .none, 23, tB64, false, .zero, false, false, 0, false⟩ f
  | .nextx f => .full ⟨0x03, .F, .none, .opnd, .none, .none, 0, tB64, false, .zero, false, false, 0, false⟩ f
  | .call f => .full ⟨0x04, .J, .vreg, .none, .none, .none, 18, tB64, false, .zero, false, false, 2, false⟩ f
  | .ret f => .full ⟨0x05, .F, .none, .opnd, .none, .none, 0, tB64, false, .zero, false, false, 0, false⟩ f
  | .fork f => .full ⟨0x06, .J, .none, .none, .none, .none, 23, tB64, true, .zero, false, false, 2, false⟩ f
  | .quit f => .full ⟨0x07, .F, .none, .none, .none, .none, 0, tB64, false, .zero, false, false, 0, false⟩ f
  | .loop f => .full ⟨0x08, .I, .none, .uni, .none, .none, 10, tB64, false, .zero, false, false, 0, false⟩ f
  | .loopPassEnd _ => .event
  | .rep f => .full ⟨0x09, .I, .none, .none, .none, .none, 14, tB64, false, .zero, false, false, 0, false⟩ f
  | .bar f => .full ⟨0x0A, .F, .none, .opnd, .none, (.low 4), 0, tB64, false, .zero, false, false, 0, false⟩ f
  | .bara f => .full ⟨0x0B, .F, .none, .opnd, .none, (.low 4), 0, tB64, false, .zero, false, false, 0, false⟩ f
  | .barw f => .full ⟨0x0C, .F, .none, .none, .none, (.low 4), 0, tB64, false, .zero, false, false, 0, false⟩ f
  | .elect f => .full ⟨0x0D, .F, .pred, .none, .none, .none, 0, tB64, true, .zero, false, false, 2, false⟩ f
  | .vote f => .full ⟨0x0E, .F, .vote, (.low 4), .none, (.low 2), 0, tB64, true, .zero, false, false, 2, false⟩ f
  | .plop f => .full ⟨0x0F, .I, .pred, (.low 4), .none, .none, 16, tB64, true, .zero, false, false, 2, false⟩ f
  | .pmov f => .full ⟨0x10, .F, .pmov, .pmov, .pmov, (.low 1), 0, tB64, true, .zero, false, false, 2, false⟩ f
  | .yield f => .full ⟨0x11, .F, .none, .none, .none, .none, 0, tB64, false, .zero, false, false, 0, false⟩ f
  | .sleep f => .full ⟨0x12, .I, .none, .none, .none, .none, 16, tB64, false, .zero, false, false, 0, false⟩ f
  | .sleepEnd _ => .event
  | .live f => .full ⟨0x13, .F, .any, .none, .none, .none, 0, tB64, true, .zero, false, false, 2, false⟩ f
  | .batchForm _ _ => .event
  | .batchIssue _ _ => .event
  | .starvedEntryIssue _ _ => .event
  | .variableLatencyResult _ _ _ => .event
  | .iadd f => .full ⟨0x20, .F, .any, .opnd, .opnd, .none, 0, tIX, true, .ignored, false, true, 2, false⟩ f
  | .isub f => .full ⟨0x21, .F, .any, .opnd, .opnd, .none, 0, tIX, true, .ignored, false, true, 2, false⟩ f
  | .iaddc f => .full ⟨0x22, .F, .pair, .opnd, .opnd, .opnd, 0, [2, 5], true, .ignored, false, false, 2, false⟩ f
  | .imul f => .full ⟨0x23, .F, .any, .opnd, .opnd, .none, 0, tIX, true, .ignored, false, true, 2, false⟩ f
  | .imulh f => .full ⟨0x24, .F, .any, .opnd, .opnd, .none, 0, tIX, true, .ignored, false, false, 2, false⟩ f
  | .imad f => .full ⟨0x25, .F, .any, .opnd, .opnd, .opnd, 0, tIT, true, .ignored, false, true, 2, false⟩ f
  | .imadw f => .full ⟨0x26, .F, .any, .opnd, .opnd, .opnd, 0, [4, 5], true, .ignored, false, true, 2, false⟩ f
  | .iabs f => .full ⟨0x27, .F, .any, .opnd, .none, .none, 0, [1, 4, 7, 12], true, .ignored, false, true, 2, false⟩ f
  | .imin f => .full ⟨0x28, .F, .any, .opnd, .opnd, .none, 0, tIX, true, .ignored, false, false, 2, false⟩ f
  | .imax f => .full ⟨0x29, .F, .any, .opnd, .opnd, .none, 0, tIX, true, .ignored, false, false, 2, false⟩ f
  | .idiv f => .full ⟨0x45, .F, .any, .opnd, .opnd, .none, 0, [1, 2, 4, 5, 7, 8], true, .ignored, false, true, 0, true⟩ f
  | .irem f => .full ⟨0x46, .F, .any, .opnd, .opnd, .none, 0, [1, 2, 4, 5, 7, 8], true, .ignored, false, false, 0, true⟩ f
  | .icmp f => .full ⟨0x2A, .F, .pred, .opnd, .opnd, (.low 4), 0, [1, 2, 4, 5], true, .ignored, false, false, 2, false⟩ f
  | .sel f => .full ⟨0x2B, .F, .any, .opnd, .opnd, .opnd, 0, (0 :: tIT), true, .ignored, false, false, 2, false⟩ f
  | .and f => .full ⟨0x2C, .F, .any, .opnd, .opnd, .none, 0, [0, 4, 5], true, .ignored, false, false, 2, false⟩ f
  | .or f => .full ⟨0x2D, .F, .any, .opnd, .opnd, .none, 0, [0, 4, 5], true, .ignored, false, false, 2, false⟩ f
  | .xor f => .full ⟨0x2E, .F, .any, .opnd, .opnd, .none, 0, [0, 4, 5], true, .ignored, false, false, 2, false⟩ f
  | .andn f => .full ⟨0x2F, .F, .any, .opnd, .opnd, .none, 0, [0, 4, 5], true, .ignored, false, false, 2, false⟩ f
  | .tern f => .full ⟨0x30, .F, .any, .opnd, .opnd, .opnd, 0, tAll, true, .table, false, false, 2, false⟩ f
  | .shl f => .full ⟨0x31, .F, .any, .opnd, .opnd, .none, 0, (0 :: tIX), true, .ignored, false, false, 2, false⟩ f
  | .shr f => .full ⟨0x32, .F, .any, .opnd, .opnd, .none, 0, (0 :: tIX), true, .ignored, false, false, 2, false⟩ f
  | .sar f => .full ⟨0x33, .F, .any, .opnd, .opnd, .none, 0, (0 :: tIX), true, .ignored, false, false, 2, false⟩ f
  | .rot f => .full ⟨0x34, .F, .any, .opnd, .opnd, .none, 0, (0 :: tIX), true, .ignored, false, false, 2, false⟩ f
  | .funnel f => .full ⟨0x35, .F, .any, .opnd, .opnd, .opnd, 0, [0, 2, 5, 8], true, .ignored, false, false, 2, false⟩ f
  | .bfe f => .full ⟨0x36, .F, .any, .opnd, .opnd, .opnd, 0, [0, 1, 2, 4, 5, 7, 8], true, .ignored, false, false, 2, false⟩ f
  | .bfi f => .full ⟨0x37, .F, .any, .opnd, .opnd, .opnd, 0, [0, 2, 5, 8, 13], true, .ignored, false, false, 2, false⟩ f
  | .brev f => .full ⟨0x38, .F, .any, .opnd, .none, .none, 0, [0, 5, 8, 13], true, .ignored, false, false, 2, false⟩ f
  | .popc f => .full ⟨0x39, .F, .any, .opnd, .none, .none, 0, [0, 5, 8, 13], true, .ignored, false, false, 2, false⟩ f
  | .clz f => .full ⟨0x3A, .F, .any, .opnd, .none, .none, 0, [0, 5, 8, 13], true, .ignored, false, false, 2, false⟩ f
  | .ctz f => .full ⟨0x3B, .F, .any, .opnd, .none, .none, 0, [0, 5, 8, 13], true, .ignored, false, false, 2, false⟩ f
  | .bperm f => .full ⟨0x3C, .F, .any, .opnd, .opnd, .opnd, 0, tB64, true, .ignored, false, false, 2, false⟩ f
  | .isad f => .full ⟨0x3D, .F, .any, .opnd, .opnd, .opnd, 0, [7, 8, 12, 13, 14], true, .ignored, false, false, 2, false⟩ f
  | .idot f => .full ⟨0x3E, .F, .any, .opnd, .opnd, .opnd, 0, [12, 13, 14], true, .ignored, false, true, 2, false⟩ f
  | .pack f => .full ⟨0x3F, .F, .any, .opnd, .opnd, (.low 4), 0, [7, 8, 12, 13], true, .ignored, false, true, 2, false⟩ f
  | .unpack f => .full ⟨0x40, .F, .any, .opnd, .opnd, (.low 4), 0, [1, 2, 7, 8], true, .ignored, false, false, 2, false⟩ f
  | .mov f => .full ⟨0x41, .F, .any, .opnd, .none, .none, 0, tMov, true, .ignored, false, false, 2, false⟩ f
  | .movi f => .full ⟨0x42, .J, .any, .none, .none, .none, 27, tB64, true, .ignored, false, false, 2, false⟩ f
  | .lea f => .full ⟨0x43, .M, .any, .opnd, .opnd, .off, 0, tSize, true, .zero, false, false, 2, false⟩ f
  | .hrand f => .full ⟨0x44, .F, .any, .opnd, .opnd, .opnd, 0, tB64, true, .ignored, false, false, 2, false⟩ f
  | .lxch f => .full ⟨0x80, .F, .any, .vreg, .opnd, .none, 0, tLT, true, .ignored, false, false, 3, false⟩ f
  | .lxor f => .full ⟨0x81, .F, .any, .vreg, .opnd, .none, 0, tLT, true, .ignored, false, false, 3, false⟩ f
  | .lbcast f => .full ⟨0x82, .F, .any, .vreg, .uni, .none, 0, tLT, true, .ignored, false, false, 3, false⟩ f
  | .qxch f => .full ⟨0x83, .F, .any, .vreg, .opnd, .none, 0, tB64, true, .ignored, false, false, 2, false⟩ f
  | .qddx f => .full ⟨0x84, .F, .any, .vreg, .none, .none, 0, tFT5, true, .ignored, true, false, 4, false⟩ f
  | .qddy f => .full ⟨0x85, .F, .any, .vreg, .none, .none, 0, tFT5, true, .ignored, true, false, 4, false⟩ f
  | .lreduce f => .full ⟨0x86, .F, .any, .vreg, .uni, .none, 0, (tIT ++ tFT5), true, .ignored, true, true, 3, false⟩ f
  | .lscan f => .full ⟨0x87, .F, .any, .vreg, .uni, .none, 0, (tIT ++ tFT5), true, .ignored, true, true, 3, false⟩ f
  | .kget f => .full ⟨0x88, .F, .any, .kreg, .opnd, .none, 0, tB64, true, .ignored, false, false, 0, true⟩ f
  | .helper f => .full ⟨0x89, .F, .pred, .none, .none, .none, 0, tB64, true, .ignored, false, false, 2, false⟩ f
  | .subswz f => .full ⟨0x8A, .F, .any, .vreg, .opnd, .none, 0, [7, 8, 9, 10, 11, 12, 13, 14], true, .ignored, false, false, 2, false⟩ f
  | .fadd f => .full ⟨0x50, .F, .any, .opnd, .opnd, .none, 0, tFT5, true, .ignored, true, true, 4, false⟩ f
  | .fsub f => .full ⟨0x51, .F, .any, .opnd, .opnd, .none, 0, tFT5, true, .ignored, true, true, 4, false⟩ f
  | .fmul f => .full ⟨0x52, .F, .any, .opnd, .opnd, .none, 0, tFT5, true, .ignored, true, true, 4, false⟩ f
  | .fma f => .full ⟨0x53, .F, .any, .opnd, .opnd, .opnd, 0, tFT5, true, .ignored, true, true, 4, false⟩ f
  | .fmin f => .full ⟨0x54, .F, .any, .opnd, .opnd, .none, 0, tFT5, true, .ignored, true, false, 4, false⟩ f
  | .fmax f => .full ⟨0x55, .F, .any, .opnd, .opnd, .none, 0, tFT5, true, .ignored, true, false, 4, false⟩ f
  | .fminn f => .full ⟨0x56, .F, .any, .opnd, .opnd, .none, 0, tFT5, true, .ignored, true, false, 4, false⟩ f
  | .fmaxn f => .full ⟨0x57, .F, .any, .opnd, .opnd, .none, 0, tFT5, true, .ignored, true, false, 4, false⟩ f
  | .fcmp f => .full ⟨0x58, .F, .pred, .opnd, .opnd, (.low 4), 0, [3, 6], true, .ignored, true, false, 2, false⟩ f
  | .fclass f => .full ⟨0x59, .F, .any, .opnd, .none, .none, 0, tFT5, true, .ignored, true, false, 4, false⟩ f
  | .fneg f => .full ⟨0x5A, .F, .any, .opnd, .none, .none, 0, tFT5, true, .ignored, true, false, 4, false⟩ f
  | .fabs f => .full ⟨0x5B, .F, .any, .opnd, .none, .none, 0, tFT5, true, .ignored, true, false, 4, false⟩ f
  | .frint f => .full ⟨0x5C, .F, .any, .opnd, .none, .none, 0, tFT5, true, .ignored, true, false, 4, false⟩ f
  | .ffract f => .full ⟨0x5D, .F, .any, .opnd, .none, .none, 0, tFT5, true, .ignored, true, false, 4, false⟩ f
  | .fldexp f => .full ⟨0x5E, .F, .any, .opnd, .opnd, .none, 0, tFT5, true, .ignored, true, true, 4, false⟩ f
  | .ffrexp f => .full ⟨0x5F, .F, .pair, .opnd, .none, .none, 0, tFT5, true, .ignored, true, false, 4, false⟩ f
  | .frcp f => .full ⟨0x60, .F, .any, .opnd, .none, .none, 0, tFT5, true, .ignored, true, true, 0, true⟩ f
  | .frsq f => .full ⟨0x61, .F, .any, .opnd, .none, .none, 0, tFT5, true, .ignored, true, false, 0, true⟩ f
  | .fsqrt f => .full ⟨0x62, .F, .any, .opnd, .none, .none, 0, tFT5, true, .ignored, true, false, 0, true⟩ f
  | .fdiv f => .full ⟨0x63, .F, .any, .opnd, .opnd, .none, 0, tFT5, true, .ignored, true, true, 0, true⟩ f
  | .fexp2 f => .full ⟨0x64, .F, .any, .opnd, .none, .none, 0, tFT4, true, .ignored, true, true, 0, true⟩ f
  | .flog2 f => .full ⟨0x65, .F, .any, .opnd, .none, .none, 0, tFT4, true, .ignored, true, false, 0, true⟩ f
  | .fsin f => .full ⟨0x66, .F, .any, .opnd, .none, .none, 0, tFT4, true, .ignored, true, false, 0, true⟩ f
  | .fcos f => .full ⟨0x67, .F, .any, .opnd, .none, .none, 0, tFT4, true, .ignored, true, false, 0, true⟩ f
  | .cvt f => .full ⟨0x68, .F, .any, .opnd, (.low 4), .cvt, 0, tCvt, true, .ignored, true, true, 4, false⟩ f
  | .cvt8 f => .full ⟨0x69, .F, .any, .opnd, (.low 9), .none, 0, tFT4, true, .ignored, true, true, 4, false⟩ f
  | .fdot2 f => .full ⟨0x6A, .F, .any, .opnd, .opnd, .opnd, 0, [10, 11, 14], true, .ignored, true, true, 4, false⟩ f
  | .scacc f => .full ⟨0x6B, .F, .any, .opnd, .opnd, .none, 0, [14], true, .ignored, true, true, 4, false⟩ f
  | .ivadd f => .full ⟨0x6C, .F, .any, .opnd, .opnd, .none, 0, [15], true, .ignored, false, false, 4, false⟩ f
  | .ivsub f => .full ⟨0x6D, .F, .any, .opnd, .opnd, .none, 0, [15], true, .ignored, false, false, 4, false⟩ f
  | .ivmul f => .full ⟨0x6E, .F, .any, .opnd, .opnd, .none, 0, [15], true, .ignored, false, false, 6, false⟩ f
  | .ivdiv f => .full ⟨0x6F, .F, .any, .opnd, .opnd, .none, 0, [15], true, .ignored, false, false, 0, true⟩ f
  | .ivsqr f => .full ⟨0x70, .F, .any, .opnd, .none, .none, 0, [15], true, .ignored, false, false, 6, false⟩ f
  | .ivsqrt f => .full ⟨0x71, .F, .any, .opnd, .none, .none, 0, [15], true, .ignored, false, false, 0, true⟩ f
  | .ivmin f => .full ⟨0x72, .F, .any, .opnd, .opnd, .none, 0, [15], true, .ignored, false, false, 6, false⟩ f
  | .ivmax f => .full ⟨0x73, .F, .any, .opnd, .opnd, .none, 0, [15], true, .ignored, false, false, 6, false⟩ f
  | .ivabs f => .full ⟨0x74, .F, .any, .opnd, .none, .none, 0, [15], true, .ignored, false, false, 6, false⟩ f
  | .ivhull f => .full ⟨0x75, .F, .any, .opnd, .opnd, .none, 0, [15], true, .ignored, false, false, 6, false⟩ f
  | .ivmake f => .full ⟨0x76, .F, .any, .opnd, .opnd, .none, 0, [15], true, .ignored, false, false, 6, false⟩ f
  | .ivsplit f => .full ⟨0x77, .F, .pair, .opnd, .none, .none, 0, [15], true, .ignored, false, false, 6, false⟩ f
  | .ivtest f => .full ⟨0x78, .F, .pred, .opnd, (.low 3), .none, 0, [15], true, .ignored, false, false, 6, false⟩ f
  | .ivmid f => .full ⟨0x79, .F, .any, .opnd, .none, .none, 0, [15], true, .ignored, false, false, 6, false⟩ f
  | .dualWord s a b => .dual s a b
  | .ld f => .full ⟨0xA0, .M, .load, .opnd, .opnd, .off, 0, tSize, true, .policy, false, false, 0, true⟩ f
  | .st f => .full ⟨0xA1, .M, .store, .opnd, .opnd, .off, 0, tSize, true, .policy, false, false, 0, false⟩ f
  | .lds f => .full ⟨0xA2, .M, .load, .opnd, .opnd, .off, 0, tSize, true, .zero, false, false, 0, true⟩ f
  | .sts f => .full ⟨0xA3, .M, .store, .opnd, .opnd, .off, 0, tSize, true, .zero, false, false, 0, false⟩ f
  | .ldp f => .full ⟨0xA4, .M, .loadV, .opnd, .opnd, .off, 0, tSize, true, .zero, false, false, 0, true⟩ f
  | .stp f => .full ⟨0xA5, .M, .storeV, .opnd, .opnd, .off, 0, tSize, true, .zero, false, false, 0, false⟩ f
  | .ldrs f => .full ⟨0xB7, .M, .load, .opnd, .opnd, .off, 0, tSize, true, .zero, false, false, 0, true⟩ f
  | .strs f => .full ⟨0xB8, .M, .store, .opnd, .opnd, .off, 0, tSize, true, .zero, false, false, 0, false⟩ f
  | .atom f => .full ⟨0xA6, .M, .atomic, .opnd, (.low 6), .off, 0, tAtom, true, .zero, false, false, 0, true⟩ f
  | .red f => .full ⟨0xA7, .M, .atomic, .opnd, (.low 6), .off, 0, tAtom, true, .zero, false, false, 0, false⟩ f
  | .satom f => .full ⟨0xA8, .M, .atomic, .opnd, (.low 6), .off, 0, tAtom, true, .zero, false, false, 0, true⟩ f
  | .cas f => .full ⟨0xA9, .M, .cas, .opnd, (.low 6), .off, 0, tAtom, true, .zero, false, false, 0, true⟩ f
  | .fence f => .full ⟨0xAA, .F, .none, .none, .none, (.low 5), 0, tB64, true, .zero, false, false, 0, false⟩ f
  | .fencero f => .full ⟨0xAB, .F, .none, .none, .none, .none, 0, tB64, true, .zero, false, false, 0, false⟩ f
  | .pref f => .full ⟨0xAC, .M, .none, .opnd, .opnd, .off, 0, tSize, true, .policy, false, false, 0, false⟩ f
  | .ipref f => .full ⟨0xAD, .J, .none, .none, .none, .none, 18, tB64, true, .ignored, false, false, 0, false⟩ f
  | .fetch f => .full ⟨0xAE, .F, .load, .opnd, .opnd, .none, 0, tSize, true, .policy, false, false, 0, true⟩ f
  | .fetch3 f => .full ⟨0xAF, .F, .vpair, .opnd, .vreg, .none, 0, [9], true, .ignored, false, false, 0, true⟩ f
  | .sopen f => .full ⟨0xB0, .F, .stream, .opnd, .none, .none, 0, tB64, true, .ignored, false, false, 0, false⟩ f
  | .sadv f => .full ⟨0xB1, .F, .stream, .opnd, .none, .none, 0, tB64, true, .ignored, false, false, 0, false⟩ f
  | .stest f => .full ⟨0xB2, .F, .pred, (.low 3), .none, .none, 0, tB64, true, .ignored, false, false, 2, false⟩ f
  | .sclose f => .full ⟨0xB3, .F, .stream, .none, .none, .none, 0, tB64, true, .ignored, false, false, 0, false⟩ f
  | .sisect f => .full ⟨0xB4, .F, .stream, (.low 3), .none, .none, 0, tB64, true, .ignored, false, false, 0, false⟩ f
  | .smerge f => .full ⟨0xB5, .F, .vreg, (.low 3), (.low 3), .none, 0, tB64, true, .ignored, false, false, 2, false⟩ f
  | .sget f => .full ⟨0xB6, .F, .vpair, (.low 3), .none, .none, 0, tB64, true, .ignored, false, false, 0, true⟩ f
  | .streamSettle _ _ _ => .event
  | .icacheFill _ => .event
  | .privateLineWriteback _ _ => .event
  | .qput f => .full ⟨0xC0, .F, .none, .opnd, .vreg, (.low 3), 0, tB64, true, .zero, false, false, 0, false⟩ f
  | .qputSlotPublish _ _ => .event
  | .wpget f => .full ⟨0xC1, .F, .pair, .opnd, .none, .none, 0, tB64, true, .zero, false, false, 0, true⟩ f
  | .tbinit f => .full ⟨0xC2, .F, .none, .opnd, .opnd, .opnd, 0, tB64, true, .zero, false, false, 0, false⟩ f
  | .tbarr f => .full ⟨0xC3, .F, .none, .opnd, .opnd, .none, 0, tB64, true, .zero, false, false, 0, false⟩ f
  | .tbwait f => .full ⟨0xC4, .F, .none, .opnd, .opnd, .none, 0, tB64, true, .zero, false, false, 0, false⟩ f
  | .cpePacketAccept _ _ => .event
  | .channelPacketStart _ _ _ => .event
  | .copySectorDeliver _ _ _ => .event
  | .copyComplete _ _ _ => .event
  | .mbara f => .full ⟨0xC5, .F, .none, .none, .none, (.low 4), 0, tB64, false, .zero, false, false, 0, false⟩ f
  | .mbarw f => .full ⟨0xC6, .F, .none, .none, .none, (.low 4), 0, tB64, false, .zero, false, false, 0, false⟩ f
  | .mmove f => .full ⟨0xC7, .F, .any, .opnd, .uni, .uni, 0, [7, 9], true, .zero, false, false, 0, true⟩ f
  | .mstart f => .full ⟨0xC8, .F, .none, .uni, .uni, .none, 0, tB64, true, .zero, false, false, 0, false⟩ f
  | .mzero x => .matrix 0xE0 (mzeroBits x)
  | .mbload x => .matrix 0xE1 (mbloadBits x)
  | .mmul x => .matrix 0xE2 (mmulBits x)
  | .mstore x => .matrix 0xE3 (mstoreBits x)
  | .mwait n => .matrix 0xE4 n.toNat
  | .marrive n count => .matrix 0xE5 (n.toNat + count.toNat * 16)
  | .mloop x => .matrix 0xE6 (mloopBits x)
  | .mloopPassEnd _ => .event
  | .mend => .matrix 0xE7 0
  | .matrixBarrierTurn _ _ => .event
  | .march f => .full ⟨0xC9, .F, .vpair, .vreg, .opnd, .vz, 0, tB64, true, .zero, false, false, 0, true⟩ f
  | .raySpanEval _ _ => .event
  | .rayJobEnd _ _ => .event
  | .opaqueReply _ _ => .event
  | .prune f => .full ⟨0xCA, .F, .kreg, .uni, .kreg, .uni, 0, tB64, false, .zero, false, false, 0, true⟩ f
  | .rdraw f => .full ⟨0xCB, .F, .none, .uni, .none, .none, 0, tB64, true, .zero, false, false, 0, false⟩ f
  | .rasterTriangle _ => .event
  | .fragmentRecordAppend _ => .event
  | .rrel f => .full ⟨0xCC, .F, .none, .none, .none, (.low 3), 0, tB64, true, .zero, false, false, 0, false⟩ f
  | .enq f => .full ⟨0xCD, .F, .none, .vreg, .uni, .uni, 0, tB64, true, .zero, false, false, 0, false⟩ f
  | .enqWaitSuspend _ => .event
  | .deq f => .full ⟨0xCE, .F, .vreg, .none, .uni, (.low 5), 0, tB64, true, .zero, false, false, 0, true⟩ f
  | .evsig f => .full ⟨0xCF, .F, .none, .opnd, .opnd, .none, 0, tB64, true, .zero, false, false, 0, false⟩ f
  | .evwait f => .full ⟨0xD0, .F, .none, .opnd, .opnd, .uni, 0, tB64, true, .zero, false, false, 0, false⟩ f
  | .evwaitSuspend _ => .event
  | .eventWaiterRelease _ => .event
  | .suspend f => .full ⟨0xD1, .F, .none, .uni, .uni, .none, 0, tB64, false, .zero, false, false, 0, false⟩ f
  | .spawn f => .full ⟨0xD2, .F, .none, .opnd, .vreg, .none, 0, tB64, true, .zero, false, false, 0, false⟩ f
  | .dcdec f => .full ⟨0xD3, .F, .none, .opnd, .opnd, .none, 0, tB64, true, .zero, false, false, 0, false⟩ f
  | .continuationResume _ _ => .event
  | .trap f => .full ⟨0xF0, .I, .none, .none, .none, .none, 16, tB64, true, .zero, false, false, 0, false⟩ f
  | .rft f => .full ⟨0xF1, .F, .none, .none, .none, .none, 0, tB64, false, .zero, false, false, 0, false⟩ f
  | .sread f => .full ⟨0xF2, .I, .any, .none, .none, .none, 8, tB64, true, .zero, false, false, 0, true⟩ f
  | .swrite f => .full ⟨0xF3, .I, .none, .opnd, .none, .none, 8, tB64, true, .zero, false, false, 0, false⟩ f
  | .publish f => .full ⟨0xF4, .F, .kreg, .uni, .none, .none, 0, tB64, false, .zero, false, false, 0, true⟩ f
  | .pmcapStart f => .full ⟨0xF5, .F, .none, .uni, .none, (.low 1), 0, tB64, true, .zero, false, false, 0, false⟩ f
  | .pmcapStop f => .full ⟨0xF5, .F, .none, .uni, .none, (.low 1), 0, tB64, true, .zero, false, false, 0, false⟩ f
  | .brk f => .full ⟨0xF6, .I, .none, .none, .none, .none, 16, tB64, true, .ignored, false, false, 0, false⟩ f
  | .time f => .full ⟨0xF7, .F, .any, .none, .none, .none, 0, tB64, true, .zero, false, false, 2, false⟩ f
  | .erd f => .full ⟨0xF8, .F, .any, .opnd, .none, .none, 0, tB64, true, .zero, false, false, 0, true⟩ f
  | .dbgmb f => .full ⟨0xF9, .F, .none, .opnd, .none, .none, 0, tB64, true, .zero, false, false, 0, false⟩ f
  | .launchAccept _ _ => .event
  | .blockAdmit => .event
  | .carveOutChange _ => .event
  | .launchComplete _ => .event
  | .balancingRoundEnd => .event
  | .stageEnd _ _ => .event
  | .pageWalk _ _ _ => .event
  | .faultRecordFlush => .event
  | .trapTake _ => .event
  | .hostBar2Write _ _ => .event
  | .hostBar2Read _ _ => .event
  | .hostAtomicop _ _ _ _ _ => .event
  | .peerRequest _ => .event
  | .hstatRead => .event
  | .hostRegisterWrite _ _ => .event
  | .commandDone => .event
  | .ctxCreate => .event
  | .ctxDestroy => .event
  | .queueReg => .event
  | .queueBind => .event
  | .queueUnreg => .event
  | .tlbInval => .event
  | .faultResume => .event
  | .faultFail => .event
  | .sealFrames => .event
  | .unsealFrames => .event
  | .setBudget => .event
  | .ctxStop => .event
  | .ctxStart => .event
  | .ctxSetreg => .event
  | .engineStopAck _ _ => .event
  | .groupStopTimeout _ => .event
  | .contextStopped _ => .event
  | .perstDeassert _ _ => .event
  | .thermalHigh => .event
  | .thermalRecover => .event
  | .thermalTrip => .event
  | .eccCorrected _ => .event
  | .eccUncorrectable _ _ _ => .event
  | .linkDown _ => .event
  | .backgroundScrub => .event
  | .haltArm => .event
  | .haltNow => .event
  | .haltResume => .event
  | .dbgStuff => .event
  | .dbgStep => .event
  | .bpSet => .event
  | .wpSet => .event
  | .dbgRead => .event
  | .dbgWrite => .event
  | .haltTrigger => .event
  | .haltWaveReceive _ _ _ => .event
  | .jobFrozen _ => .event
  | .resumeWaveReceive _ _ _ => .event
  | .haltRelease _ => .event
  | .traceSync _ => .event
  | .profTag _ _ => .event
  | .matrixOpComplete _ _ => .event
  | .matrixStreamWordFetch _ => .event
  | .writePerformedAtScope _ _ => .event

/-- The instruction of a full-form opcode outside the matrix stream (R63); none for a reserved opcode. -/
def ofOp (op : Nat) (f : Fields) : Option Instr :=
  match op with
  | 0x00 => some (.nop f)
  | 0x01 => some (.next f)
  | 0x02 => some (.nextp f)
  | 0x03 => some (.nextx f)
  | 0x04 => some (.call f)
  | 0x05 => some (.ret f)
  | 0x06 => some (.fork f)
  | 0x07 => some (.quit f)
  | 0x08 => some (.loop f)
  | 0x09 => some (.rep f)
  | 0x0A => some (.bar f)
  | 0x0B => some (.bara f)
  | 0x0C => some (.barw f)
  | 0x0D => some (.elect f)
  | 0x0E => some (.vote f)
  | 0x0F => some (.plop f)
  | 0x10 => some (.pmov f)
  | 0x11 => some (.yield f)
  | 0x12 => some (.sleep f)
  | 0x13 => some (.live f)
  | 0x20 => some (.iadd f)
  | 0x21 => some (.isub f)
  | 0x22 => some (.iaddc f)
  | 0x23 => some (.imul f)
  | 0x24 => some (.imulh f)
  | 0x25 => some (.imad f)
  | 0x26 => some (.imadw f)
  | 0x27 => some (.iabs f)
  | 0x28 => some (.imin f)
  | 0x29 => some (.imax f)
  | 0x45 => some (.idiv f)
  | 0x46 => some (.irem f)
  | 0x2A => some (.icmp f)
  | 0x2B => some (.sel f)
  | 0x2C => some (.and f)
  | 0x2D => some (.or f)
  | 0x2E => some (.xor f)
  | 0x2F => some (.andn f)
  | 0x30 => some (.tern f)
  | 0x31 => some (.shl f)
  | 0x32 => some (.shr f)
  | 0x33 => some (.sar f)
  | 0x34 => some (.rot f)
  | 0x35 => some (.funnel f)
  | 0x36 => some (.bfe f)
  | 0x37 => some (.bfi f)
  | 0x38 => some (.brev f)
  | 0x39 => some (.popc f)
  | 0x3A => some (.clz f)
  | 0x3B => some (.ctz f)
  | 0x3C => some (.bperm f)
  | 0x3D => some (.isad f)
  | 0x3E => some (.idot f)
  | 0x3F => some (.pack f)
  | 0x40 => some (.unpack f)
  | 0x41 => some (.mov f)
  | 0x42 => some (.movi f)
  | 0x43 => some (.lea f)
  | 0x44 => some (.hrand f)
  | 0x80 => some (.lxch f)
  | 0x81 => some (.lxor f)
  | 0x82 => some (.lbcast f)
  | 0x83 => some (.qxch f)
  | 0x84 => some (.qddx f)
  | 0x85 => some (.qddy f)
  | 0x86 => some (.lreduce f)
  | 0x87 => some (.lscan f)
  | 0x88 => some (.kget f)
  | 0x89 => some (.helper f)
  | 0x8A => some (.subswz f)
  | 0x50 => some (.fadd f)
  | 0x51 => some (.fsub f)
  | 0x52 => some (.fmul f)
  | 0x53 => some (.fma f)
  | 0x54 => some (.fmin f)
  | 0x55 => some (.fmax f)
  | 0x56 => some (.fminn f)
  | 0x57 => some (.fmaxn f)
  | 0x58 => some (.fcmp f)
  | 0x59 => some (.fclass f)
  | 0x5A => some (.fneg f)
  | 0x5B => some (.fabs f)
  | 0x5C => some (.frint f)
  | 0x5D => some (.ffract f)
  | 0x5E => some (.fldexp f)
  | 0x5F => some (.ffrexp f)
  | 0x60 => some (.frcp f)
  | 0x61 => some (.frsq f)
  | 0x62 => some (.fsqrt f)
  | 0x63 => some (.fdiv f)
  | 0x64 => some (.fexp2 f)
  | 0x65 => some (.flog2 f)
  | 0x66 => some (.fsin f)
  | 0x67 => some (.fcos f)
  | 0x68 => some (.cvt f)
  | 0x69 => some (.cvt8 f)
  | 0x6A => some (.fdot2 f)
  | 0x6B => some (.scacc f)
  | 0x6C => some (.ivadd f)
  | 0x6D => some (.ivsub f)
  | 0x6E => some (.ivmul f)
  | 0x6F => some (.ivdiv f)
  | 0x70 => some (.ivsqr f)
  | 0x71 => some (.ivsqrt f)
  | 0x72 => some (.ivmin f)
  | 0x73 => some (.ivmax f)
  | 0x74 => some (.ivabs f)
  | 0x75 => some (.ivhull f)
  | 0x76 => some (.ivmake f)
  | 0x77 => some (.ivsplit f)
  | 0x78 => some (.ivtest f)
  | 0x79 => some (.ivmid f)
  | 0xA0 => some (.ld f)
  | 0xA1 => some (.st f)
  | 0xA2 => some (.lds f)
  | 0xA3 => some (.sts f)
  | 0xA4 => some (.ldp f)
  | 0xA5 => some (.stp f)
  | 0xB7 => some (.ldrs f)
  | 0xB8 => some (.strs f)
  | 0xA6 => some (.atom f)
  | 0xA7 => some (.red f)
  | 0xA8 => some (.satom f)
  | 0xA9 => some (.cas f)
  | 0xAA => some (.fence f)
  | 0xAB => some (.fencero f)
  | 0xAC => some (.pref f)
  | 0xAD => some (.ipref f)
  | 0xAE => some (.fetch f)
  | 0xAF => some (.fetch3 f)
  | 0xB0 => some (.sopen f)
  | 0xB1 => some (.sadv f)
  | 0xB2 => some (.stest f)
  | 0xB3 => some (.sclose f)
  | 0xB4 => some (.sisect f)
  | 0xB5 => some (.smerge f)
  | 0xB6 => some (.sget f)
  | 0xC0 => some (.qput f)
  | 0xC1 => some (.wpget f)
  | 0xC2 => some (.tbinit f)
  | 0xC3 => some (.tbarr f)
  | 0xC4 => some (.tbwait f)
  | 0xC5 => some (.mbara f)
  | 0xC6 => some (.mbarw f)
  | 0xC7 => some (.mmove f)
  | 0xC8 => some (.mstart f)
  | 0xC9 => some (.march f)
  | 0xCA => some (.prune f)
  | 0xCB => some (.rdraw f)
  | 0xCC => some (.rrel f)
  | 0xCD => some (.enq f)
  | 0xCE => some (.deq f)
  | 0xCF => some (.evsig f)
  | 0xD0 => some (.evwait f)
  | 0xD1 => some (.suspend f)
  | 0xD2 => some (.spawn f)
  | 0xD3 => some (.dcdec f)
  | 0xF0 => some (.trap f)
  | 0xF1 => some (.rft f)
  | 0xF2 => some (.sread f)
  | 0xF3 => some (.swrite f)
  | 0xF4 => some (.publish f)
  | 0xF6 => some (.brk f)
  | 0xF7 => some (.time f)
  | 0xF8 => some (.erd f)
  | 0xF9 => some (.dbgmb f)
  | 0xF5 => some (if f.sc.getLsbD 0 then .pmcapStop f else .pmcapStart f)
  | _ => none

/-- The I-form immediate [31:14] and the J-form immediate [40:14] (R43). -/
def imm18 (f : Fields) : BitVec 18 := f.sb ++ f.sc
def imm27 (f : Fields) : BitVec 27 := f.sa ++ f.sb ++ f.sc

/-- The immediate of a row's layout, unsigned; zero where there is none. -/
def immOf (r : Row) (f : Fields) : Nat :=
  match r.lay with
  | .I => (imm18 f).toNat
  | .J => (imm27 f).toNat
  | _ => 0

/-- TY E under a row that takes a type puts a format code into SC[4:0] (R53). -/
def x8Form (r : Row) (f : Fields) : Bool := f.ty == 14 && r.lay == .F && r.op != 0x30

/-- The element counts of R250. -/
def cvtSameCount (f : Fields) : Bool :=
  (Ty.ofCode f.ty.toNat).count == (Ty.ofCode (f.sb.toNat % 16)).count

/-- The use of DST, A, B and C in a given word, with the forms that depend on another field resolved. -/
def dstUse (r : Row) (f : Fields) : DstUse :=
  match r.dst with
  | .vote => if f.sc.toNat % 4 = 2 then .vreg else .pred
  | .pmov => if f.sc.getLsbD 0 then .none else .any
  | u => u

def srcUseOf (_r : Row) (f : Fields) (u : SrcUse) : SrcUse :=
  match u with
  | .cvt => if cvtSameCount f then .none else .opnd
  | .pmov => if f.sc.getLsbD 0 then .opnd else .none
  | u => u

def useA (r : Row) (f : Fields) : SrcUse := srcUseOf r f r.a
def useB (r : Row) (f : Fields) : SrcUse := srcUseOf r f r.b
def useC (r : Row) (f : Fields) : SrcUse := if x8Form r f then .low 5 else srcUseOf r f r.c

/-- A source field that holds a 9-bit operand code. -/
def SrcUse.isOpnd : SrcUse → Bool
  | .opnd | .uni | .vreg | .kreg | .vz => true
  | _ => false

/-- The operand codes of a word's sources A, B and C; none for a field that is no operand. -/
def srcCodes (r : Row) (f : Fields) : List (Option Nat) :=
  let one (u : SrcUse) (c : BitVec 9) : Option Nat := if u.isOpnd then some c.toNat else none
  match r.lay with
  | .J => [none, none, none]
  | .I => [one (useA r f) f.sa, none, none]
  | _ => [one (useA r f) f.sa, one (useB r f) f.sb, one (useC r f) f.sc]

/-- How many source fields hold the literal code (R51). -/
def litCount (r : Row) (f : Fields) : Nat := ((srcCodes r f).filter fun c => c == some 0x1FF).length

/-- A k register as DST makes the word uniform-executed (R48). -/
def isK (c : Nat) : Bool := decide (0x80 ≤ c) && decide (c < 0xC0)
def isV (c : Nat) : Bool := decide (c < 0x80)
def isO (c : Nat) : Bool := decide (0xC0 ≤ c) && decide (c < 0xC8)

/-- DST names a register (not a predicate or a stream). -/
def DstUse.isReg : DstUse → Bool
  | .none | .pred | .stream => false
  | _ => true

def uniformWord (r : Row) (f : Fields) : Bool := (dstUse r f).isReg && isK f.dst.toNat

/-- The row reads DST as store data or atomic operand under W[2] (R44). -/
def DstUse.readsData : DstUse → Bool
  | .store | .storeV | .atomic | .cas => true
  | _ => false

/-- Registers that DST names: access size for loads and stores (R44), two for pairs, four for a wide CAS (R124). -/
def regCount (tyCode : Nat) : Nat := if tyCode = 1 then 2 else if tyCode = 2 then 4 else 1
def dstCount (r : Row) (f : Fields) : Nat :=
  match dstUse r f with
  | .pair | .vpair => 2
  | .load | .loadV | .store | .storeV => regCount f.ty.toNat
  | .cas => if f.sb.getLsbD 5 then 4 else 2
  | _ => 1

/-- The atomic-operation selector (R44). -/
def atomSel (f : Fields) : Nat := (if f.fi then 4 else 0) + (if f.fo then 2 else 0) + (if f.sat then 1 else 0)

/-- A source field's must-be-zero bits (R42). -/
def srcFieldErr (u : SrcUse) (c : BitVec 9) : Bool :=
  match u with
  | .none => c != 0
  | .low n => decide (c.toNat ≥ 2 ^ n)
  | _ => false

/-- The float rows of LREDUCE and LSCAN. -/
def floatTy (f : Fields) : Bool := (Ty.ofCode f.ty.toNat).isFloat

/-- What ICMP to CVT8 and the other rows add: reserved conditions, modes, scopes, format codes, pairs (R65). -/
def extraFieldErr (r : Row) (f : Fields) : Bool :=
  let sc := f.sc.toNat
  let sb := f.sb.toNat
  let ty := f.ty.toNat
  let fmt := sc % 32
  let x8 := x8Form r f
  if decide (0x20 ≤ r.op) && decide (r.op ≤ 0x46) && x8 then decide (fmt > 1)
  else if r.op = 0x6A && x8 || r.op = 0x6B then decide (fmt < 2) || decide (fmt > 29)
  else if decide (0x80 ≤ r.op) && decide (r.op ≤ 0x8A) && x8 then decide (fmt > 29)
  else
  match r.op with
  | 0x0E => sc % 4 == 3
  | 0x2A => decide (sc > 5)
  | 0x58 => decide (sc > 7)
  | 0x78 => decide (sb > 4)
  | 0x86 | 0x87 =>
    if floatTy f then f.sat
    else f.fi || f.fo || (f.sat && decide (0x100 ≤ sb) && decide (sb < 0x180) && decide (sb % 8 ≠ 0))
  | 0xC0 | 0xCC => decide (sc < 2) || decide (sc > 5)
  | 0xAA => decide (sc % 8 > 5)
  | 0x3F | 0x40 =>
    let s := sc % 16
    !(match r.op, ty with
      | 0x3F, 7 | 0x3F, 8 => s == 1 || s == 2
      | 0x3F, 12 | 0x3F, 13 => s == 7 || s == 8
      | 0x40, 1 | 0x40, 2 => s == 7 || s == 8
      | _, _ => s == 12 || s == 13)
  | 0x68 =>
    let s := sb % 16
    let td := Ty.ofCode ty
    let ts := Ty.ofCode s
    !(tCvt.contains s && s != ty && (td.isFloat || ts.isFloat) &&
      (td.count == ts.count || (td.count == 4 && ts.count == 2) || (td.count == 2 && ts.count == 4)))
      || (f.sat && !td.isFloat)
  | 0x69 =>
    let code := sb % 16 + (if f.sb.getLsbD 4 then 16 else 0)
    let n := (Ty.ofCode ty).count
    decide (code > 29) || decide ((sb / 64) * n + n > 8) || (f.sat && !f.sb.getLsbD 5 && decide (code < 2))
  | 0xA6 | 0xA7 | 0xA8 | 0xA9 =>
    let sel := atomSel f
    let fl := ty == 3 || ty == 6
    decide (sel = 7) || (fl && decide (sel ≥ 3)) || (ty == 0 && (sel == 1 || sel == 2))
      || (r.op == 0xA9 && sel != 0) || decide (sb % 8 > 5)
      || (f.sb.getLsbD 5 && !(r.op == 0xA9 && ty == 0))
      || (r.op == 0xA7 && f.sb.getLsbD 3)
      || (r.op == 0xA8 && decide (sb % 8 ≥ 3))
  | 0xF5 => false
  | 0xF6 => !f.safe
  | _ => false

/-- The causes ILLEGAL_FIELD of a full-form word (R42, R65). -/
def fieldErr (r : Row) (f : Fields) : Bool :=
  !(r.tys.contains f.ty.toNat)
  || ((f.g != 0 || f.gn) && (!r.guard || uniformWord r f))
  || (match r.rm with
      | .ignored => f.rm == 6
      | .zero => f.rm != 0
      | .policy => decide (f.rm.toNat > 4)
      | .table => false)
  || (if r.op = 0x30 then f.fo || f.sat
      else if (dstUse r f) = .atomic ∨ (dstUse r f) = .cas then false
      else ((f.fi || f.fo) && !r.fl) || (f.sat && !r.sat))
  || (match dstUse r f with
      | .none => f.dst != 0
      | .pred => decide (f.dst.toNat ≥ 16)
      | .stream => decide (f.dst.toNat ≥ 8)
      | _ => false)
  || (match r.lay with
      | .J => decide (immOf r f ≥ 2 ^ r.imm)
      | .I => srcFieldErr r.a f.sa || decide (immOf r f ≥ 2 ^ r.imm)
      | _ => srcFieldErr (useA r f) f.sa || srcFieldErr (useB r f) f.sb || srcFieldErr (useC r f) f.sc)
  || (match srcCodes r f with
      | [a, b, c] => (f.w.getLsbD 0 && a.isNone) || (f.w.getLsbD 1 && b.isNone)
          || (f.w.getLsbD 2 && c.isNone && !(dstUse r f).readsData)
      | _ => false)
  || extraFieldErr r f

/-- The type under which a word's constants are read (R49, R50): TY where it is an ordinary type code, b64 elsewhere and in every
uniform operand (R230). For CVT it is the destination type, as R240 says. TY selects a width or a form there in FETCH3 (R131) and MMOVE
(R272), and the spec does not say how a constant in their SA is read: b64 is the model's choice (log entry 8). -/
def constTy (r : Row) (f : Fields) (u : SrcUse) : Ty :=
  if u = .uni then .b64
  else if (decide (0x20 ≤ r.op) && decide (r.op ≤ 0x79) && r.op != 0x30 && r.op != 0x42 && r.op != 0x43)
      || r.op == 0x80 || r.op == 0x81 || r.op == 0x8A || (decide (0xA6 ≤ r.op) && decide (r.op ≤ 0xA9)) then Ty.ofCode f.ty.toNat
  else .b64

/-- A floating constant under an integer type (R50). -/
def constErr (r : Row) (f : Fields) (u : SrcUse) (c : Nat) : Bool :=
  decide (0x1C0 ≤ c) && decide (c ≤ 0x1FE) &&
    ((constTy r f u).isInt || (constTy r f u == .x8 && decide (f.sc.toNat % 32 < 2)))

/-- The causes ILLEGAL_OPERAND of one source field (R46, R48, R50). -/
def srcOpndErr (r : Row) (f : Fields) (u : SrcUse) (c : Nat) : Bool :=
  u.isOpnd &&
    ((decide (0x0D0 ≤ c) && decide (c ≤ 0x0FF))
    || constErr r f u c
    || (uniformWord r f && !(isK c || c == 0x0CA || c == 0x0CD || c == 0x0CE || decide (c ≥ 0x100)))
    || (match u with
        | .uni => !(isK c || c == 0x0CA || decide (c ≥ 0x100))
        | .vreg => !isV c
        | .kreg => !isK c
        | .vz => !(isV c || c == 0x0CA)
        | _ => false))

/-- The causes ILLEGAL_OPERAND of the DST field that do not depend on the window (R20, R47, R119). -/
def dstOpndErr (r : Row) (f : Fields) : Bool :=
  let c := f.dst.toNat
  let n := dstCount r f
  let last := c + n - 1
  match dstUse r f with
  | .none | .pred | .stream => false
  | .any => !(isV c || isK c || (isO c && !r.vl))
  | .vreg | .vpair | .loadV => !isV c
  | .kreg => !isK c
  | .pair | .load | .atomic | .cas => !(isV c || (isK c && isK last))
  | .store => !(isV c || (isK c && isK last) || (isO c && isO last))
  | .storeV => !(isV c || (isO c && isO last))
  | .vote | .pmov => false

/-- The causes ILLEGAL_OPERAND of a full-form word that do not depend on the launch (R65, R417). -/
def opndErr (r : Row) (f : Fields) : Bool :=
  dstOpndErr r f
  || (match r.lay with
      | .J => false
      | .I => srcOpndErr r f (useA r f) f.sa.toNat
      | _ => srcOpndErr r f (useA r f) f.sa.toNat || srcOpndErr r f (useB r f) f.sb.toNat
          || srcOpndErr r f (useC r f) f.sc.toNat)
  || (r.op == 0xCA && decide (f.sb.toNat + 2 > 0xBF))
  || (r.op == 0x08 && f.sa == 0x0CA)
  || decide (litCount r f > 1)

/-- One entry of the short-op table (R62): opcode, TY, RM, unary, and CVT's source type. -/
structure ShortOp where
  op : Nat
  ty : Nat
  rm : Nat
  unary : Bool
  src : Nat
deriving DecidableEq, Repr, Inhabited

/-- Element `i` of IT in R62's order. -/
def itCode (i : Nat) : Nat := nth [1, 2, 4, 5, 7, 8, 12, 13] i

/-- Element `i` of FT in R62's order, with its rounding: `.dyn` is RM 7. -/
def ftCode (i : Nat) : Nat × Nat :=
  nth [(3, 0), (6, 0), (9, 0), (10, 0), (11, 0), (6, 7), (9, 7), (10, 7)] i

/-- The short-op table (R62). -/
def shortOp (sop : Nat) : ShortOp :=
  let col := sop % 8
  match sop / 8 with
  | 0 => ⟨0x20, itCode col, 0, false, 0⟩
  | 1 => ⟨0x21, itCode col, 0, false, 0⟩
  | 2 => ⟨0x23, itCode col, 0, false, 0⟩
  | 3 => ⟨0x28, itCode col, 0, false, 0⟩
  | 4 => ⟨0x29, itCode col, 0, false, 0⟩
  | 5 => nth [⟨0x56, 6, 0, false, 0⟩, ⟨0x56, 9, 0, false, 0⟩, ⟨0x56, 10, 0, false, 0⟩, ⟨0x57, 6, 0, false, 0⟩,
      ⟨0x57, 9, 0, false, 0⟩, ⟨0x57, 10, 0, false, 0⟩, ⟨0x54, 11, 0, false, 0⟩, ⟨0x55, 11, 0, false, 0⟩] col
  | 6 => ⟨nth [0x2C, 0x2D, 0x2E, 0x2F, 0x31, 0x32, 0x33, 0x34] col, 0, 0, false, 0⟩
  | 7 => ⟨nth [0x31, 0x32, 0x33, 0x34] (col % 4), nth [8, 8, 7, 8, 13, 13, 12, 13] col, 0, false, 0⟩
  | 8 => nth [⟨0x41, 0, 0, true, 0⟩, ⟨0x27, 1, 0, true, 0⟩, ⟨0x27, 7, 0, true, 0⟩, ⟨0x27, 12, 0, true, 0⟩,
      ⟨0x39, 0, 0, true, 0⟩, ⟨0x3A, 0, 0, true, 0⟩, ⟨0x3B, 0, 0, true, 0⟩, ⟨0x38, 0, 0, true, 0⟩] col
  | 9 => ⟨0x50, (ftCode col).1, (ftCode col).2, false, 0⟩
  | 10 => ⟨0x51, (ftCode col).1, (ftCode col).2, false, 0⟩
  | 11 => ⟨0x52, (ftCode col).1, (ftCode col).2, false, 0⟩
  | 12 => ⟨if col < 4 then 0x54 else 0x55, nth [3, 6, 9, 10] (col % 4), 0, false, 0⟩
  | 13 => ⟨if col < 4 then 0x5A else 0x5B, nth [3, 6, 9, 10] (col % 4), 0, true, 0⟩
  | 14 => nth [⟨0x6C, 15, 0, false, 0⟩, ⟨0x6D, 15, 0, false, 0⟩, ⟨0x6E, 15, 0, false, 0⟩, ⟨0x72, 15, 0, false, 0⟩,
      ⟨0x73, 15, 0, false, 0⟩, ⟨0x75, 15, 0, false, 0⟩, ⟨0x74, 15, 0, true, 0⟩, ⟨0x70, 15, 0, true, 0⟩] col
  | _ => nth [⟨0x68, 6, 0, true, 4⟩, ⟨0x68, 6, 0, true, 5⟩, ⟨0x68, 4, 1, true, 6⟩, ⟨0x68, 5, 1, true, 6⟩,
      ⟨0x68, 3, 0, true, 6⟩, ⟨0x68, 6, 0, true, 3⟩, ⟨0x68, 9, 0, true, 7⟩, ⟨0x68, 7, 1, true, 9⟩] col

/-- The floating entries of the short-op table, on which F = 1 is allowed (R62). -/
def shortFloat (sop : Nat) : Bool :=
  sop / 8 == 5 || (decide (9 ≤ sop / 8) && decide (sop / 8 ≤ 13)) || sop / 8 == 15

/-- The 9-bit operand code of an 8-bit code (R59). -/
def code8 (c : Nat) : Nat :=
  if c < 0x80 then c
  else if c < 0x88 then 0xC0 + (c - 0x80)
  else if c < 0x8A then 0xC8 + (c - 0x88)
  else if c < 0x90 then 0xD0
  else if c < 0xC0 then 0x100 + (c - 0x90)
  else 0x80 + (c - 0xC0)

/-- The full-form fields of one half (R60): SA = d and SB = s, or SA = s for a unary entry. -/
def halfFields (safe : Bool) (h : Half) : Fields :=
  let e := shortOp h.sop.toNat
  let d : BitVec 9 := BitVec.ofNat 9 (code8 h.dst.toNat)
  let s : BitVec 9 := BitVec.ofNat 9 (code8 h.src.toNat)
  { safe := safe, ty := BitVec.ofNat 4 e.ty, dst := d, sa := if e.unary then s else d,
    sb := if e.unary then BitVec.ofNat 9 e.src else s, sc := 0, g := h.g, gn := false, rm := BitVec.ofNat 3 e.rm,
    fi := h.f, fo := h.f, sat := false, w := if h.w then (if e.unary then 1 else 3) else 0, lit := none }

/-- The full-form instruction one half stands for (R60). -/
def halfInstr (safe : Bool) (h : Half) : Option Instr := ofOp (shortOp h.sop.toNat).op (halfFields safe h)

/-- ILLEGAL_FIELD of a half: F = 1 on an entry that is not floating (R62). -/
def halfFieldErr (h : Half) : Bool := h.f && !shortFloat h.sop.toNat

/-- ILLEGAL_PAIR (R61): the main registers of half A in banks 0 and 1, of half B in banks 2 and 3, and no common destination. -/
def pairErr (a b : Half) : Bool :=
  let bad (hi : Bool) (c : BitVec 8) : Bool := decide (c.toNat < 0x80) && (decide (c.toNat % 4 ≥ 2) != hi)
  bad false a.dst || bad false a.src || bad true b.dst || bad true b.src || a.dst == b.dst

/-- ILLEGAL_OPERAND of a half (R59). -/
def halfOpndErr (h : Half) : Bool :=
  decide (h.dst.toNat ≥ 0x88) || (decide (0x8A ≤ h.src.toNat) && decide (h.src.toNat ≤ 0x8F))

/-- The field limits of the matrix-stream words (R284 to R288). -/
def matrixFieldErr : Instr → Bool
  | .mbload x => decide (x.ks.toNat * 32 + (x.k1.toNat + 1) * 32 > 512) || decide (x.ns.toNat + (x.nc1.toNat + 1) > 6)
  | .mmul x => decide (x.ks.toNat * 32 + (x.k1.toNat + 1) * 32 > 512) || decide (x.ns.toNat + (x.nc1.toNat + 1) > 6)
  | .mstore x =>
    let o := x.out.toNat
    o == 30 || o == 31 || decide (o ≥ 35) || (o == 32 && x.sat) || decide (x.cn1.toNat ≥ 12)
  | .marrive _ c => decide (33 ≤ c.toNat) && decide (c.toNat ≤ 61)
  | .mloop x => (x.xr1 == 0 && x.step1 != 0) || (x.xr2 == 0 && x.step2 != 0)
  | _ => false

/-- PMCAP's two rows differ in SC[0] (R484). -/
def rowFieldErr : Instr → Bool
  | .pmcapStart f => f.sc != 0
  | .pmcapStop f => f.sc != 1
  | _ => false

/-- The static causes of R65 for a word that is otherwise in its place, in R66's order: ILLEGAL_FIELD, ILLEGAL_PAIR,
ILLEGAL_OPERAND. An event is no word and has none. -/
def checkInstr (i : Instr) : Option Cause :=
  match formOf i with
  | .full r f =>
    if fieldErr r f || rowFieldErr i then some .illegalField else if opndErr r f then some .illegalOperand else none
  | .dual _ a b =>
    if halfFieldErr a || halfFieldErr b then some .illegalField
    else if pairErr a b then some .illegalPair
    else if halfOpndErr a || halfOpndErr b then some .illegalOperand
    else none
  | .matrix _ _ => if matrixFieldErr i then some .illegalField else none
  | .event => none

end Sys2Proof.Machine
end

