-- ==== Sys2Proof/WellFormed.lean ====
section
/-! DEFINITION. Which instructions are well formed: a word that passes every static check of R65 and holds a literal exactly
when one of its sources is the literal code (R51). An event row is no word: any event is well formed. -/

namespace Sys2Proof

open Machine

/-- The literal word is present exactly when a source field holds code 0x1FF (R51). -/
def Instr.litOk (i : Instr) : Bool :=
  match formOf i with
  | .full r f => f.lit.isSome == decide (litCount r f > 0)
  | _ => true

/-- A word the part takes as an instruction: no cause of R65 that does not depend on the launch, and its literal in place. -/
def Instr.WellFormed (i : Instr) : Bool := (checkInstr i).isNone && i.litOk

/-- The instruction stands in memory as a word. -/
def Instr.isWord (i : Instr) : Bool :=
  match formOf i with
  | .event => false
  | _ => true

end Sys2Proof
end

