-- ==== Sys2Proof/Decode.lean ====
section
/-! DEFINITION. The decoder, total on every word, and the encoder (R41 to R66, R282). The decoder answers the instruction or the
first cause of R66's order. Whether a v index lies in the window depends on the launch and is checked at issue (R19). -/

namespace Sys2Proof

open Machine

/-- `len` bits of a word from bit `lo`. -/
def wordBits (w : Word) (lo len : Nat) : BitVec len := w.extractLsb' lo len

/-- The fields of a full-form word (R41), with the literal word that follows. -/
def fieldsOf (w : Word) (lit : Option Word) : Fields :=
  { safe := w.getLsbD 63, ty := wordBits w 50 4, dst := wordBits w 41 9, sa := wordBits w 32 9, sb := wordBits w 23 9,
    sc := wordBits w 14 9, g := wordBits w 10 4, gn := w.getLsbD 9, rm := wordBits w 6 3, fi := w.getLsbD 5,
    fo := w.getLsbD 4, sat := w.getLsbD 3, w := wordBits w 0 3, lit := lit }

/-- A half of a dual word from its 31 bits, the lowest at bit `lo` (R58). -/
def halfOf (w : Word) (lo : Nat) : Half :=
  { sop := wordBits w (lo + 24) 7, dst := wordBits w (lo + 16) 8, src := wordBits w (lo + 8) 8, g := wordBits w (lo + 4) 4,
    w := w.getLsbD (lo + 3), f := w.getLsbD (lo + 2) }

/-- The matrix-stream instruction of an opcode 0xE0 to 0xE7 (R282). -/
def matrixOf (w : Word) : Instr :=
  match (wordBits w 54 8).toNat with
  | 0xE0 => .mzero { entry := wordBits w 0 16, xr := wordBits w 16 3, count1 := wordBits w 19 16 }
  | 0xE1 => .mbload { off := wordBits w 0 14, xr := wordBits w 14 3, slot := wordBits w 17 2, fmt := wordBits w 19 5,
                      k1 := wordBits w 24 4, ks := wordBits w 28 4, ns := wordBits w 32 3, nc1 := wordBits w 35 3 }
  | 0xE2 => .mmul { buf := wordBits w 0 2, aoff := wordBits w 2 11, xa := wordBits w 13 3, m1 := wordBits w 16 7,
                    k1 := wordBits w 23 4, ks := wordBits w 27 4, slot := wordBits w 31 2, ns := wordBits w 33 3,
                    nc1 := wordBits w 36 3, fmt := wordBits w 39 5, entry := wordBits w 44 7, xc := wordBits w 51 3 }
  | 0xE3 => .mstore { entry := wordBits w 0 16, xc := wordBits w 16 3, off := wordBits w 19 14, xs := wordBits w 33 3,
                      m1 := wordBits w 36 7, cn1 := wordBits w 43 4, out := wordBits w 47 6, sat := w.getLsbD 53 }
  | 0xE4 => .mwait (wordBits w 0 4)
  | 0xE5 => .marrive (wordBits w 0 4) (wordBits w 4 6)
  | 0xE6 => .mloop { count := wordBits w 0 16, len1 := wordBits w 16 8, xr1 := wordBits w 24 3, step1 := wordBits w 27 16,
                     xr2 := wordBits w 43 3, step2 := wordBits w 46 8 }
  | _ => .mend

/-- How many payload bits the row of a matrix opcode names; the bits above them must be zero (R282). -/
def matrixWidth (op : Nat) : Nat :=
  match op with
  | 0xE0 => 35 | 0xE1 => 38 | 0xE2 => 54 | 0xE3 => 54 | 0xE4 => 4 | 0xE5 => 10 | 0xE6 => 54 | _ => 0

/-- A reserved full-form opcode, or 0xFF (R63, R65). -/
def reservedOp (op : Nat) : Bool :=
  (ofOp op default).isNone && !(decide (0xE0 ≤ op) && decide (op ≤ 0xE7))

/-- The instruction with its literal, if the word has a literal source; without it otherwise (R51). -/
def withLit (op : Nat) (w lit : Word) : Option Instr :=
  match ofOp op (fieldsOf w none) with
  | none => none
  | some i =>
    match formOf i with
    | .full r f => if litCount r f > 0 then ofOp op (fieldsOf w (some lit)) else some i
    | _ => some i

/-- Causes of a decoded instruction. -/
def checked (i : Instr) : Except Cause Instr :=
  match checkInstr i with
  | some c => .error c
  | none => .ok i

/-- Decode one word of a vector stream or, with `matrix`, of a matrix stream; `lit` is the word that follows it (R41, R58, R66,
R269). -/
def decode (matrix : Bool) (w lit : Word) : Except Cause Instr :=
  let op := (wordBits w 54 8).toNat
  if w.getLsbD 62 then
    if matrix then .error .illegalContext
    else if wordBits w 31 2 ≠ 0 ∨ wordBits w 0 2 ≠ 0 then .error .illegalField
    else checked (.dualWord (w.getLsbD 63) (halfOf w 31) (halfOf w 0))
  else if reservedOp op then .error .illegalOpcode
  else if 0xE0 ≤ op ∧ op ≤ 0xE7 then
    if !matrix then .error .illegalContext
    else if w.getLsbD 63 ∨ (w.toNat % 2 ^ 54) / 2 ^ matrixWidth op ≠ 0 then .error .illegalField
    else checked (matrixOf w)
  else if matrix then .error .illegalContext
  else
    match withLit op w lit with
    | none => .error .illegalOpcode
    | some i => checked i

/-- Whether a decoded word takes the word after it as its literal (R51). -/
def hasLiteral (i : Instr) : Bool :=
  match formOf i with
  | .full r f => decide (litCount r f > 0)
  | _ => false

/-- Bits of a flag. -/
def flagN (b : Bool) : Nat := if b then 1 else 0

/-- The full-form word of an opcode and its fields (R41). -/
def fullWord (op : Nat) (f : Fields) : Word :=
  BitVec.ofBool f.safe ++ 0#1 ++ BitVec.ofNat 8 op ++ f.ty ++ f.dst ++ f.sa ++ f.sb ++ f.sc ++ f.g
    ++ BitVec.ofBool f.gn ++ f.rm ++ BitVec.ofBool f.fi ++ BitVec.ofBool f.fo ++ BitVec.ofBool f.sat ++ f.w

/-- The 31 bits of a half (R58). -/
def halfWord (h : Half) : BitVec 31 := h.sop ++ h.dst ++ h.src ++ h.g ++ BitVec.ofBool h.w ++ BitVec.ofBool h.f ++ 0#2

/-- The dual word (R58). -/
def dualBits (s : Bool) (a b : Half) : Word := BitVec.ofBool s ++ 1#1 ++ halfWord a ++ halfWord b

/-- The words of an instruction as they stand in memory, literal word included; none for an event (R41, R51, R58, R282). -/
def encode (i : Instr) : List Word :=
  match formOf i with
  | .full r f =>
    fullWord r.op f :: (match f.lit with
      | some l => [l]
      | none => [])
  | .dual s a b => [dualBits s a b]
  | .matrix op p => [w64 (op * 2 ^ 54 + p)]
  | .event => []

/-- A matrix-stream word by its opcode and D bit, for a reader that is told no stream. -/
def isMatrixWord (w : Word) : Bool :=
  !w.getLsbD 62 && decide (0xE0 ≤ (wordBits w 54 8).toNat) && decide ((wordBits w 54 8).toNat ≤ 0xE7)

/-- The decoder's answer for one row of the opcode table. The first word is bits [63:0] of `w`; a literal, where the row has one,
is the next 64 bits (R2, R51). A matrix-stream word is read as one (R269). -/
def decodeTableWord (nbits w : Nat) : Option Instr :=
  let bits := w % 2 ^ nbits
  let w0 : Word := w64 (bits % 2 ^ 64)
  match decode (isMatrixWord w0) w0 (w64 (bits / 2 ^ 64)) with
  | .ok i => some i
  | .error _ => none

end Sys2Proof
end

