-- ==== Sys2Proof/Machine/Dyadic.lean ====
section
/-! DEFINITION. Exact values: an integer times a power of two. Arithmetic on named values is exact (R6); a rounding is
applied once, by Machine/Format.lean. -/

namespace Sys2Proof.Machine

/-- The exact value `m · 2^e`. -/
structure Dy where
  m : Int
  e : Int
deriving DecidableEq, Repr, Inhabited

/-- An exact integer power of two times a natural, for a non-negative shift. -/
def shlI (m : Int) (k : Int) : Int := m * ((2 ^ k.toNat : Nat) : Int)

def Dy.zero : Dy := ⟨0, 0⟩
def Dy.ofInt (i : Int) : Dy := ⟨i, 0⟩
def Dy.pow2 (k : Int) : Dy := ⟨1, k⟩
def Dy.neg (a : Dy) : Dy := ⟨-a.m, a.e⟩
def Dy.abs (a : Dy) : Dy := ⟨(a.m.natAbs : Int), a.e⟩
def Dy.mul (a b : Dy) : Dy := ⟨a.m * b.m, a.e + b.e⟩
def Dy.isZero (a : Dy) : Bool := a.m == 0

/-- Exact sum, on the smaller exponent. -/
def Dy.add (a b : Dy) : Dy :=
  if a.m = 0 then b else if b.m = 0 then a else
  let e := min a.e b.e
  ⟨shlI a.m (a.e - e) + shlI b.m (b.e - e), e⟩

def Dy.sub (a b : Dy) : Dy := a.add b.neg

/-- Half, a quarter and so on: multiply by `2^k`. -/
def Dy.scale (a : Dy) (k : Int) : Dy := ⟨a.m, a.e + k⟩

def Dy.lt (a b : Dy) : Bool := decide ((a.sub b).m < 0)
def Dy.le (a b : Dy) : Bool := decide ((a.sub b).m ≤ 0)
def Dy.eqv (a b : Dy) : Bool := (a.sub b).m == 0
def Dy.max (a b : Dy) : Dy := if a.lt b then b else a
def Dy.min (a b : Dy) : Dy := if b.lt a then b else a

/-- `floor` of an exact value. -/
def Dy.floor (a : Dy) : Int :=
  if a.e ≥ 0 then shlI a.m a.e else a.m / ((2 ^ (-a.e).toNat : Nat) : Int)

/-- The fractional part `a − floor(a)`. -/
def Dy.fract (a : Dy) : Dy := a.sub (Dy.ofInt a.floor)

/-- `exponent_of` of R7. -/
def Dy.exponent (a : Dy) : Int := if a.m = 0 then -(2 ^ 31) else a.e + (Nat.log2 a.m.natAbs : Int)

/-- `trunc_window(x, e, w)` of R7: x truncated toward zero to a multiple of `2^(e − w + 1)`. -/
def Dy.truncWindow (a : Dy) (e : Int) (w : Nat) : Dy :=
  let q := e - (w : Int) + 1
  if a.e ≥ q then a
  else
    let k := (q - a.e).toNat
    let n : Int := ((a.m.natAbs / 2 ^ k : Nat) : Int)
    ⟨if a.m < 0 then -n else n, q⟩

/-- Integer square root by binary digits: the largest `r` with `r² ≤ n`, `r < 2^k`. -/
def isqrtGo (n : Nat) : Nat → Nat → Nat
  | 0, r => r
  | k + 1, r =>
    let c := r + 2 ^ k
    if c * c ≤ n then isqrtGo n k c else isqrtGo n k r

/-- The integer square root of a natural number. -/
def isqrt (n : Nat) : Nat := isqrtGo n (Nat.log2 n / 2 + 1) 0

/-- `a / b` with at least `prec` significant bits and a sticky last bit: exact where the quotient ends, otherwise a value
strictly between the same two grid points as the quotient. -/
def Dy.divSticky (a b : Dy) (prec : Nat) : Dy :=
  if a.m = 0 ∨ b.m = 0 then Dy.zero else
  let an := a.m.natAbs
  let bn := b.m.natAbs
  let k := prec + Nat.log2 bn + 2
  let q := (an * 2 ^ k) / bn
  let r := (an * 2 ^ k) % bn
  let s : Int := if decide (a.m < 0) == decide (b.m < 0) then 1 else -1
  ⟨s * ((2 * q + (if r = 0 then 0 else 1) : Nat) : Int), a.e - b.e - (k : Int) - 1⟩

/-- The square root of a non-negative value with a sticky last bit, at least `prec` significant bits. -/
def Dy.sqrtSticky (a : Dy) (prec : Nat) : Dy :=
  if a.m ≤ 0 then Dy.zero else
  let k := 2 * prec + 2
  let k := if (a.e - (k : Int)) % 2 = 0 then k else k + 1
  let n := a.m.natAbs * 2 ^ k
  let r := isqrt n
  ⟨((2 * r + (if r * r = n then 0 else 1) : Nat) : Int), (a.e - (k : Int)) / 2 - 1⟩

/-- `a` rounded down to a multiple of `2^q`. -/
def Dy.floorTo (a : Dy) (q : Int) : Dy :=
  if a.e ≥ q then a else ⟨a.m / ((2 ^ (q - a.e).toNat : Nat) : Int), q⟩

/-- `a` rounded up to a multiple of `2^q`. -/
def Dy.ceilTo (a : Dy) (q : Int) : Dy := (a.neg.floorTo q).neg

end Sys2Proof.Machine
end

