-- ==== Sys2Proof/Machine/Format.lean ====
section
/-! DEFINITION. Floating formats, their bit patterns and the one rounding of a result (R187 to R202). -/

namespace Sys2Proof.Machine

/-- The sticky exception flags of STATUS[20:16], bit 0 NV, 1 DZ, 2 OF, 3 UF, 4 NX (R33, R200). -/
abbrev Flags := BitVec 5

def fNone : Flags := 0
def fNV : Flags := 1
def fDZ : Flags := 2
def fOF : Flags := 4
def fUF : Flags := 8
def fNX : Flags := 16

/-- A binary floating format: width, exponent field width, trailing width, bias, and for the binary8 family its variant
(R189 to R192). -/
structure Fmt where
  width : Nat
  ew : Nat
  t : Nat
  bias : Nat
  /-- one of the four wide formats of R190 -/
  wide : Bool
  /-- has a sign bit -/
  signed : Bool
  /-- has infinities (the wide formats and the extended binary8 variants) -/
  ext : Bool
deriving DecidableEq, Repr, Inhabited

def fp64 : Fmt := ⟨64, 11, 52, 1023, true, true, true⟩
def fp32 : Fmt := ⟨32, 8, 23, 127, true, true, true⟩
def fp16 : Fmt := ⟨16, 5, 10, 15, true, true, true⟩
def bf16 : Fmt := ⟨16, 8, 7, 127, true, true, true⟩

/-- The binary8 format of an x8 code from 2 to 29 (R53, R191, R192). -/
def fmtOfX8 (c : Nat) : Fmt :=
  if c < 16 then
    let p := (c - 2) / 2 + 1
    ⟨8, 8 - p, p - 1, 2 ^ (8 - p - 1), false, true, c % 2 == 0⟩
  else
    let p := (c - 16) / 2 + 1
    ⟨8, 9 - p, p - 1, 2 ^ (9 - p - 1), false, false, c % 2 == 0⟩

/-- The precision P of an x8 float code (R53). -/
def precOfX8 (c : Nat) : Nat := if c < 16 then (c - 2) / 2 + 1 else (c - 16) / 2 + 1

/-- The element format of a floating type (R52, R239). -/
def fmtOfTy : Ty → Fmt
  | .f64 => fp64
  | .f16x4 => fp16
  | .bf16x4 => bf16
  | _ => fp32

/-- The exponent of the smallest normal value. -/
def Fmt.emin (f : Fmt) : Int := 1 - (f.bias : Int)

/-- A floating datum: a NaN (signalling or quiet), an infinity, or a finite value with its sign kept apart, so that zero has one. -/
inductive FV where
  | nan (signalling : Bool)
  | inf (neg : Bool)
  | fin (neg : Bool) (m : Nat) (e : Int)
deriving DecidableEq, Repr, Inhabited

/-- The canonical NaN pattern (R190 to R192, R201). -/
def Fmt.canonNaN (f : Fmt) : Nat :=
  if f.wide then (2 ^ f.ew - 1) * 2 ^ f.t + 2 ^ (f.t - 1) else if f.signed then 0x80 else 0xFF

/-- The pattern of the largest finite magnitude (R190, R193). -/
def Fmt.maxPat (f : Fmt) : Nat :=
  if f.wide then (2 ^ f.ew - 2) * 2 ^ f.t + (2 ^ f.t - 1)
  else if f.signed then (if f.ext then 0x7E else 0x7F) else (if f.ext then 0xFD else 0xFE)

/-- The pattern of +∞, where the format has it. -/
def Fmt.infPat (f : Fmt) : Nat :=
  if f.wide then (2 ^ f.ew - 1) * 2 ^ f.t else if f.signed then 0x7F else 0xFE

/-- The magnitude that exponent field `E` and trailing field `T` stand for (R189). -/
def Fmt.magOf (f : Fmt) (mag : Nat) : Nat × Int :=
  let E := mag / 2 ^ f.t
  let T := mag % 2 ^ f.t
  if E = 0 then (T, f.emin - (f.t : Int)) else (2 ^ f.t + T, (E : Int) - (f.bias : Int) - (f.t : Int))

/-- The sign bit's weight. -/
def Fmt.signPat (f : Fmt) : Nat := if f.signed then 2 ^ (f.width - 1) else 0

/-- The datum a pattern stands for (R189, R191, R192). -/
def Fmt.decode (f : Fmt) (bits : Nat) : FV :=
  let b := bits % 2 ^ f.width
  let neg := f.signed && bitN b (f.width - 1)
  let mag := if f.signed then b % 2 ^ (f.width - 1) else b
  if f.wide then
    if mag / 2 ^ f.t = 2 ^ f.ew - 1 then
      if mag % 2 ^ f.t = 0 then .inf neg else .nan (!bitN mag (f.t - 1))
    else let d := f.magOf mag; .fin neg d.1 d.2
  else if b = f.canonNaN then .nan false
  else if f.ext && mag = f.infPat then .inf neg
  else let d := f.magOf mag; .fin neg d.1 d.2

/-- The pattern of a magnitude that lies on the format's grid. -/
def Fmt.encMag (f : Fmt) (m : Nat) (e : Int) : Nat :=
  if m = 0 then 0 else
  let ex := e + (Nat.log2 m : Int)
  let q := max ex f.emin - (f.t : Int)
  let n := if e ≥ q then m * 2 ^ (e - q).toNat else m / 2 ^ (q - e).toNat
  if ex < f.emin then n
  else ((ex + (f.bias : Int)).toNat) * 2 ^ f.t + (n - 2 ^ f.t)

/-- The pattern of a datum that the format can hold; a NaN is canonical, and a format without −0 writes +0 (R191, R201). -/
def Fmt.encode (f : Fmt) : FV → Nat
  | .nan _ => f.canonNaN
  | .inf neg => f.infPat + (if neg then f.signPat else 0)
  | .fin neg m e =>
    let p := f.encMag m e
    if neg ∧ (m ≠ 0 ∨ f.wide) then p + f.signPat else p

/-- The largest finite magnitude. -/
def Fmt.maxFin (f : Fmt) : Nat × Int := f.magOf f.maxPat

/-- Exact comparison `a > b` of two magnitudes. -/
def magGt (a b : Nat × Int) : Bool := Dy.lt ⟨(b.1 : Int), b.2⟩ ⟨(a.1 : Int), a.2⟩

/-- The exact value of a finite datum. -/
def FV.dy : FV → Dy
  | .fin neg m e => ⟨if neg then -(m : Int) else (m : Int), e⟩
  | _ => Dy.zero

def FV.isNaN : FV → Bool | .nan _ => true | _ => false
def FV.isSNaN : FV → Bool | .nan s => s | _ => false
def FV.isInf : FV → Bool | .inf _ => true | _ => false
def FV.isZero : FV → Bool | .fin _ m _ => m == 0 | _ => false
def FV.isNeg : FV → Bool | .inf n => n | .fin n _ _ => n | .nan _ => false

/-- A finite datum is subnormal in the format (R189). -/
def Fmt.isSub (f : Fmt) : FV → Bool
  | .fin _ m e => m != 0 && decide (e + (Nat.log2 m : Int) < f.emin)
  | _ => false

/-- FI: a subnormal input is read as zero of its sign, and in a format without negative zero as zero (R199). -/
def Fmt.flushIn (f : Fmt) (fi : Bool) (v : FV) : FV :=
  if fi && f.isSub v then .fin (v.isNeg && f.wide) 0 0 else v

/-- What one rounding depends on: the mode, 24 random bits for RS (R197), SAT and FO. -/
structure RCtx where
  mode : RMode
  rnd : Nat
  sat : Bool
  fo : Bool
deriving DecidableEq, Repr, Inhabited

/-- The grid neighbour chosen for a magnitude between `n` and `n + 1` units with remainder `r / s` (R195, R197).
`tieUp` says that the upper neighbour is the one a tie takes under RNE. -/
def roundsUp (c : RMode) (rnd : Nat) (neg : Bool) (r s : Nat) (tieUp : Bool) : Bool :=
  if r = 0 then false else
  match c with
  | .rne => decide (2 * r > s) || (decide (2 * r = s) && tieUp)
  | .rna => decide (2 * r ≥ s)
  | .rz => false
  | .ru => !neg
  | .rd => neg
  | .rs =>
    if neg then !decide (rnd < ((s - r) * 2 ^ 24) / s)
    else decide (rnd < (r * 2 ^ 24) / s)

/-- RNE's even neighbour is the upper one (R195): by the last bit of the unit count, and in a format without trailing bits by
the exponent field, zero counting as even. -/
def Fmt.tieUp (f : Fmt) (n : Nat) (ex : Int) : Bool :=
  if f.t = 0 then
    if n = 0 then false else (ex + (f.bias : Int)) % 2 ≠ 0
  else n % 2 == 1

/-- A magnitude on the grid of quantum `2^q`: (units, inexact). -/
def gridRound (f : Fmt) (c : RMode) (rnd : Nat) (neg : Bool) (m : Nat) (e q ex : Int) : Nat × Bool :=
  if e ≥ q then (m * 2 ^ (e - q).toNat, false)
  else
    let s := 2 ^ (q - e).toNat
    let n := m / s
    let r := m % s
    (if roundsUp c rnd neg r s (f.tieUp n ex) then n + 1 else n, r ≠ 0)

/-- The result of an overflow (R196), before FO. Under RS a negative one gives −∞ where the neighbour of larger magnitude was chosen, as the model
reads R196's 'likewise' (DEDUCED, log entry 230). -/
def Fmt.overflow (f : Fmt) (c : RCtx) (neg inexact up : Bool) : FV :=
  let toInf : Bool :=
    match c.mode with
    | .rne | .rna => true
    | .rz => false
    | .ru => !neg
    | .rd => neg
    | .rs => !inexact || up
  let big := f.maxFin
  if toInf then
    if c.sat then .fin neg big.1 big.2
    else if f.ext && (f.signed || !neg) then .inf neg
    else .nan false
  else .fin neg big.1 big.2

/-- The exact non-zero magnitude `m · 2^e` rounded once to the format (R195, R196, R199, R200). The sign is kept apart. In an
unsigned format a negative value whose rounded magnitude is not zero is the case of R198. -/
def Fmt.roundMag (f : Fmt) (c : RCtx) (neg : Bool) (m : Nat) (e : Int) : FV × Flags :=
  if m = 0 then (.fin neg 0 0, fNone) else
  let ex := e + (Nat.log2 m : Int)
  let q := max ex f.emin - (f.t : Int)
  let (n, inex) := gridRound f c.mode c.rnd neg m e q ex
  if n = 0 then (.fin neg 0 0, fUF ||| fNX)
  else if !f.signed && neg then
    (if c.sat then .fin false 0 0 else .nan false, fNV)
  else if magGt (n, q) f.maxFin then
    let lo := m / 2 ^ (q - e).toNat
    (f.overflow c neg inex (decide (n > lo)), fOF ||| fNX)
  else
    -- tininess: the value rounded with an unbounded exponent range lies below the smallest normal (R200)
    let (n', _) := gridRound f c.mode c.rnd neg m e (ex - (f.t : Int)) ex
    let tiny := magGt (1, f.emin) (n', ex - (f.t : Int))
    let sub := magGt (1, f.emin) (n, q)
    if c.fo && sub then (.fin neg 0 0, fUF ||| fNX)
    else (.fin neg n q, (if inex then fNX else fNone) ||| (if inex && tiny then fUF else fNone))

/-- `round_rm` of an exact value that is not zero by sign rules; a zero takes the sign given (R202). -/
def Fmt.roundDy (f : Fmt) (c : RCtx) (zeroNeg : Bool) (x : Dy) : FV × Flags :=
  if x.m = 0 then (.fin zeroNeg 0 0, fNone) else f.roundMag c (decide (x.m < 0)) x.m.natAbs x.e

/-- A rounding context by RNE with nothing saturated or flushed. -/
def ctxRNE : RCtx := ⟨.rne, 0, false, false⟩
def ctxRD : RCtx := ⟨.rd, 0, false, false⟩
def ctxRU : RCtx := ⟨.ru, 0, false, false⟩
def ctxRZ : RCtx := ⟨.rz, 0, false, false⟩

/-- A datum passed on as a result: NaN canonical, a subnormal flushed under FO (R199, R201). -/
def Fmt.passOut (f : Fmt) (fo : Bool) (v : FV) : FV × Flags :=
  if fo && f.isSub v then (.fin (v.isNeg && f.wide) 0 0, fUF ||| fNX) else (v, fNone)

/-- NV for a signalling NaN among the inputs (R200). -/
def nvOf (vs : List FV) : Flags := if vs.any FV.isSNaN then fNV else fNone

/-- A conversion of any datum into a format (R198 for binary8, R251 for the wide formats). -/
def Fmt.convert (f : Fmt) (c : RCtx) (v : FV) : FV × Flags :=
  match v with
  | .nan s => (.nan false, if s then fNV else fNone)
  | .inf neg =>
    if !f.signed && neg then (if c.sat then .fin false 0 0 else .nan false, fNV)
    else if f.ext then (.inf neg, fNone)
    else (if c.sat then .fin neg f.maxFin.1 f.maxFin.2 else .nan false, fNV)
  | .fin neg m e => f.roundMag c neg m e

/-- `round_dn(x, f)` of R7 on an exact value, as a datum. -/
def Fmt.roundDn (f : Fmt) (x : Dy) : FV := (f.roundDy ctxRD false x).1

/-- `round_up(x, f)` of R7 on an exact value, as a datum. -/
def Fmt.roundUp (f : Fmt) (x : Dy) : FV := (f.roundDy ctxRU false x).1

/-- Order of R202 on data that are not NaN: −∞ < negatives < −0 < +0 < positives < +∞. -/
def FV.ltOrd (a b : FV) : Bool :=
  match a, b with
  | .inf na, .inf nb => na && !nb
  | .inf na, _ => na
  | _, .inf nb => !nb
  | .fin na ma ea, .fin nb mb eb =>
    if ma = 0 ∧ mb = 0 then na && !nb
    else Dy.lt (FV.fin na ma ea).dy (FV.fin nb mb eb).dy
  | _, _ => false

/-- Numeric equality, with −0 = +0 (R202, R243). -/
def FV.eqNum (a b : FV) : Bool :=
  match a, b with
  | .inf na, .inf nb => na == nb
  | .fin .., .fin .. => Dy.eqv a.dy b.dy
  | _, _ => false

/-- Numeric `a < b`, with −0 = +0. -/
def FV.ltNum (a b : FV) : Bool := a.ltOrd b && !a.eqNum b

end Sys2Proof.Machine
end

