-- ==== Sys2Proof/Machine/IntAlu.lean ====
section
/-! DEFINITION. The results of the integer, bit, address and move instructions as functions of operand values (R188,
R210 to R229), and of SUBSWZ (R237). Registers stand as 64-bit words, elements as naturals below `2^w`. -/

namespace Sys2Proof.Machine

/-- Element width, element count and signedness of an integer operation (R25, R211). -/
structure Shape where
  w : Nat
  n : Nat
  signed : Bool
deriving DecidableEq, Repr, Inhabited

/-- The shape of a type; under x8 the format code 0 is i8 and 1 is n8 (R53). -/
def shapeOf (t : Ty) (fmt : Nat) : Shape :=
  match t with
  | .x8 => ⟨8, 8, fmt == 0⟩
  | _ => ⟨t.width, t.count, t.signed⟩

/-- The integer value of an element (R211). -/
def Shape.val (sh : Shape) (x : Nat) : Int := if sh.signed then sextN x sh.w else ((x % 2 ^ sh.w : Nat) : Int)

/-- The range of an element (R188). -/
def Shape.lo (sh : Shape) : Int := if sh.signed then -((2 ^ (sh.w - 1) : Nat) : Int) else 0
def Shape.hi (sh : Shape) : Int := if sh.signed then ((2 ^ (sh.w - 1) : Nat) : Int) - 1 else ((2 ^ sh.w : Nat) : Int) - 1

/-- `sat(x, lo, hi)` of R7. -/
def satI (v lo hi : Int) : Int := if v < lo then lo else if v > hi then hi else v

/-- An exact value wrapped to the element, or the nearer bound under SAT (R188, R211). -/
def Shape.fit (sh : Shape) (sat : Bool) (v : Int) : Nat :=
  wrapN (if sat then satI v sh.lo sh.hi else v) sh.w

/-- A unary operation on every element. -/
def map1 (sh : Shape) (f : Nat → Nat) (a : Word) : Word :=
  pack sh.w ((List.range sh.n).map fun i => f (elem sh.w i a))

/-- A binary operation on every element. -/
def map2 (sh : Shape) (f : Nat → Nat → Nat) (a b : Word) : Word :=
  pack sh.w ((List.range sh.n).map fun i => f (elem sh.w i a) (elem sh.w i b))

/-- A ternary operation on every element. -/
def map3 (sh : Shape) (f : Nat → Nat → Nat → Nat) (a b c : Word) : Word :=
  pack sh.w ((List.range sh.n).map fun i => f (elem sh.w i a) (elem sh.w i b) (elem sh.w i c))

/-- IADD, ISUB, IMUL, IMIN and IMAX: the exact value of each element, fitted (R212). -/
def arith2 (sh : Shape) (sat : Bool) (op : Int → Int → Int) (a b : Word) : Word :=
  map2 sh (fun x y => sh.fit sat (op (sh.val x) (sh.val y))) a b

def iaddW (sh : Shape) (sat : Bool) (a b : Word) : Word := arith2 sh sat (fun x y => x + y) a b
def isubW (sh : Shape) (sat : Bool) (a b : Word) : Word := arith2 sh sat (fun x y => x - y) a b
def imulW (sh : Shape) (sat : Bool) (a b : Word) : Word := arith2 sh sat (fun x y => x * y) a b
/-- IMULH: the upper half of the double-width product (R212). -/
def imulhW (sh : Shape) (a b : Word) : Word :=
  arith2 sh false (fun x y => (x * y) / ((2 ^ sh.w : Nat) : Int)) a b
def iminW (sh : Shape) (a b : Word) : Word := arith2 sh false (fun x y => if x ≤ y then x else y) a b
def imaxW (sh : Shape) (a b : Word) : Word := arith2 sh false (fun x y => if x ≤ y then y else x) a b
def iabsW (sh : Shape) (sat : Bool) (a : Word) : Word :=
  map1 sh (fun x => sh.fit sat ((sh.val x).natAbs : Int)) a
def imadW (sh : Shape) (sat : Bool) (a b c : Word) : Word :=
  map3 sh (fun x y z => sh.fit sat (sh.val x * sh.val y + sh.val z)) a b c
/-- IMADW: a 32-bit product added to a 64-bit value, 64 bits written (R212). -/
def imadwW (signed sat : Bool) (a b c : Word) : Word :=
  let s32 : Shape := ⟨32, 1, signed⟩
  let s64 : Shape := ⟨64, 1, signed⟩
  w64 (s64.fit sat (s32.val (elem 32 0 a) * s32.val (elem 32 0 b) + s64.val c.toNat))

/-- IADDC: sum and carry (R213). -/
def iaddcW (w : Nat) (a b c : Word) : Word × Word :=
  let s := elem w 0 a + elem w 0 b + field c 0 1
  (w64 (s % 2 ^ w), w64 (s / 2 ^ w))

/-- IDIV's quotient and IREM's remainder of one element (R214). -/
def divElem (sh : Shape) (sat : Bool) (x y : Nat) : Nat × Nat :=
  let a := sh.val x
  let b := sh.val y
  if b = 0 then (2 ^ sh.w - 1, wrapN a sh.w)
  else if sh.signed ∧ a = sh.lo ∧ b = -1 then (wrapN (if sat then sh.hi else sh.lo) sh.w, 0)
  else
    let q := a.tdiv b
    (wrapN q sh.w, wrapN (a - q * b) sh.w)

def idivW (sh : Shape) (sat : Bool) (a b : Word) : Word := map2 sh (fun x y => (divElem sh sat x y).1) a b
def iremW (sh : Shape) (a b : Word) : Word := map2 sh (fun x y => (divElem sh false x y).2) a b

/-- The integer conditions of R56 and R215. -/
def icmpCond (c : Nat) (x y : Int) : Bool :=
  match c with
  | 0 => x == y | 1 => x != y | 2 => decide (x < y) | 3 => decide (x ≤ y) | 4 => decide (x > y) | _ => decide (x ≥ y)

def icmpW (sh : Shape) (c : Nat) (a b : Word) : Bool := icmpCond c (sh.val (elem sh.w 0 a)) (sh.val (elem sh.w 0 b))

/-- SEL (R216): bitwise under b64, per element otherwise. -/
def selW (t : Ty) (a b c : Word) : Word :=
  if t = .b64 then (a &&& c) ||| (b &&& ~~~c)
  else map3 (shapeOf t 0) (fun x y z => if z ≠ 0 then x else y) a b c

/-- The bitwise rows under b64, or on the low 32 bits under i32 and n32 (R217). -/
def bitW (t : Ty) (r : Word) : Word := if t.scalar32 then r &&& 0xFFFFFFFF#64 else r

/-- The truth-table function of TERN on one bit position (R217). -/
def ternBit (t : Nat) (a b c : Bool) : Bool :=
  bitN t ((if a then 4 else 0) + (if b then 2 else 0) + (if c then 1 else 0))

/-- TERN on all 64 positions (R217). -/
def ternW (t : Nat) (a b c : Word) : Word :=
  w64 (packNat 1 ((List.range 64).map fun i =>
    if ternBit t (a.getLsbD i) (b.getLsbD i) (c.getLsbD i) then 1 else 0))

/-- The shifts on one element (R218). -/
def shlElem (w x n : Nat) : Nat := if n < w then (x * 2 ^ n) % 2 ^ w else 0
def shrElem (w x n : Nat) : Nat := if n < w then x / 2 ^ n else 0
def sarElem (w x n : Nat) : Nat := wrapN (sextN x w / ((2 ^ (if n < w then n else w) : Nat) : Int)) w

/-- FUNNEL on one element (R219). -/
def funnelElem (w x y z : Nat) : Nat := ((x * 2 ^ w + y) / 2 ^ (z % w)) % 2 ^ w

/-- BFE on one element (R220). -/
def bfeElem (sh : Shape) (x pos len : Nat) : Nat :=
  if len = 0 ∨ pos ≥ sh.w then 0 else
  let l := min len (sh.w - pos)
  let f := bitsN x pos l
  if sh.signed then wrapN (sextN f l) sh.w else f

/-- BFI on one element (R220): pos is bits [7:0] and len bits [15:8] of c's element. -/
def bfiElem (w x y z : Nat) : Nat :=
  let pos := z % 256
  let len := (z / 256) % 256
  if len = 0 ∨ pos ≥ w then x else
  let l := min len (w - pos)
  x - bitsN x pos l * 2 ^ pos + (y % 2 ^ l) * 2 ^ pos

/-- BPERM (R222). -/
def bpermW (a b c : Word) : Word :=
  pack 8 ((List.range 8).map fun j =>
    let k := field c (4 * j) 4
    if k < 8 then elem 8 k a else elem 8 (k - 8) b)

/-- ISAD: the accumulated sum of absolute differences, modulo `2^64` (R223). -/
def isadW (sh : Shape) (acc a b : Word) : Word :=
  w64 (acc.toNat + sumBy (fun i => (sh.val (elem sh.w i a) - sh.val (elem sh.w i b)).natAbs) (List.range sh.n))

/-- IDOT: the accumulated dot product, 64 bits, wrapping or saturating (R223). -/
def idotW (sh : Shape) (sat : Bool) (acc a b : Word) : Word :=
  let s64 : Shape := ⟨64, 1, sh.signed⟩
  let dot := (List.range sh.n).foldl (fun (s : Int) i => s + sh.val (elem sh.w i a) * sh.val (elem sh.w i b)) 0
  w64 (s64.fit sat (s64.val acc.toNat + dot))

/-- PACK (R224): two registers of the source type into one of the destination type. -/
def packW (dst src : Ty) (sat : Bool) (a b : Word) : Word :=
  let ss := shapeOf src 0
  let ds := shapeOf dst 0
  pack ds.w ((elems ss.w ss.n a ++ elems ss.w ss.n b).map fun x => ds.fit sat (ss.val x))

/-- UNPACK (R224): half `h = bits(b, 0, 0)` of a register, widened by the source's signedness. -/
def unpackW (dst src : Ty) (a b : Word) : Word :=
  let ss := shapeOf src 0
  let ds := shapeOf dst 0
  let h := field b 0 1
  pack ds.w ((List.range ds.n).map fun j => ds.fit false (ss.val (elem ss.w (ds.n * h + j) a)))

/-- MOV under a type: the 32-bit scalars write [31:0] and zero above (R225). -/
def movW (t : Ty) (a : Word) : Word := if t.scalar32 then a &&& 0xFFFFFFFF#64 else a

def rotl64 (x : Word) (n : Nat) : Word := x.rotateLeft n

/-- HRAND (R227). -/
def hrandW (a b c : Word) : Word :=
  let x := a ^^^ rotl64 b 24 ^^^ rotl64 c 44
  let x := x ^^^ (x >>> 32)
  let x := x * 0x9E3779B97F4A7C15#64
  let x := x ^^^ (x >>> 28)
  x ^^^ rotl64 x 16 ^^^ rotl64 x 40

/-- SUBSWZ (R237): element j takes element (selector j mod n) of a, or zero if the selector's bit 3 is set. -/
def subswzW (w : Nat) (a b : Word) : Word :=
  let n := 64 / w
  pack w ((List.range n).map fun j =>
    let sel := field b (4 * j) 4
    if bitN sel 3 then 0 else elem w (sel % n) a)

end Sys2Proof.Machine
end

