-- ==== Sys2Proof/Machine/FloatAlu.lean ====
section
/-! DEFINITION. The results and flags of the floating, conversion and scaling instructions on operand data (R239 to R255),
and the read-modify-write of float atomics (R123). -/

namespace Sys2Proof.Machine

/-- A floating sum with one rounding: exact, invalid cases and zero sign by R241 and R202. -/
def fvAdd (f : Fmt) (c : RCtx) (a b : FV) : FV × Flags :=
  match a, b with
  | .nan sa, .nan sb => (.nan false, if sa || sb then fNV else fNone)
  | .nan s, _ => (.nan false, if s then fNV else fNone)
  | _, .nan s => (.nan false, if s then fNV else fNone)
  | .inf na, .inf nb => if na = nb then (.inf na, fNone) else (.nan false, fNV)
  | .inf n, _ => (.inf n, fNone)
  | _, .inf n => (.inf n, fNone)
  | .fin na ma _, .fin nb mb _ =>
    let zn := if ma = 0 ∧ mb = 0 ∧ na = nb then na else decide (c.mode = .rd)
    f.roundDy c zn (a.dy.add b.dy)

/-- The sign of a datum inverted. -/
def FV.negate : FV → FV
  | .nan s => .nan s
  | .inf n => .inf (!n)
  | .fin n m e => .fin (!n) m e

/-- FMUL's product with one rounding (R241, R202). -/
def fvMul (f : Fmt) (c : RCtx) (a b : FV) : FV × Flags :=
  match a, b with
  | .nan sa, .nan sb => (.nan false, if sa || sb then fNV else fNone)
  | .nan s, _ => (.nan false, if s then fNV else fNone)
  | _, .nan s => (.nan false, if s then fNV else fNone)
  | .inf na, .inf nb => (.inf (na != nb), fNone)
  | .inf na, .fin nb mb _ => if mb = 0 then (.nan false, fNV) else (.inf (na != nb), fNone)
  | .fin na ma _, .inf nb => if ma = 0 then (.nan false, fNV) else (.inf (na != nb), fNone)
  | .fin na _ _, .fin nb _ _ => f.roundDy c (na != nb) (a.dy.mul b.dy)

/-- A product kept exact: a datum whose finite values are exact. Invalid products are NaN with NV. -/
def fvMulExact (a b : FV) : FV × Flags :=
  match a, b with
  | .nan sa, .nan sb => (.nan false, if sa || sb then fNV else fNone)
  | .nan s, _ => (.nan false, if s then fNV else fNone)
  | _, .nan s => (.nan false, if s then fNV else fNone)
  | .inf na, .inf nb => (.inf (na != nb), fNone)
  | .inf na, .fin nb mb _ => if mb = 0 then (.nan false, fNV) else (.inf (na != nb), fNone)
  | .fin na ma _, .inf nb => if ma = 0 then (.nan false, fNV) else (.inf (na != nb), fNone)
  | .fin na ma ea, .fin nb mb eb => (.fin (na != nb) (ma * mb) (ea + eb), fNone)

/-- FMA: `a × b + c` with one rounding; 0 × ∞ is invalid whatever c is (R241). -/
def fvFma (f : Fmt) (c : RCtx) (a b d : FV) : FV × Flags :=
  let p := fvMulExact a b
  let r := fvAdd f c p.1 d
  (r.1, r.2 ||| p.2 ||| nvOf [a, b, d])

/-- The smaller or the larger of two data by R202's order, with the NaN rule of FMIN and FMAX (`numberFirst`) or of FMINN and
FMAXN (R242). -/
def fvMinMax (f : Fmt) (fo wantMax numberFirst : Bool) (a b : FV) : FV × Flags :=
  let nv := nvOf [a, b]
  let pick : FV :=
    if a.isNaN && b.isNaN then .nan false
    else if a.isNaN then (if numberFirst then b else .nan false)
    else if b.isNaN then (if numberFirst then a else .nan false)
    else if wantMax then (if a.ltOrd b then b else a) else (if b.ltOrd a then b else a)
  let r := f.passOut fo pick
  (r.1, r.2 ||| nv)

/-- FCMP's condition and its NV (R243). -/
def fcmpFV (cond : Nat) (a b : FV) : Bool × Flags :=
  let un := a.isNaN || b.isNaN
  let nv := nvOf [a, b]
  let rel : Bool :=
    match cond with
    | 0 => !un && a.eqNum b
    | 1 => un || !a.eqNum b
    | 2 => !un && a.ltNum b
    | 3 => !un && !b.ltNum a
    | 4 => !un && b.ltNum a
    | 5 => !un && !a.ltNum b
    | 6 => un
    | _ => !un
  (rel, if un && decide (2 ≤ cond) && decide (cond ≤ 5) then fNV else nv)

/-- FCLASS's one-hot mask (R244). -/
def fclassFV (f : Fmt) (v : FV) : Nat :=
  match v with
  | .nan s => if s then 1 else 2
  | .inf n => if n then 4 else 0x200
  | .fin n m _ =>
    if m = 0 then (if n then 0x20 else 0x40)
    else if f.isSub v then (if n then 0x10 else 0x80)
    else (if n then 8 else 0x100)

/-- An exact value rounded to an integer by a mode: (integer magnitude, inexact) with the sign apart. -/
def roundInt (c : RMode) (rnd : Nat) (neg : Bool) (m : Nat) (e : Int) : Nat × Bool :=
  if e ≥ 0 then (m * 2 ^ e.toNat, false)
  else
    let s := 2 ^ (-e).toNat
    let n := m / s
    let r := m % s
    (if roundsUp c rnd neg r s (n % 2 == 1) then n + 1 else n, r ≠ 0)

/-- FRINT (R246). -/
def frintFV (f : Fmt) (c : RCtx) (v : FV) : FV × Flags :=
  match v with
  | .nan s => (.nan false, if s then fNV else fNone)
  | .inf n => (.inf n, fNone)
  | .fin neg m e =>
    if m = 0 then (v, fNone) else
    let r := roundInt c.mode c.rnd neg m e
    let out := f.passOut c.fo (.fin neg r.1 0)
    (out.1, out.2 ||| if r.2 then fNX else fNone)

/-- FFRACT: `round_dn(a − floor(a))` (R246); +0 for every integer, where R202 read with RD would give −0 (DESIGN CHOICE, log entry 231). -/
def ffractFV (f : Fmt) (fo : Bool) (v : FV) : FV × Flags :=
  match v with
  | .nan s => (.nan false, if s then fNV else fNone)
  | .inf _ => (.nan false, fNV)
  | .fin .. =>
    let x := v.dy.fract
    if x.m = 0 then (.fin false 0 0, fNone) else f.roundMag ⟨.rd, 0, false, fo⟩ false x.m.natAbs x.e

/-- FLDEXP: `round_rm(a × 2^n)`; the shift is cut at ±20000, beyond which the rounded value no longer depends on it (R247). -/
def fldexpFV (f : Fmt) (c : RCtx) (v : FV) (n : Int) : FV × Flags :=
  match v with
  | .nan s => (.nan false, if s then fNV else fNone)
  | .inf s => (.inf s, fNone)
  | .fin neg m e =>
    if m = 0 then (v, fNone) else f.roundMag c neg m (e + satI n (-20000) 20000)

/-- FFREXP: significand and exponent (R247). -/
def ffrexpFV (f : Fmt) (fo : Bool) (v : FV) : FV × Int × Flags :=
  match v with
  | .nan s => (.nan false, 0, if s then fNV else fNone)
  | .inf n => (.inf n, 0, fNone)
  | .fin neg m e =>
    if m = 0 then (v, 0, fNone) else
    let k := Nat.log2 m + 1
    let r := f.passOut fo (.fin neg m (-(k : Int)))
    (r.1, e + (k : Int), r.2)

/-- The precision kept below a sticky bit: enough for every format and for the 24 bits RS compares (R197). -/
def stickyPrec : Nat := 120

/-- The sign of a quotient or product (R202). -/
def fvSignXor (a b : FV) : Bool := a.isNeg != b.isNeg

/-- FDIV, correctly rounded in every mode (R248, R249). -/
def fdivFV (f : Fmt) (c : RCtx) (a b : FV) : FV × Flags :=
  match a, b with
  | .nan sa, .nan sb => (.nan false, if sa || sb then fNV else fNone)
  | .nan s, _ => (.nan false, if s then fNV else fNone)
  | _, .nan s => (.nan false, if s then fNV else fNone)
  | .inf _, .inf _ => (.nan false, fNV)
  | .inf na, .fin nb _ _ => (.inf (na != nb), fNone)
  | .fin na _ _, .inf nb => (.fin (na != nb) 0 0, fNone)
  | .fin na ma _, .fin nb mb _ =>
    if mb = 0 then (if ma = 0 then (.nan false, fNV) else (.inf (na != nb), fDZ))
    else if ma = 0 then (.fin (na != nb) 0 0, fNone)
    else f.roundDy c (na != nb) (Dy.divSticky a.dy b.dy stickyPrec)

/-- FRCP (R248, R249). -/
def frcpFV (f : Fmt) (c : RCtx) (a : FV) : FV × Flags := fdivFV f c (.fin false 1 0) a

/-- FSQRT, correctly rounded (R248, R249). -/
def fsqrtFV (f : Fmt) (c : RCtx) (a : FV) : FV × Flags :=
  match a with
  | .nan s => (.nan false, if s then fNV else fNone)
  | .inf n => if n then (.nan false, fNV) else (.inf false, fNone)
  | .fin n m _ =>
    if m = 0 then (a, fNone)
    else if n then (.nan false, fNV)
    else f.roundDy c false (Dy.sqrtSticky a.dy stickyPrec)

/-- A faithful result from bounds around the exact value: the exact value where the format holds it (`lo = hi` on the grid),
otherwise one of the two neighbours, chosen by `up`; overflow as under RNE (R248). Flags against the exact value (R200); UF where that value, unrounded, or the value picked is tiny, for R200 names no
rounding of a word that ignores RM (DESIGN CHOICE, log entry 232). -/
def faithful (f : Fmt) (sat fo up : Bool) (lo hi : Dy) : FV × Flags :=
  let d := f.roundDy ⟨.rd, 0, false, false⟩ false lo
  let u := f.roundDy ⟨.ru, 0, false, false⟩ false hi
  if d.1.eqNum u.1 then f.roundDy ⟨.rne, 0, sat, fo⟩ false lo
  else
    -- adjacent values: overflow is decided by RNE on the exact value
    let n := f.roundDy ⟨.rne, 0, sat, fo⟩ false lo
    if (n.2 &&& fOF) ≠ 0 then n else
    let pick := if up && !u.1.isInf then u.1 else d.1
    let tiny := Dy.lt hi.abs (Dy.pow2 f.emin) || f.isSub pick
    let out := f.passOut fo pick
    (out.1, out.2 ||| fNX ||| if tiny then fUF else fNone)

/-- FRSQ (R248, R249): bounds by an integer square root. -/
def frsqFV (f : Fmt) (fo up : Bool) (a : FV) : FV × Flags :=
  match a with
  | .nan s => (.nan false, if s then fNV else fNone)
  | .inf n => if n then (.nan false, fNV) else (.fin false 0 0, fNone)
  | .fin n m _ =>
    if m = 0 then (.inf n, fDZ)
    else if n then (.nan false, fNV)
    else
      let q := Dy.divSticky (Dy.ofInt 1) a.dy 420
      let s := Dy.sqrtSticky q 200
      let exactQ := (a.dy.mul q).eqv (Dy.ofInt 1)
      let exactS := (s.mul s).eqv q
      if exactQ && exactS then f.roundDy ⟨.rne, 0, false, fo⟩ false s
      else faithful f false fo up (s.sub (Dy.scale (Dy.pow2 s.exponent) (-190))) (s.add (Dy.scale (Dy.pow2 s.exponent) (-190)))

/-- An integer type's conversion from a datum: rounded to integral, clamped, NaN gives 0 (R251). -/
def toIntFV (sh : Shape) (c : RCtx) (v : FV) : Nat × Flags :=
  match v with
  | .nan _ => (0, fNV)
  | .inf n => (wrapN (if n then sh.lo else sh.hi) sh.w, fNV)
  | .fin neg m e =>
    let r := roundInt c.mode c.rnd neg m e
    let i : Int := if neg then -(r.1 : Int) else (r.1 : Int)
    if i < sh.lo then (wrapN sh.lo sh.w, fNV)
    else if i > sh.hi then (wrapN sh.hi sh.w, fNV)
    else (wrapN i sh.w, if r.2 then fNX else fNone)

/-- An integer as an exact datum. -/
def fvOfInt (i : Int) : FV := .fin (decide (i < 0)) i.natAbs 0

/-- A sum of exact data with one rounding, by FDOT2's rules for NaN and infinite terms (R253). The products' own NV flags are
passed in. -/
def sumRound (f : Fmt) (c : RCtx) (terms : List FV) (nv : Flags) : FV × Flags :=
  if terms.any FV.isNaN then (.nan false, nv ||| nvOf terms)
  else
    let infs := terms.filter FV.isInf
    match infs with
    | i :: rest =>
      if rest.any (fun j => j.isNeg != i.isNeg) then (.nan false, nv ||| fNV) else (i, nv)
    | [] =>
      let allNeg := terms.all fun t => t.isZero && t.isNeg
      let allPos := terms.all fun t => t.isZero && !t.isNeg
      let zn := if allNeg then true else if allPos then false else decide (c.mode = .rd)
      let r := f.roundDy c zn (terms.foldl (fun s t => s.add t.dy) Dy.zero)
      (r.1, r.2 ||| nv)

/-- The read-modify-write of a float atomic: add by RNE, min and max by FMIN and FMAX, no flag (R123). `op` 0 add, 1 min, 2 max. -/
def fAtomic (f : Fmt) (op : Nat) (old x : Nat) : Nat :=
  let a := f.decode old
  let b := f.decode x
  match op with
  | 0 => f.encode (fvAdd f ctxRNE a b).1
  | 1 => f.encode (fvMinMax f false false true a b).1
  | _ => f.encode (fvMinMax f false true true a b).1

end Sys2Proof.Machine
end

