-- ==== Sys2Proof/Machine/IntervalAlu.lean ====
section
/-! DEFINITION. Intervals (R203, R204) and the results of the interval instructions (R256 to R260). -/

namespace Sys2Proof.Machine

/-- An extended real. -/
inductive XR where
  | ninf
  | fin (d : Dy)
  | pinf
deriving DecidableEq, Repr, Inhabited

def XR.le : XR → XR → Bool
  | .ninf, _ => true
  | _, .pinf => true
  | .fin a, .fin b => a.le b
  | _, _ => false

def XR.lt (a b : XR) : Bool := !(b.le a)
def XR.min (a b : XR) : XR := if b.lt a then b else a
def XR.max (a b : XR) : XR := if a.lt b then b else a
def XR.neg : XR → XR | .ninf => .pinf | .pinf => .ninf | .fin d => .fin d.neg
def XR.ofInt (i : Int) : XR := .fin (Dy.ofInt i)
def XR.zero : XR := .fin Dy.zero
def XR.isInf : XR → Bool | .fin _ => false | _ => true
def XR.dy : XR → Dy | .fin d => d | _ => Dy.zero
/-- −1, 0 or 1. -/
def XR.sign : XR → Int | .ninf => -1 | .pinf => 1 | .fin d => if d.m < 0 then -1 else if d.m = 0 then 0 else 1
def XR.abs (a : XR) : XR := if a.sign < 0 then a.neg else a

/-- The sum where it is defined; the infinity of a mixed pair is decided by the caller (R256). -/
def XR.add : XR → XR → XR
  | .fin a, .fin b => .fin (a.add b)
  | .fin _, b => b
  | a, _ => a

/-- The product, with 0 × ∞ taken as 0 (R256). -/
def XR.mul (a b : XR) : XR :=
  match a, b with
  | .fin x, .fin y => .fin (x.mul y)
  | _, _ => if a.sign = 0 ∨ b.sign = 0 then XR.zero else if a.sign * b.sign < 0 then .ninf else .pinf

/-- The quotient by a value that is not zero; finite / ∞ = 0 (R257). -/
def XR.div (a b : XR) : XR :=
  match a, b with
  | .fin x, .fin y => .fin (Dy.divSticky x y stickyPrec)
  | .fin _, _ => XR.zero
  | _, _ => if a.sign * b.sign < 0 then .ninf else .pinf

/-- The square root of a value that is not negative, with a sticky last bit. -/
def XR.sqrt : XR → XR
  | .fin d => .fin (Dy.sqrtSticky d stickyPrec)
  | x => x

/-- An interval value (R203): empty, NaI, or the extended reals from lo to hi. -/
inductive Iv where
  | empty
  | nai
  | mk (lo hi : XR)
deriving DecidableEq, Repr, Inhabited

def Iv.entire : Iv := .mk .ninf .pinf
def Iv.point (x : XR) : Iv := .mk x x

/-- An FP32 datum as an extended real; a NaN has none. -/
def xrOf : FV → Option XR
  | .nan _ => none
  | .inf n => some (if n then .ninf else .pinf)
  | v => some (.fin v.dy)

/-- How an iv32 value is read (R204): a NaN in either half is NaI, lo > hi is empty, −0 is 0. -/
def ivRead (x : Word) : Iv :=
  match xrOf (fp32.decode (elem 32 0 x)), xrOf (fp32.decode (elem 32 1 x)) with
  | some lo, some hi => if hi.lt lo then .empty else .mk lo hi
  | _, _ => .nai

/-- `round_dn(x, f32)` as a pattern; a zero is written +0 (R204). -/
def dnPat : XR → Nat
  | .ninf => 0xFF800000
  | .pinf => 0x7F800000
  | .fin d =>
    match fp32.roundDn d with
    | .fin n m e => if m = 0 then 0 else fp32.encode (.fin n m e)
    | v => fp32.encode v

/-- `round_up(x, f32)` as a pattern; a zero is written +0 (R204). -/
def upPat : XR → Nat
  | .ninf => 0xFF800000
  | .pinf => 0x7F800000
  | .fin d =>
    match fp32.roundUp d with
    | .fin n m e => if m = 0 then 0 else fp32.encode (.fin n m e)
    | v => fp32.encode v

/-- A bound rounded down or up onto FP32, as an extended real. -/
def XR.dn (x : XR) : XR := (xrOf (fp32.decode (dnPat x))).getD .ninf
def XR.up (x : XR) : XR := (xrOf (fp32.decode (upPat x))).getD .pinf

/-- Both bounds rounded outward onto FP32 (R204). -/
def Iv.out : Iv → Iv
  | .mk lo hi => .mk lo.dn hi.up
  | v => v

/-- The canonical pattern of an interval (R203, R204). -/
def ivWrite : Iv → Word
  | .empty => 0xFF8000007F800000#64
  | .nai => 0x7FC000007FC00000#64
  | .mk lo hi => w64 (dnPat lo + upPat hi * 2 ^ 32)

/-- NaI and empty operands of a binary row (R256); NaI is decided first. -/
def ivBin (f : XR → XR → XR → XR → Iv) (a b : Iv) : Iv :=
  match a, b with
  | .nai, _ => .nai
  | _, .nai => .nai
  | .empty, _ => .empty
  | _, .empty => .empty
  | .mk al ah, .mk bl bh => f al ah bl bh

def ivUn (f : XR → XR → Iv) (a : Iv) : Iv :=
  match a with
  | .nai => .nai
  | .empty => .empty
  | .mk l h => f l h

def ivAdd : Iv → Iv → Iv := ivBin fun al ah bl bh =>
  if (ah == .pinf && bl == .ninf) || (al == .ninf && bh == .pinf) then .entire
  else .mk (al.add bl) (ah.add bh)

def ivNeg : Iv → Iv := ivUn fun l h => .mk h.neg l.neg

def ivSub (a b : Iv) : Iv := ivAdd a (ivNeg b)

def min4 (a b c d : XR) : XR := (a.min b).min (c.min d)
def max4 (a b c d : XR) : XR := (a.max b).max (c.max d)

def ivMul : Iv → Iv → Iv := ivBin fun al ah bl bh =>
  .mk (min4 (al.mul bl) (al.mul bh) (ah.mul bl) (ah.mul bh)) (max4 (al.mul bl) (al.mul bh) (ah.mul bl) (ah.mul bh))

/-- The bounds hold a member of the interval at −∞ or +∞. -/
def hasInf (l h : XR) : Bool := l.isInf || h.isInf

def ivDiv : Iv → Iv → Iv := ivBin fun al ah bl bh =>
  if bl.sign ≤ 0 ∧ bh.sign ≥ 0 then
    (if al.sign = 0 ∧ ah.sign = 0 then .point XR.zero else .entire)
  else if hasInf al ah && hasInf bl bh then .entire
  else .mk (min4 (al.div bl) (al.div bh) (ah.div bl) (ah.div bh)) (max4 (al.div bl) (al.div bh) (ah.div bl) (ah.div bh))

def ivSqr : Iv → Iv := ivUn fun l h =>
  let lo := if l.sign ≥ 0 then l.mul l else if h.sign ≤ 0 then h.mul h else XR.zero
  .mk lo ((l.mul l).max (h.mul h))

def ivSqrt : Iv → Iv := ivUn fun l h =>
  if h.sign < 0 then .empty else .mk (if l.sign < 0 then XR.zero else l.sqrt) h.sqrt

def ivMin : Iv → Iv → Iv := ivBin fun al ah bl bh => .mk (al.min bl) (ah.min bh)
def ivMax : Iv → Iv → Iv := ivBin fun al ah bl bh => .mk (al.max bl) (ah.max bh)

def ivAbs : Iv → Iv := ivUn fun l h =>
  .mk (if l.sign ≥ 0 then l else if h.sign ≤ 0 then h.neg else XR.zero) (l.abs.max h.abs)

/-- IVHULL: an empty operand is ignored (R257). -/
def ivHull (a b : Iv) : Iv :=
  match a, b with
  | .nai, _ => .nai
  | _, .nai => .nai
  | .empty, x => x
  | x, .empty => x
  | .mk al ah, .mk bl bh => .mk (al.min bl) (ah.max bh)

/-- IVMAKE from two FP32 patterns (R258). -/
def ivMake (a b : Nat) : Iv :=
  match xrOf (fp32.decode a), xrOf (fp32.decode b) with
  | some x, some y => .mk (x.min y) (x.max y)
  | _, _ => .nai

/-- IVMID's point, as an FP32 pattern (R259). -/
def ivMidPat : Iv → Nat
  | .empty => fp32.canonNaN
  | .nai => fp32.canonNaN
  | .mk (.fin a) (.fin b) => fp32.encode (fp32.roundDy ctxRNE false ((a.add b).scale (-1))).1
  | .mk .ninf .pinf => 0
  | .mk .ninf .ninf => 0xFF800000
  | .mk .ninf _ => 0xFF7FFFFF
  | .mk _ .pinf => 0x7F7FFFFF
  | .mk _ _ => 0

/-- The midpoint of a point at +∞ is that infinity (R259). -/
def ivMid (a : Iv) : Nat := if a = .mk .pinf .pinf then 0x7F800000 else ivMidPat a

/-- IVSPLIT's two halves (R259). -/
def ivSplit (a : Iv) : Iv × Iv :=
  match a with
  | .mk l h =>
    if l = h ∧ l.isInf = true then (a, a)
    else match xrOf (fp32.decode (ivMid a)) with
      | some m => (.mk l m, .mk m h)
      | none => (a, a)
  | _ => (a, a)

/-- IVTEST's selectors (R260). -/
def ivTest (sel : Nat) (a : Iv) : Bool :=
  match sel, a with
  | 0, .mk l h => decide (l.sign ≤ 0 ∧ h.sign ≥ 0)
  | 1, .mk l _ => decide (l.sign > 0)
  | 2, .mk _ h => decide (h.sign < 0)
  | 3, .empty => true
  | 4, .nai => true
  | _, _ => false

end Sys2Proof.Machine
end

