-- ==== Sys2Proof/Config.lean ====
section
/-! DEFINITION. What an implementation fixes and the free values: constants with no body, so nothing in Lean can evaluate
them or prove a value of them. Each stands in a row of the assumption log. -/

namespace Sys2Proof.Config

/-- A fresh free value, applied to the counter `State.free` (R9, R20, R78, R86, R112, R140; log entry 3). -/
opaque freeWord : Nat → Word

/-- Which of the two faithful neighbours FRSQ, FEXP2 and FLOG2 return: a function of the operation and the operand, since the
part returns the same bits for equal inputs (R248; log entry 4). True takes the upper neighbour. -/
opaque faithfulUp : Nat → Word → Bool

/-- The choice FSIN and FCOS make inside the tolerance of R248: a function of the operation and the operand (log entry 4). -/
opaque sinPick : Nat → Word → Nat

/-- Bytes of a form the part defines (stream registers in frames and records, R366, R433; save images, R448): a function of
what is saved and of the byte's position (log entry 5). -/
opaque partByte : List Nat → Nat → Byte

/-- Whether a peer chip allows a request at a step of this one: the counter `State.free`, the chip, the job, the address, whether it
writes. The chip answers by its own live contexts and page tables (R392, R402), which are outside this one (log entry 10). -/
opaque peerAllows : Nat → Nat → Nat → Nat → Bool → Bool

/-- This chip's number in its domain, modulo 768 (R391, R469; log entry 11). -/
opaque chipNumber : Nat

/-- The stepping that IDENT[23:16] reports (R400: part-defined; log entry 6). -/
opaque stepping : Byte

/-- The RSA-3072 keys (modulus and exponent) and the SLH-DSA keys whose digests are fused into the part, four of each kind (R425; log
entry 7). -/
opaque romRsaKey : Nat → Nat × Nat
opaque romSlhKey : Nat → List Byte

/-- The key tables that a firmware image holds, up to 16 keys of each kind (R425; log entry 7). -/
opaque firmwareRsaKeys : List Byte → List (Nat × Nat)
opaque firmwareSlhKeys : List Byte → List (List Byte)

/-- What the part adds to its own count to make the TAG of an OPAQUE record, unique among live suspensions (R315; log entry 13). -/
opaque tagBase : Word

/-- The start of a scheduler's sampling register from a context's SEED (R483; log entry 53). -/
opaque lfsrSeed : Word → Nat → BitVec 16

/-- Bytes a save image needs (R445, R448: its layout is part-defined; log entry 54), from the counter of free values. -/
opaque imageSize : Nat → Nat

/-- The form in which the debug agent shows a block barrier: its phase bit, count, zero-count mode and arrivals (R459; log entry 81). -/
opaque barrierWord : Nat → Nat → Bool → Nat → Word

/-- The code of a matrix operand buffer or B slot in a range-lock entry, from the model's own (R154; log entry 132). -/
opaque matrixBase : Nat → Word

end Sys2Proof.Config
end

