-- ==== Sys2Proof/Machine/State.lean ====
section
/-! DEFINITION. The state of one chip as plain data: everything the spec gives the machine, the reasons a step can stop, and the
state after reset. -/

namespace Sys2Proof.Machine

open Host (Cell)

/-- A v or k register: its value, its full/empty bit (R27) and its poison mark (R454). -/
structure Reg where
  val : Word
  full : Bool
  poison : Bool
deriving DecidableEq, Repr, Inhabited

/-- A register that reads zero and is full (R30). -/
def Reg.zero : Reg := ⟨0, true, false⟩

/-- The destination of a fixed-latency result: a v window entry, an o register, a predicate (R83). -/
inductive PDst where
  | v (n : Nat) | o (n : Nat) | p (n : Nat)
deriving DecidableEq, Repr, Inhabited

/-- A fixed-latency result not yet visible: `left` further words of the batch until it is (R28, R83). `seq` is the issue order. -/
structure Pend where
  seq : Nat
  dst : PDst
  val : Word
  left : Nat
deriving DecidableEq, Repr, Inhabited

/-- A fixed-latency v or o result of this segment, for l0 and l1 (R21). -/
structure Hist where
  seq : Nat
  val : Word
  left : Nat
deriving DecidableEq, Repr, Inhabited

/-- The operation a busy stream register is settling (R133, R134). -/
inductive StreamOp where
  | sopen (addr : Nat)
  | next
  | gallop (target : Nat)
  | isect (other : Nat)
deriving DecidableEq, Repr, Inhabited

/-- A stream register q0 to q7 (R24, R132, R133). -/
structure Stream where
  opened : Bool
  coord : Nat
  value : Nat
  first : Nat
  last : Nat
  vbase : Nat
  fmt : Nat
  vsize : Nat
  /-- compressed: position in COORD; bitmap and dense: coordinate -/
  pos : Nat
  ended : Bool
  /-- current coordinate and its value -/
  cur : Nat
  curVal : Nat
  /-- the operation being settled, or held with its fault -/
  op : Option StreamOp
  /-- a fault held while settling, with its cause and address (R133) -/
  fault : Option (Cause × Nat)
  /-- the held fault has been raised: the operation runs again once the handler returns -/
  raised : Bool
  /-- the place in issue order of the word whose operation is being settled (R141), and its segment and word offset -/
  since : Nat
  seg : Nat
  woff : Nat
deriving DecidableEq, Repr, Inhabited

def Stream.closed : Stream := ⟨false, 0, 0, 0, 0, 0, 0, 0, 0, false, 0, 0, none, none, false, 0, 0, 0⟩

/-- One fibre on its home lane (R18, R30, R33, R36, R71). -/
structure Fibre where
  live : Bool
  v : List Reg
  o : List Word
  /-- o registers visibly written in this segment (R20) -/
  oset : BitVec 8
  /-- STATUS, with the predicates p1 to p15 in [15:1], p0 in [0], HELPER in [24] (R33) -/
  status : Word
  /-- SAFEORD.ORD (R36) -/
  safeord : Nat
  pend : List Pend
  hist : List Hist
  q : List Stream
deriving DecidableEq, Repr, Inhabited

/-- One level of the loop stack (R88): remaining count, first body word, length in words. -/
structure LoopLvl where
  count : Nat
  first : Nat
  len : Nat
deriving DecidableEq, Repr, Inhabited

/-- A REP in progress (R99): repeats left, repeats done, the steps of DST, SA, SB and SC, and these fields as stepped for the next
repeat. -/
structure RepSt where
  left : Nat
  done : Nat
  sd : Nat
  sa : Nat
  sb : Nat
  sc : Nat
  d : Nat
  a : Nat
  b : Nat
  c : Nat
deriving DecidableEq, Repr, Inhabited

/-- What holds a batch whose word has issued but not ended (R100, R184, R277, R372, R374). -/
inductive Wait where
  /-- at a block or matrix barrier: for each group that waits for a phase it has not arrived in, that phase -/
  | bar (idx : Nat) (phases : List (Nat × Nat))
  | mbar (idx : Nat) (phases : List (Nat × Nat))
  /-- TBWAIT: the waits still to end, each with its block, barrier offset and parity -/
  | tbwait (todo : List (Nat × Nat × Nat))
  /-- in ENQ; in DEQ, with the records taken so far: group, lane and slot address -/
  | enq
  | deq (taken : List (Nat × Nat × Nat))
  /-- in EVWAIT, and whether the waiter has been released -/
  | event (released : Bool)
deriving DecidableEq, Repr, Inhabited

/-- An unbatched quad entry that waits in the sorter (R77). `lanes` are lane indices of its group; `time` is the segment-entry
time, `since` the clock from which it has been ready and unbatched (R82). -/
structure Entry where
  quad : Nat
  lanes : Mask
  seg : Nat
  woff : Nat
  loops : List LoopLvl
  rep : Option RepSt
  wait : Option Wait
  time : Nat
  since : Nat
  /-- its fibres have stopped at a breakpoint before their next word (R466) -/
  bp : Bool
deriving DecidableEq, Repr, Inhabited

/-- A memory space a flight reaches (R104). -/
inductive Space where
  | global | scratch | remote | priv | ro
deriving DecidableEq, Repr, Inhabited

/-- One lane of a variable-latency word in flight: A, B and the third operand, the data registers or the finished result as captured
at issue, the effective address or register, channel or group number, and the block or group it reaches (R436). -/
structure LaneOp where
  lane : Nat
  a : Word
  b : Word
  data : List Word
  ea : Nat
  tgt : Nat
deriving DecidableEq, Repr, Inhabited

/-- What completes a variable-latency word. -/
inductive FlightKind where
  /-- a result computed from the operands read at issue, held in `data`, with the flags of each lane -/
  | alu (flags : List (Nat × BitVec 5))
  | load (sp : Space)
  | store (sp : Space)
  | atomic (sp : Space)
  | fetch
  | fetch3
  | kget
  | sread
  | erd
  | wpget
  | mmove
  | march
  | prune
  | publish
  | deq
  | qput
  | enq
  | rrel
  | tbar
deriving DecidableEq, Repr, Inhabited

/-- A variable-latency word in flight, or a store not yet performed (R27, R429, R436). `uniform` words write k registers and hold
one lane operation. `held` lanes have failed step 5 or 6 of R105, with their cause and address. `lanes` are those of its group in its
batch (R435), `void` the helpers whose access failed a check at issue and gives zero (R79), and `parts` the 8-byte accesses that a lane
of a wide load or store has made before the rest: lane, place and what a load's read (R138). -/
structure Flight where
  seq : Nat
  instr : Instr
  kind : FlightKind
  uniform : Bool
  ops : List LaneOp
  pending : Mask
  done : Mask
  held : List (Nat × Cause × Nat)
  batch : Nat
  seg : Nat
  woff : Nat
  repj : Nat
  lanes : Mask
  void : Mask
  parts : List (Nat × Nat × Word)
deriving DecidableEq, Repr, Inhabited

/-- A uniform write of a batch not yet seen by the group's other batches (R83, R86); `pub` once a block-barrier arrival has followed
it (R236). -/
structure KPend where
  batch : Nat
  seq : Nat
  idx : Nat
  val : Word
  left : Nat
  pub : Bool
deriving DecidableEq, Repr, Inhabited

/-- What a trap reports (R426, R434). `flags`: [0] precise, [1] carried from the MSQ, [2] boundary. -/
structure TrapInfo where
  cause : Cause
  flags : Nat
  lanes : Mask
  detail : Nat
  addr : Nat
  obj : Nat
  seg : Nat
  woff : Nat
  sidx : Nat
  swoff : Nat
deriving DecidableEq, Repr, Inhabited

/-- A trap found while another of its group was being taken: the place of its word in issue order, and the group's lanes in that
word's batch (R427, R435). -/
structure HeldTrap where
  seq : Nat
  trap : TrapInfo
  present : Mask
deriving DecidableEq, Repr, Inhabited

/-- Where each fibre of a stopped group resumes (R435). -/
structure Resume where
  lane : Nat
  seg : Nat
  woff : Nat
  loops : List LoopLvl
  rep : Option RepSt
  wait : Option Wait
  oset : BitVec 8
  /-- the results that l0 and l1 take at the resume word, and those not visible there yet (R21) -/
  hist : List Hist
  present : Bool
  /-- it has stopped at a breakpoint before that word (R466) -/
  bp : Bool
deriving DecidableEq, Repr, Inhabited

/-- A group's arrivals at one block barrier or matrix barrier (R100, R275): the fibres that have issued the arriving word of the
phase, the phase number of its latest complete arrival, and the latest completion it has observed. -/
structure Arrive where
  idx : Nat
  lanes : Mask
  phase : Option Nat
  observed : Option Nat
deriving DecidableEq, Repr, Inhabited

/-- Why a group does not issue. -/
inductive GroupStop where
  | running
  /-- stopped at a word by CTX_STOP, a debug stop or the halt wave (R446, R472) -/
  | stopped
  /-- a trap is raised and waits for a frame or a ring slot (R397, R428) -/
  | trapping
deriving DecidableEq, Repr, Inhabited

/-- A group (R71, R18, R22). `gid` is the model's own key. -/
structure Group where
  gid : Nat
  ctx : Nat
  lid : Nat
  bid : Nat
  index : Nat
  wg : Nat
  core : Nat
  sched : Nat
  /-- first home quad slot b (R72) -/
  slot : Nat
  /-- window base and size w (R19) -/
  base : Nat
  win : Nat
  fibres : List Fibre
  k : List Reg
  kpend : List KPend
  /-- PRIO (R40) -/
  cprio : Nat
  lprio : Nat
  /-- PLIMIT (R37), PBASE (R38), CARVE (R39) -/
  plimit : Nat
  pbase : Nat
  carve : Nat
  /-- code object handle it runs (R411) -/
  obj : Nat
  flights : List Flight
  /-- words of the replay queue that the part keeps whole while the handler runs, by entry number (R428, R442) -/
  aside : List (Nat × Flight)
  entries : List Entry
  /-- privileged mode: the frame number of its handler (R428, R437) -/
  frame : Option Nat
  /-- where that frame lies -/
  frameVa : Nat
  /-- the object it ran before its handler -/
  savedObj : Nat
  trap : Option TrapInfo
  resume : List Resume
  /-- where its fibres stood when its trap was taken, beside what the frame holds (R435) -/
  saved : List Resume
  held : List HeldTrap
  /-- replay entries of the frame in use (R434, R439) -/
  rqn : Nat
  stop : GroupStop
  /-- debug mode: it runs stuffed words (R462) -/
  dbg : Bool
  /-- the fibres that have issued RFT (R442) -/
  rft : Mask
  bars : List Arrive
  mbars : List Arrive
  /-- private bytes as the group reads them, keyed by lane × 2^32 + offset (R111, R112) -/
  priv : List Cell
  /-- its 32-byte sectors, by global address: dirty in L1, written back before, written back and no longer in L1, poisoned in L1 with the
  structure code (R112, R452, R454) -/
  privDirty : List Nat
  privHome : List Nat
  privAway : List Nat
  privPoison : List (Nat × Nat)
  /-- PRE bit (R484), whether the last PMCAP was a start, and the trace SYNC counter (R481) -/
  pre : Bool
  capOpen : Bool
  sync : Nat
  /-- a SYNC record due in place of a SAFE record (R481) -/
  syncDue : Option (List Byte)
  /-- TRACECTL as of the group's latest safe point (R478) -/
  trace : Word
deriving DecidableEq, Repr, Inhabited

/-- The quads of one group in a batch: the lanes present at its first word and the group's loop stack (R76, R88, R89). -/
structure Member where
  gid : Nat
  lanes : Mask
  loops : List LoopLvl
deriving DecidableEq, Repr, Inhabited

/-- A batch (R76, R81). `time` is the oldest segment-entry time of its quads. -/
structure Batch where
  id : Nat
  core : Nat
  sched : Nat
  members : List Member
  obj : Nat
  seg : Nat
  woff : Nat
  rep : Option RepSt
  time : Nat
  /-- the clock before which SLEEP keeps it from issuing (R102) -/
  sleepUntil : Nat
  /-- the clock since which it has waited in its present word (R372, R374, R446) -/
  waitSince : Nat
  wait : Option Wait
  /-- the clock in which it last issued a word (R362), and whether it has stopped at a breakpoint before its next word (R466) -/
  last : Option Nat
  bp : Bool
  /-- the model's own: the counter of names as it stood when the last word issued (R272) -/
  lastFrom : Nat
deriving DecidableEq, Repr, Inhabited

/-- A block barrier (R100). `phase` counts completed phases: its parity is the phase bit. `expected` is the
count of the phase, `zero` the zero-count mode, both set by the first arrival. -/
structure Barrier where
  phase : Nat
  expected : Option Nat
  zero : Bool
  arrived : Nat
deriving DecidableEq, Repr, Inhabited

/-- A matrix loop level (R263, R288): remaining count, first word, length, and the two steps. -/
structure MLevel where
  count : Nat
  first : Nat
  len : Nat
  xr1 : Nat
  step1 : Int
  xr2 : Nat
  step2 : Int
deriving DecidableEq, Repr, Inhabited

/-- A matrix instruction in flight (R271, R281): its place in issue order, the sums its fields gave at issue (R270), the MMUL rows
done (R297) and its word offset. -/
structure MatOp where
  seq : Nat
  instr : Instr
  xs : List Nat
  row : Nat
  woff : Nat
  /-- the stream it belongs to, and the index registers and loop levels at its issue (R264, R271, R272) -/
  sidx : Nat
  x : List Nat
  loops : List MLevel
deriving DecidableEq, Repr, Inhabited

/-- A matrix barrier (R274). `phase` counts completed phases: its parity is PHASE. `next` is the count of the MARRIVE that set SARR,
`waits` the MBLOADs and MSTOREs issued before it, `bound` its place in issue order; `bounds` keeps that place for every turn (R296). -/
structure MBar where
  phase : Nat
  expc : Nat
  arr : Nat
  sarr : Bool
  next : Nat
  waits : List Nat
  bound : Nat
  bounds : List (Nat × Nat)
deriving DecidableEq, Repr, Inhabited

def MBar.reset : MBar := ⟨0, 62, 0, false, 63, [], 0, []⟩

/-- One operand buffer (R265, R267): its bytes and the poisoned ones. -/
structure OpBuf where
  mem : List Cell
  poison : List Nat
deriving DecidableEq, Repr, Inhabited

/-- One B slot (R266): its bytes and the format of the latest image. -/
structure BSlot where
  mem : List Cell
  fmt : Nat
  poison : List Nat
deriving DecidableEq, Repr, Inhabited

/-- What a matrix word that acted before an earlier one had ended replaced: the accumulator entries `lo` to `lo + n` − 1 and their poison, or
a B slot (R271). -/
structure MatUndo where
  seq : Nat
  lo : Nat
  n : Nat
  acc : List (Nat × BitVec 32)
  accPoison : List Nat
  slot : Option (Nat × BSlot)
deriving DecidableEq, Repr, Inhabited

/-- The matrix engine of a block: the MSQ status (R264), x registers, loop levels, storage, barriers and work in flight. -/
structure Engine where
  /-- STATE: 0 idle, 1 running, 2 ended, 3 faulted -/
  state : Nat
  cause : Nat
  woff : Nat
  sidx : Nat
  x : List Nat
  loops : List MLevel
  accn : Nat
  acc : List (Nat × BitVec 32)
  accPoison : List Nat
  slots : List BSlot
  bufs : List OpBuf
  mbars : List MBar
  ops : List MatOp
  /-- what words ahead of an earlier one have replaced, oldest first (R271) -/
  undo : List MatUndo
deriving DecidableEq, Repr, Inhabited

/-- The engine at its block's start (R263, R274). -/
def Engine.start (accn mstr : Nat) : Engine :=
  ⟨if mstr = 0xFFFFFFFF then 0 else 1, 0, 0, mstr, List.replicate 8 0, [], accn, [], [], List.replicate 4 ⟨[], 0, []⟩,
    List.replicate 4 ⟨[], []⟩, List.replicate 16 MBar.reset, [], []⟩

/-- A resident block (R71, R109, R340). `bid` is the model's own key, `linear` the block linear identifier. -/
structure Block where
  bid : Nat
  ctx : Nat
  lid : Nat
  linear : Nat
  core : Nat
  gpb : Nat
  wg : Nat
  win : Nat
  carve : Nat
  scr : Nat
  scratch : List Cell
  scratchPoison : List Nat
  bars : List Barrier
  engine : Option Engine
  /-- charge in units of 1/160 pJ, and its value at the last round's end (R347, R348) -/
  charge : Nat
  chargeRound : Nat
  /-- reservation in nJ (R348) -/
  reserve : Nat
  /-- an idempotent block has reached its commit point (R450) -/
  committed : Bool
  priv : Nat
deriving DecidableEq, Repr, Inhabited

/-- A range-lock table entry (R154). `owner` is the engine operation that registered it, `order` its registration order. -/
structure RltEntry where
  dest : Bool
  engine : Nat
  space : Nat
  ctx : Nat
  base : Nat
  len : Nat
  owner : Nat
  order : Nat
  /-- jobs that share a marcher entry (R299) -/
  share : Nat
deriving DecidableEq, Repr, Inhabited

/-- Where a page leads (R391): a peer chip is given as job × 1024 + chip, since the job names the context there (R402). -/
inductive Target where
  | local (pa : Nat)
  | peer (chip va : Nat)
  | host (addr : Nat)
deriving DecidableEq, Repr, Inhabited

/-- A global write performed at the writer's core and not yet at its home (R137). `seen` are the fibres (gid, lane) that it is
visible to through a read or an acquire (R144). -/
structure PendWrite where
  id : Nat
  ctx : Nat
  gid : Nat
  lane : Nat
  lid : Nat
  va : Nat
  target : Target
  bytes : List Byte
  seen : List (Nat × Nat)
  lids : List Nat
  /-- the place of its word in issue order, and the sectors that this write completes of those which the word writes whole (R454) -/
  word : Nat
  clears : List Nat
deriving DecidableEq, Repr, Inhabited

/-- A line held by an L1 or a Grinder cache: 128 bytes at a 128-byte virtual line (R113, R116). -/
structure CacheLine where
  ctx : Nat
  line : Nat
  bytes : List Byte
  /-- its poisoned sectors, 0 to 3, with their structure codes (R452, R453) -/
  bad : List (Nat × Nat)
  /-- the cache policy of the access that brought it in (R44, R116) -/
  rm : Nat
deriving DecidableEq, Repr, Inhabited

/-- A line of the LLC (R11, R13, R117): its physical address / 128 and the cache policy of the access that brought it in (R116). -/
structure LlcLine where
  line : Nat
  rm : Nat
deriving DecidableEq, Repr, Inhabited

/-- A local 64 KiB frame that a page leads to whose leaf says PIN (R117, R391). -/
structure Pin where
  frame : Nat
  ctx : Nat
  page : Nat
deriving DecidableEq, Repr, Inhabited

/-- How a target chip answers a request to one of its pages (R402): it performs it, ends it as ACCESS_FAULT, or holds it. -/
inductive PeerAnswer where
  | performs | denies | holds
deriving DecidableEq, Repr, Inhabited

/-- What happens on other chips, an outside input of the model (R402, R473): bytes of a peer's memory change, poisoned or not, or a target
begins to answer requests for a 64 KiB page in another way. A peer address is (job × 1024 + chip) × 2^57 + va. -/
inductive PeerNews where
  | bytes (at_ : Nat) (data : List Byte) (bad : Bool)
  | answer (page : Nat) (write : Bool) (a : PeerAnswer)
deriving DecidableEq, Repr, Inhabited

/-- A leaf held by a TLB (R394): the TLB's number (`tlbsOf`), virtual base, size in bits, the entry. -/
structure TlbEntry where
  tlb : Nat
  ctx : Nat
  base : Nat
  bits : Nat
  pte : Word
deriving DecidableEq, Repr, Inhabited

/-- An access of an engine with no job of its own that is parked at a virtual 64 KiB page: the agent, the context, the page, and whether
FAULT_FAIL has ended it (R397, R398). -/
structure Park where
  agent : Nat
  ctx : Nat
  page : Nat
  failed : Bool
deriving DecidableEq, Repr, Inhabited

/-- A ray job (R299 to R316, R323). Values are FP32 patterns unless said otherwise. `id` is the model's own key, which the MARCH in
flight holds for the lane. -/
structure RayJob where
  id : Nat
  slot : Nat
  gid : Nat
  lane : Nat
  ctx : Nat
  lid : Nat
  bid : Nat
  scene : Nat
  org : List Nat
  dir : List Nat
  t0 : Nat
  tmax : Nat
  eps : Nat
  /-- the step cap as a number -/
  cap : Nat
  depth : Option Nat
  /-- the scene descriptor, once read, and whether its range (`named`) and the bytecode's are registered (R158) -/
  desc : Option (List Byte)
  named : Bool
  locked : Bool
  /-- the span in hand and the stack of those still to evaluate, nearest first -/
  ta : Nat
  tb : Nat
  spans : List (Nat × Nat)
  count : Nat
  deep : Bool
  /-- the span's evaluation has started and is counted -/
  begun : Bool
  /-- results of the OPAQUE nodes of this evaluation so far -/
  answers : List Word
  /-- the pending TAG and the address of its reply (R315) -/
  tag : Option (Nat × Nat)
  /-- it waits for room in a stage queue -/
  room : Bool
  /-- the address a page fault has parked it at, and whether its record was failed (R316, R398) -/
  fault : Option Nat
  failed : Bool
  /-- t_hit and CODE, once decided -/
  result : Option (Nat × Nat)
deriving DecidableEq, Repr, Inhabited

/-- A release that an RDRAW precedes: the rank of its scope, and the fibre's group, block, launch and cluster, which say who shares the
scope (R137, R146, R161). -/
structure DrawRel where
  rank : Nat
  gid : Nat
  bid : Nat
  lid : Nat
  clu : Nat
deriving DecidableEq, Repr, Inhabited

/-- A raster batch (R319 to R323). It stays after its last triangle while an RREL may still wait for its quads' fibres (R322). -/
structure RasterJob where
  id : Nat
  ctx : Nat
  gid : Nat
  lane : Nat
  lid : Nat
  bid : Nat
  core : Nat
  descAddr : Nat
  /-- the draw descriptor, once read, and whether its ranges are registered -/
  desc : Option (List Byte)
  locked : Bool
  /-- the next triangle -/
  tri : Nat
  /-- fragment records made and not yet appended, and the queue indices that the first of them have claimed -/
  records : List (List Byte)
  slots : List Nat
  done : Bool
  /-- records not yet dequeued (pipeline, queue, index); fibres that dequeued one, live and quit (group, lane) -/
  quads : List (Nat × Nat × Nat)
  users : List (Nat × Nat)
  past : List (Nat × Nat)
  /-- fibres (group, lane) that the RDRAW precedes, and the releases that such fibres have made since (R161) -/
  before : List (Nat × Nat)
  released : List DrawRel
  fault : Option Nat
  failed : Bool
deriving DecidableEq, Repr, Inhabited

/-- A core: its L1, its writes on the way out, its Grinder and instruction caches, its range-lock table, marcher jobs and
carve-out (R115 to R118, R154, R299). -/
structure Core where
  core : Nat
  carve : Nat
  l1 : List CacheLine
  pend : List PendWrite
  grinder : List CacheLine
  /-- instruction-cache lines present and asked for: (context, address >> 7) -/
  icache : List (Nat × Nat)
  iwant : List (Nat × Nat)
  rlt : List (Option RltEntry)
  rays : List RayJob
  /-- the launch that holds the core reserved (R339) -/
  reserved : Option Nat
deriving DecidableEq, Repr, Inhabited

/-- A segment-table entry (R74). -/
structure Segment where
  start : Nat
  len : Nat
  asm : Nat
  safeord : Nat
  liveix : Nat
deriving DecidableEq, Repr, Inhabited

/-- A safe-point table entry (R408): segment, word offset in the Pamet section, live-map index. -/
structure SafePoint where
  seg : Nat
  woff : Nat
  live : Nat
deriving DecidableEq, Repr, Inhabited

/-- A matrix stream of a code object (R269, R407): first word, as a byte offset from EXEC, and length in words. -/
structure StreamSec where
  off : Nat
  len : Nat
deriving DecidableEq, Repr, Inhabited

/-- A loaded code object (R405 to R412). `slot` and `count` make its handle (R411). -/
structure CodeObj where
  ctx : Nat
  slot : Nat
  count : Nat
  exec : Nat
  objid : Nat
  /-- byte offset of the Pamet code section from EXEC -/
  code : Nat
  segs : List Segment
  safes : List SafePoint
  /-- live maps as 256-bit numbers (R408) -/
  maps : List Nat
  streams : List StreamSec
  entry : Nat
  /-- k registers preloaded at launch (R336) -/
  preload : List (Nat × Word)
  pipeline : Option (List Byte)
  /-- the loader object, whose words the part holds itself (R412) -/
  loader : Bool
  retired : Bool
deriving DecidableEq, Repr, Inhabited

/-- A launch packet's fields (R180) with what the task scheduler adds (R332, R337, R348). -/
structure Launch where
  lid : Nat
  ctx : Nat
  /-- header of its queue and index in it, or none for a task of the scheduler's own (R370) -/
  queue : Option (Nat × Nat)
  flags : Nat
  wg : Nat
  carve : Nat
  prio : Nat
  code : Nat
  entry : Nat
  gx : Nat
  gy : Nat
  gz : Nat
  gpb : Nat
  win : Nat
  stage : Nat
  priv : Nat
  scr : Nat
  accn : Nat
  mstr : Nat
  args : Nat
  evt : Nat
  accepted : Nat
  /-- lowest identifier not yet admitted, and the cores that have held a block of the launch (R152) -/
  next : Nat
  cores : List Nat
  /-- reservation rate ρ in nJ per fibre per round (R348) -/
  rho : Nat
  /-- blocks discarded at a stop that are admitted anew (R450) -/
  again : List Nat
  /-- the pipeline of the launch (R354), and whether it is a dependence counter's task (R370) -/
  pipe : Option Nat
  task : Bool
  /-- its entry in the launch table (R332, R366) -/
  index : Nat
deriving DecidableEq, Repr, Inhabited

/-- A registered queue (R164, R401): its class, cluster, slot array, the next index to take, the indices taken and not ended, and the
launch (header and index of its packet) a host bound it to. `puts` are indices that fibres have claimed and whose packets have not ended: index, launch and block. -/
structure QueueReg where
  ctx : Nat
  header : Nat
  cls : Nat
  clu : Nat
  base : Nat
  log2c : Nat
  next : Nat
  openIdx : List Nat
  bound : Option (Nat × Nat)
  puts : List (Nat × Nat × Nat)
  /-- QUEUE_UNREG waits for the packet in hand -/
  closing : Bool
deriving DecidableEq, Repr, Inhabited

/-- A copy taken in by a CPE (R169, R175). `owner` names its range locks; `own` is the appending fibre's block. -/
structure CopyJob where
  owner : Nat
  header : Nat
  index : Nat
  lid : Option Nat
  own : Option Nat
  packet : List Byte
  /-- the tensor descriptor, once read -/
  tdesc : List Byte
  /-- its size, target and locks are settled -/
  known : Bool
  locked : Bool
  /-- destination size in bytes and sectors delivered -/
  size : Nat
  rsec : Nat
  /-- block the destination lies in, for DSP 1 to 3, and the block that holds the barrier TBA names -/
  bid : Option Nat
  tbid : Option Nat
  /-- the address a page fault has parked it at, and whether its record was failed (R177, R398) -/
  fault : Option Nat
  failed : Bool
deriving DecidableEq, Repr, Inhabited

/-- A copy channel of a context in a cluster (R175). -/
structure Channel where
  ctx : Nat
  cluster : Nat
  chan : Nat
  seq : Nat
  ptr : Word
  running : Option CopyJob
  waiting : List CopyJob
deriving DecidableEq, Repr, Inhabited

/-- A stage of a pipeline (R355, R358, R361): its table entry, the cores allotted to it and its launch. -/
structure Stage where
  index : Nat
  prio : Nat
  minc : Nat
  allot : Nat
  depth : Nat
  cores : List Nat
  lid : Option Nat
  source : Bool
  ended : Bool
deriving DecidableEq, Repr, Inhabited

/-- A stage queue (R356, R357). Records claimed and not published hold back later indices (R372). HEAD and TAIL are kept whole. -/
structure StageQueue where
  index : Nat
  src : Nat
  dst : Nat
  nrec : Nat
  rsz : Nat
  base : Nat
  hwm : Nat
  lwm : Nat
  head : Nat
  tail : Nat
  /-- claimed indices whose records are not yet published -/
  unpublished : List Nat
  /-- records taken and not yet copied -/
  copying : List Nat
  high : Bool
deriving DecidableEq, Repr, Inhabited

/-- A live pipeline (R354): its table's address, its pool, empty until it has claimed its `want` cores (R358), its stages and queues. -/
structure Pipe where
  pid : Nat
  ctx : Nat
  addr : Nat
  code : Nat
  pool : List Nat
  stages : List Stage
  queues : List StageQueue
  want : Nat
deriving DecidableEq, Repr, Inhabited

/-- What a continuation waits for (R375): nothing, an event count, or queue room. -/
inductive ContWait where
  | ready
  | event (name target : Nat)
  | room (queue need : Nat)
deriving DecidableEq, Repr, Inhabited

/-- A continuation in the pool (R365 to R367): its record, what wakes it, and the stream registers of each lane, which the record
holds in a form the part defines. -/
structure Cont where
  ctx : Nat
  record : Nat
  wait : ContWait
  lid : Nat
  streams : List (Nat × List Stream)
deriving DecidableEq, Repr, Inhabited

/-- A dependence counter with its gated task packet (R370, R376). A counter with a `fired` clock is no longer live: its task waits for
an entry of the launch table. `named`: the packet's handle was valid when SPAWN gave it (R419). -/
structure Counter where
  ctx : Nat
  name : Nat
  count : Nat
  packet : List Byte
  fired : Option Nat
  named : Bool
deriving DecidableEq, Repr, Inhabited

/-- An open or held fault record (R396). `slot` is its ring slot once written. -/
structure FaultRec where
  ctx : Nat
  vpage : Nat
  count : Nat
  agent : Nat
  kinds : Nat
  np : Bool
  time : Nat
  slot : Option Nat
  /-- a later record stands in that slot now -/
  reused : Bool
deriving DecidableEq, Repr, Inhabited

/-- A message that leaves the chip on the fabric: responses to peers, requests given back to a sender that must hold them, halt and
resume waves (R402, R471, R473). -/
inductive FabricMsg where
  | request (job src chip va : Nat) (access : Access) (size : Nat) (data : List Byte) (step : Bool)
  | response (tag : Nat) (ok poison : Bool) (data : List Byte)
  | returned (tag : Nat)
  | haltWave (job : Nat) (t : TrigRec) (ports : List Nat)
  | resumeWave (job release : Nat) (ports : List Nat)
deriving DecidableEq, Repr, Inhabited

/-- A context's running state (R445 to R449). -/
inductive RunState where
  | running
  /-- CTX_START has been asked for; its saved blocks are not all back on their cores -/
  | starting
  | stopping
  /-- stopped with its state on chip -/
  | stopped
  /-- stopped and saved: nothing of it is left on chip -/
  | saved
deriving DecidableEq, Repr, Inhabited

/-- What CTX_STOP puts into a save image (R448), kept with the address it was written to and its bytes' size: groups, blocks, channels,
raster batches, and by core ray jobs and range-lock entries. While its context starts, the blocks in it are those still to be admitted. -/
structure SaveImage where
  ctx : Nat
  addr : Nat
  size : Nat
  bytes : List Byte
  groups : List Group
  blocks : List Block
  channels : List Channel
  rasters : List RasterJob
  rays : List (Nat × RayJob)
  locks : List (Nat × RltEntry)
deriving DecidableEq, Repr, Inhabited

/-- A live context (R384 to R386, R431, R432, R350, R351, R470, R478, R479, R482). -/
structure Context where
  ctx : Nat
  root : Nat
  fpol : Nat
  job : Nat
  vec : Nat
  seed : Word
  parena : Nat
  psize : Nat
  cpool : Nat
  ccount : Nat
  ovf : Nat
  ovfsz : Nat
  trbuf : Nat
  run : RunState
  acks : List EngineId
  /-- EACCT in units of 1/160 pJ (R347, R350): the unit in which every charge of R347 is whole -/
  energy : Nat
  ewait : Nat
  /-- EBUDGET.CTX -/
  budget : Nat
  trapbase : Word
  trapframe : Word
  /-- frames in use -/
  frames : List Nat
  events : List (Nat × Nat)
  /-- private-arena regions in use: (block, base, bytes) -/
  regions : List (Nat × Nat × Nat)
  /-- continuation records in use -/
  contUsed : List Nat
  /-- trigger mask (R470), TRACECTL (R478), PMCTL (R482), DBGMBOX (R461); HALTCAUSE (R469) is a view of the context's job -/
  trig : Nat
  tracectl : Word
  pmctl : Word
  dbgmbox : Word
  /-- trace ring THEAD, TTAIL, TLOST are in memory; ACT and the six counters (R483) -/
  act : Nat
  pmc : List Nat
  /-- a record has been dropped and no SYNC written since (R479) -/
  traceGap : Bool
  /-- save area of the CTX_STOP in progress, and the clock at which the stop began (R445, R446) -/
  stopArg : Option (Nat × Nat)
  stopAt : Nat
deriving DecidableEq, Repr, Inhabited

/-- A job's state on this chip (R471). -/
inductive JobState where
  | running | freezing | frozen | releasing
deriving DecidableEq, Repr, Inhabited

/-- A job on this chip (R471, R473, R474): its state, the first trigger and whether it was on this chip, the freeze buffer's responses,
and the release time. -/
structure Job where
  job : Nat
  state : JobState
  record : Option TrigRec
  local_ : Bool
  held : List FabricMsg
  release : Nat
  /-- the waves that it has passed on, each of which it forwards once: a halt wave's GTS and chip + 1, a resume wave's T and 0 -/
  waves : List (Nat × Nat)
deriving DecidableEq, Repr, Inhabited

/-- A breakpoint entry (R466). -/
structure BreakPt where
  ctx : Nat
  handle : Nat
  ordinal : Nat
deriving DecidableEq, Repr, Inhabited

/-- A watchpoint entry (R467). -/
structure WatchPt where
  ctx : Nat
  kinds : Nat
  addr : Nat
  len : Nat
deriving DecidableEq, Repr, Inhabited

/-- A host command under way: its code and arguments (R400). -/
structure HostCmd where
  code : Nat
  a0 : Word
  a1 : Word
  a2 : Word
  a3 : Word
  /-- RESULT once the row's event has performed it -/
  result : Option Nat
deriving DecidableEq, Repr, Inhabited

/-- The host control window's registers (R400, R455, R460). -/
structure HostRegs where
  ready : Bool
  busy : Bool
  overrun : Bool
  therm : Bool
  ctxt : Nat
  frbase : Nat
  frlog : Nat
  frhead : Nat
  frtail : Nat
  cmd : Nat
  arg0 : Word
  arg1 : Word
  arg2 : Word
  arg3 : Word
  result : Word
deriving DecidableEq, Repr, Inhabited

/-- A host error-log entry (R395, R430, R451, R452, R455, R476): its kind, the context, a cause or structure code, a handle, an
address. Kinds, the model's own: 1 no handler, 2 error record dropped, 3 write to a sealed frame, 4 uncorrectable error, 5 link
down, 6 resume wave missed. -/
structure ErrLog where
  kind : Nat
  ctx : Nat
  code : Nat
  name : Nat
  addr : Nat
deriving DecidableEq, Repr, Inhabited

/-- What the issue slot holds between BATCH_ISSUE and the word's own step: a batch, the MSQ of a block, or the debug agent's stuffed
word for a group. -/
inductive Issuer where
  | batch (id : Nat)
  | msq (bid : Nat)
  | stuff (gid : Nat)
deriving DecidableEq, Repr, Inhabited

/-- A DBG_STEP in progress (R477): the group, the first name given after it began, the packets already claimed (queue header and index)
and the MSQs already running (block) when it began, the lanes that have issued a word in it, those that have reached a successor, and the
safe points issued; and the clock in which all of it was first found stopped. -/
structure StepSt where
  ctx : Nat
  gid : Nat
  first : Nat
  puts : List (Nat × Nat)
  msqs : List Nat
  moved : Mask
  arrived : Mask
  passed : List (Mask × Nat × Nat)
  calm : Option Nat
deriving DecidableEq, Repr, Inhabited

/-- A DBG_STUFF in progress (R462): the group, the words to run, and what comes back after the last: the fibres' o and l files with their
results not yet visible, and the group's k registers as they stood, as the stuffed words first saw them, and those not yet visible. -/
structure StuffSt where
  gid : Nat
  count : Nat
  fibres : List Fibre
  k : List Reg
  view : List Reg
  kpend : List KPend
deriving DecidableEq, Repr, Inhabited

/-- A word tagged for profiling (R483): its group, its safe point's ordinal and its offset from it, the level that served it, and its
place among the words in flight. -/
structure ProfTag where
  gid : Nat
  ord : Nat
  off : Nat
  level : Nat
  seq : Nat
  batch : Nat
  woff : Nat
deriving DecidableEq, Repr, Inhabited

/-- The sampling register of a scheduler (R483), kept once one of its words is to be sampled: 4 × core + scheduler, the context whose
SEED it took, the issued words left before the next tag, and the word tagged. -/
structure Prof where
  sched : Nat
  ctx : Nat
  lfsr : Nat
  left : Nat
  tag : Option ProfTag
deriving DecidableEq, Repr, Inhabited

/-- One chip (R10 to R14). -/
structure State where
  /-- events and outside inputs still to happen, in order; the model's own (log entry 1) -/
  agenda : List Instr
  issue : Option Issuer
  /-- the counter of free values; the model's own (log entry 3) -/
  free : Nat
  /-- the counter that names blocks, groups, batches, writes and flights; the model's own -/
  nextId : Nat
  clock : Nat
  /-- the schedulers that have issued a word in this clock: (core, scheduler) -/
  issued : List (Nat × Nat)
  /-- the batches whose next word has been found unable to issue in this clock (R81) -/
  tried : List Nat
  /-- the clusters that have admitted a block in this clock (R337) -/
  admitted : List Nat
  /-- GTS at clock 0 (R456) -/
  gtsBase : Nat
  mem : List Cell
  hostMem : List Cell
  peerMem : List Cell
  /-- poisoned sectors of peer memory: address / 32 (R454) -/
  peerBad : List Nat
  /-- how target chips answer, by page and whether for writing, where a news has said so; the news still to come, each with its clock; the
  requests that a target holds (R402, R473) -/
  peerSays : List (Nat × Bool × PeerAnswer)
  peerNews : List (Nat × PeerNews)
  peerAsked : List FabricMsg
  /-- poisoned 32-byte sectors of local GDDR: address / 32 -/
  poison : List Nat
  /-- the structure code of those that are not GDDR's own: (sector, code) (R452) -/
  poisonCode : List (Nat × Nat)
  /-- sealed 64 KiB frames: address / 65536 (R395) -/
  sealed : List Nat
  tlb : List TlbEntry
  /-- the LLC's lines, the latest used first, and the frames pinned in it (R13, R117) -/
  llc : List LlcLine
  pins : List Pin
  cores : List Core
  groups : List Group
  blocks : List Block
  batches : List Batch
  contexts : List Context
  objects : List CodeObj
  /-- the count that the next object in a code-object slot takes: (slot, count) (R411) -/
  slotCounts : List (Nat × Nat)
  queues : List QueueReg
  channels : List Channel
  launches : List Launch
  rasters : List RasterJob
  pipes : List Pipe
  conts : List Cont
  counters : List Counter
  faults : List FaultRec
  /-- peer requests parked at a page fault here (R397, R402) -/
  heldPeers : List PeerReq
  /-- accesses of the scheduler and of the copy engines to queues and tables that are parked at a page (R397, R398) -/
  parks : List Park
  images : List SaveImage
  jobs : List Job
  host : HostRegs
  hostCmd : Option HostCmd
  msix : List Nat
  errlog : List ErrLog
  secnt : List (Nat × Nat)
  outbox : List FabricMsg
  /-- the bytes of the latest host read or AtomicOp completion; the model's own, for what the host sees -/
  hostData : List Byte
  /-- local halt triggers not yet acted on: context and record (R470, R471) -/
  trigs : List (Nat × TrigRec)
  linksDown : List Nat
  /-- EBUDGET.CHIP in µJ (R351) -/
  chipBudget : Nat
  rounds : Nat
  /-- the clock of the chip's last reset, from which rounds count (R352) -/
  resetClock : Nat
  bps : List (Option BreakPt)
  wps : List (Option WatchPt)
  progBuf : List Word
  /-- the mailbox (R460) -/
  mailbox : List Word
  /-- a DBG_STUFF in progress (R462) -/
  stuff : Option StuffSt
  /-- DBG_STEP in progress (R477) -/
  stepping : Option StepSt
  /-- profiling, by scheduler (R483) -/
  prof : List Prof
  /-- the part has tripped on its temperature (R455) -/
  thermTrip : Bool
  /-- the running firmware's image; empty while none runs (R403, R425) -/
  firmware : List Byte
deriving DecidableEq, Repr, Inhabited

/-- Why a step stops with a fault. -/
inductive Fault where
  /-- A host access through BAR2 names a physical address beyond the local GDDR (R13, R399): no such byte exists. Raised by
  HOST_BAR2_WRITE, HOST_BAR2_READ and HOST_ATOMICOP. Safe: the model stops where nothing is there to reach. -/
  | noSuchFrame (pa : Nat)
deriving DecidableEq, Repr, Inhabited

/-- Why a step is refused. -/
inductive Refusal where
  /-- An opcode-table row that has no meaning yet, by its mnemonic. Safe: the model stops. -/
  | notModelled (mnemonic : String)
deriving DecidableEq, Repr, Inhabited

def Core.reset (n : Nat) : Core := ⟨n, 0, [], [], [], [], [], List.replicate 32 none, [], none⟩

def HostRegs.reset : HostRegs := ⟨false, false, false, false, 0, 0, 0, 0, 0, 0, 0, 0, 0, 0, 0⟩

/-- The number of cores of a chip (R11). -/
def coreCount : Nat := 512

/-- The chip as PERST# holds it (R400, R403): nothing live, READY clear. -/
def State.reset : State :=
  { agenda := [], issue := none, free := 0, nextId := 1, clock := 0, issued := [], tried := [], admitted := [], gtsBase := 0, mem := [], hostMem := [], peerMem := [],
    peerBad := [], peerSays := [], peerNews := [], peerAsked := [], llc := [], pins := [],
    poison := [], poisonCode := [], sealed := [], tlb := [], cores := (List.range coreCount).map Core.reset, groups := [], blocks := [],
    batches := [], contexts := [], objects := [], slotCounts := [], queues := [], channels := [], launches := [], rasters := [],
    pipes := [], conts := [], counters := [], faults := [], heldPeers := [], parks := [], images := [], jobs := [], host := HostRegs.reset,
    hostCmd := none, msix := [], errlog := [], secnt := List.replicate 10 (0, 0), outbox := [], hostData := [], trigs := [], linksDown := [],
    chipBudget := 96000, rounds := 0, resetClock := 0, bps := List.replicate 16 none, wps := List.replicate 8 none,
    progBuf := List.replicate 16 0, mailbox := List.replicate 32 0, stuff := none, stepping := none, prof := [], thermTrip := false, firmware := [] }

end Sys2Proof.Machine
end

