-- ==== Sys2Proof/Machine/Memory.lean ====
section
/-! DEFINITION. Byte memories in canonical form, physical memory with seals and poison, address translation (R390 to R395), and
the path of a fibre's global access through its core's L1 (R116, R137, R140 to R145). -/

namespace Sys2Proof.Machine

open Host (Cell)

/-- The byte at an address; an unlisted address reads zero (log entry 2). -/
def Memory.get : List Cell → Nat → Byte
  | [], _ => 0
  | c :: rest, a => if c.1 = a then c.2 else if a < c.1 then 0 else Memory.get rest a

/-- Write one byte, keeping the canonical form: a byte equal to what an unlisted address reads as is not listed. -/
def Memory.put : List Cell → Nat → Byte → List Cell
  | [], a, b => if b = 0 then [] else [(a, b)]
  | c :: rest, a, b =>
    if c.1 = a then (if b = 0 then rest else (a, b) :: rest)
    else if a < c.1 then (if b = 0 then c :: rest else (a, b) :: c :: rest)
    else c :: Memory.put rest a b

/-- The canonical form: addresses strictly rising, no listed byte zero. `lo` is the least address still allowed. -/
def Memory.wfFrom : Nat → List Cell → Bool
  | _, [] => true
  | lo, c :: rest => decide (lo ≤ c.1) && (c.2 != 0) && Memory.wfFrom (c.1 + 1) rest

def Memory.wf (m : List Cell) : Bool := Memory.wfFrom 0 m

/-- `n` bytes from an address, lowest address first. -/
def Memory.read (m : List Cell) (a : Nat) : Nat → List Byte
  | 0 => []
  | n + 1 => Memory.get m a :: Memory.read m (a + 1) n

/-- Write bytes from an address. -/
def Memory.write (m : List Cell) (a : Nat) : List Byte → List Cell
  | [] => m
  | b :: bs => Memory.write (Memory.put m a b) (a + 1) bs

/-- The little-endian value of `n` bytes (R2). -/
def Memory.readN (m : List Cell) (a n : Nat) : Nat := ofBytes (Memory.read m a n)

/-- Local GDDR in bytes: 192 GiB (R13). -/
def gddrSize : Nat := 192 * 2 ^ 30

/-- A fresh free value of this step; `tag` separates the values one step takes (log entry 3). -/
def State.freeVal (s : State) (tag : Nat) : Word := Config.freeWord (s.free * 2 ^ 32 + tag)

/-- A free choice; taken only between alternatives that differ. -/
def State.choose {α : Type} [DecidableEq α] (s : State) (tag : Nat) (x y : α) : α :=
  if x = y then x else if (s.freeVal tag).getLsbD 0 then x else y

/-! ### Lookups and updates by key -/

def State.group? (s : State) (gid : Nat) : Option Group := lookupBy Group.gid gid s.groups
def State.modGroup (s : State) (gid : Nat) (f : Group → Group) : State := { s with groups := updateBy Group.gid gid f s.groups }
def State.block? (s : State) (bid : Nat) : Option Block := lookupBy Block.bid bid s.blocks
def State.modBlock (s : State) (bid : Nat) (f : Block → Block) : State := { s with blocks := updateBy Block.bid bid f s.blocks }
def State.core? (s : State) (c : Nat) : Option Core := lookupBy Core.core c s.cores
def State.modCore (s : State) (c : Nat) (f : Core → Core) : State := { s with cores := updateBy Core.core c f s.cores }
def State.batch? (s : State) (b : Nat) : Option Batch := lookupBy Batch.id b s.batches
def State.modBatch (s : State) (b : Nat) (f : Batch → Batch) : State := { s with batches := updateBy Batch.id b f s.batches }
def State.context? (s : State) (c : Nat) : Option Context := lookupBy Context.ctx c s.contexts
def State.modContext (s : State) (c : Nat) (f : Context → Context) : State :=
  { s with contexts := updateBy Context.ctx c f s.contexts }
def State.launch? (s : State) (l : Nat) : Option Launch := lookupBy Launch.lid l s.launches
def State.modLaunch (s : State) (l : Nat) (f : Launch → Launch) : State :=
  { s with launches := updateBy Launch.lid l f s.launches }
def Group.modFibre (g : Group) (l : Nat) (f : Fibre → Fibre) : Group :=
  match g.fibres[l]? with
  | some x => { g with fibres := g.fibres.set l (f x) }
  | none => g
def Group.fibre (g : Group) (l : Nat) : Fibre := nth g.fibres l
def State.modFibre (s : State) (gid l : Nat) (f : Fibre → Fibre) : State := s.modGroup gid fun g => g.modFibre l f

/-- A new key of the model's own. -/
def State.fresh (s : State) : Nat × State := (s.nextId, { s with nextId := s.nextId + 1 })

/-- GTS in nanoseconds: 20/17 ns a clock at 850 MHz (R12, R456). -/
def State.gts (s : State) : Nat := s.gtsBase + s.clock * 20 / 17

/-! ### Physical memory -/

/-- The 32-byte sectors that a range of bytes touches (R454). -/
def sectors (a n : Nat) : List Nat := if n = 0 then [] else (List.range ((a + n - 1) / 32 - a / 32 + 1)).map (a / 32 + ·)

/-- Any byte of the range lies in a poisoned sector. -/
def State.poisoned (s : State) (pa n : Nat) : Bool := (sectors pa n).any s.poison.contains

/-- A write clears the poison of every sector it covers whole (R454). -/
def clearPoison (ps : List Nat) (pa n : Nat) : List Nat :=
  ps.filter fun x => !(decide (pa ≤ x * 32) && decide (x * 32 + 32 ≤ pa + n))

/-- Poison the sectors of a range. -/
def addPoison (ps : List Nat) (pa n : Nat) : List Nat := ps ++ (sectors pa n).filter fun x => !ps.contains x

def State.readPa (s : State) (pa n : Nat) : List Byte := Memory.read s.mem pa n
def State.readPaN (s : State) (pa n : Nat) : Nat := Memory.readN s.mem pa n

/-- Write local GDDR; sealed frames are left to the callers' checks (R395). -/
def State.writePa (s : State) (pa : Nat) (bs : List Byte) : State :=
  { s with mem := Memory.write s.mem pa bs, poison := clearPoison s.poison pa bs.length }

/-- A 64 KiB frame is sealed (R395). -/
def State.isSealed (s : State) (pa : Nat) : Bool := s.sealed.contains (pa / 65536)

/-! ### Energy (R347) -/

/-- Charge a context, in units of 1/160 pJ. -/
def chargeCtx (s : State) (ctx u : Nat) : State := s.modContext ctx fun c => { c with energy := c.energy + u }

/-- Charge a context and a block. -/
def charge (s : State) (ctx bid u : Nat) : State :=
  (chargeCtx s ctx u).modBlock bid fun b => { b with charge := b.charge + u, chargeRound := b.chargeRound + u }

/-- Units for one byte served by the L1, scratchpad or Grinder; the LLC; GDDR; a fabric port; the host interface. -/
def uL1 : Nat := 80
def uLLC : Nat := 400
def uGDDR : Nat := 1280
def uFabric : Nat := 1920
def uHost : Nat := 3200

/-! ### Caches -/

/-- Who gives way first by the policy of R44: a line of .ef, a plain one, one of .keep (R116). -/
def evictRank (rm : Nat) : Nat := match rm with | 1 => 0 | 3 => 2 | _ => 1

/-- One element of the lowest rank leaves a list, the last of them; elements of rank 3 and above never do. -/
def dropOne {α : Type} (rank : α → Nat) (ls : List α) : List α :=
  let m := ls.foldl (fun m x => min m (rank x)) 3
  if m = 3 then ls else (ls.reverse.eraseP fun x => rank x == m).reverse

/-- A list of at most `n` elements, as far as elements may leave it. -/
def shrinkTo {α : Type} (rank : α → Nat) (n : Nat) (ls : List α) : List α :=
  (List.range (ls.length - n)).foldl (fun l _ => dropOne rank l) ls

/-- A line enters a cache of `n` lines: older ones make room (R116; log entries 195, 204, 215). -/
def cacheKeep {α : Type} (rank : α → Nat) (n : Nat) (x : α) (ls : List α) : List α := if n = 0 then [] else x :: shrinkTo rank (n - 1) ls

/-- The 128-byte lines a range touches. -/
def lines (va n : Nat) : List Nat := if n = 0 then [] else (List.range ((va + n - 1) / 128 - va / 128 + 1)).map (va / 128 + ·)

/-- Lines of the LLC: eight dies of 512 MiB, 128 bytes a line (R11, R13). -/
def llcSize : Nat := 8 * (512 * 2 ^ 20) / 128

/-- The frame of a physical address is pinned in the LLC (R117). -/
def State.pinned (s : State) (pa : Nat) : Bool := s.pins.any fun p => p.frame == pa / 65536

/-- A line stands in the LLC. One that no access has brought in does not, and one of a pinned frame does once it is in; another may have
given way to lines of its set, which the spec does not lay out: a free choice (R13, R116, R117; log entry 122). -/
def llcHit (s : State) (tag line : Nat) : Bool :=
  (s.llc.any fun l => l.line == line) && (s.pinned (line * 128) || (s.freeVal (2 ^ 24 + tag % 2 ^ 20 * 1024 + line % 1024)).getLsbD 0)

/-- The lines of an access stand in the LLC after it, the latest first, but those that .nla keeps out; older ones make room (R116, R117). -/
def llcFill (s : State) (new : List Nat) (first last rm : Nat) : State :=
  let rank (l : LlcLine) : Nat := if s.pinned (l.line * 128) then 3 else evictRank l.rm
  let rest := s.llc.filter fun l => !(decide (first ≤ l.line) && decide (l.line ≤ last))
  { s with llc := new.map (⟨·, rm⟩) ++ shrinkTo rank (llcSize - new.length) rest }

/-- The bytes of a range that lie in a line. -/
def inLine (pa n line : Nat) : Nat := min (pa + n) (line * 128 + 128) - max pa (line * 128)

/-- An access of `n` bytes at its home, with its charge in units of 1/160 pJ and its LLC misses: the LLC serves local bytes, and GDDR
behind it those of the lines that miss; a peer's travel a fabric port, the host's the host interface (R117, R347, R482). -/
def homeServe (s : State) (tag : Nat) (t : Target) (n rm : Nat) : State × Nat × Nat :=
  match t with
  | .local pa =>
    let miss := (lines pa n).filter fun l => !llcHit s tag l
    (llcFill s (if rm = 4 then (lines pa n).filter fun l => !miss.contains l else lines pa n) (pa / 128) ((pa + n - 1) / 128) rm,
      n * uLLC + sumBy (fun l => inLine pa n l * uGDDR) miss, miss.length)
  | .peer _ _ => (s, n * uFabric, 0)
  | .host _ => (s, n * uHost, 0)

/-- PMCTL's counters: add to every counter of the context whose selector names an event (R482). -/
def countEvent (s : State) (ctx event n : Nat) : State :=
  s.modContext ctx fun c =>
    { c with pmc := (List.range 6).map fun j => nth c.pmc j + if field c.pmctl (6 * j) 6 = event then n else 0 }

/-- An access at its home, charged to a context, with its LLC misses counted (R347, R482). -/
def serveCtx (s : State) (ctx tag : Nat) (t : Target) (n rm : Nat) : State :=
  let r := homeServe s tag t n rm
  countEvent (chargeCtx r.1 ctx r.2.1) ctx 3 r.2.2

/-- The same for an access of a fibre, charged to its block too. -/
def serveBlock (s : State) (ctx bid tag : Nat) (t : Target) (n rm : Nat) : State :=
  let r := homeServe s tag t n rm
  countEvent (charge r.1 ctx bid r.2.1) ctx 3 r.2.2

/-- The reading of page-table entries by a walk, through the LLC (R347, R394). -/
def chargeWalk (s : State) (ctx : Nat) (entries : List Nat) : State :=
  entries.zipIdx.foldl (fun s e => let r := homeServe s (7700 + e.2) (.local e.1) 8 0; chargeCtx r.1 ctx r.2.1) s

/-! ### Translation -/

/-- A walk's end (R392): the leaf's own address, its value and the number of offset bits. -/
inductive WalkRes where
  | notPresent
  | malformed
  | leaf (at_ : Nat) (pte : Word) (bits : Nat)
deriving DecidableEq, Repr, Inhabited

def pteV (e : Word) : Bool := e.getLsbD 0
def pteLeaf (e : Word) : Bool := e.getLsbD 1
def pteR (e : Word) : Bool := e.getLsbD 2
def pteW (e : Word) : Bool := e.getLsbD 3
def pteX (e : Word) : Bool := e.getLsbD 4
def ptePin (e : Word) : Bool := e.getLsbD 5
def pteA (e : Word) : Bool := e.getLsbD 6
def pteD (e : Word) : Bool := e.getLsbD 7
def pteAddr (e : Word) : Nat := field e 8 44 * 256
def pteChip (e : Word) : Nat := field e 52 10
def pteTgt (e : Word) : Nat := field e 62 2

/-- What R392 calls malformed in a leaf, given the page's offset bits. A local frame beyond the GDDR counts as malformed (log
entry 9). -/
def leafMalformed (job : Nat) (e : Word) (bits : Nat) : Bool :=
  let tgt := pteTgt e
  tgt == 3 || (pteX e && pteW e)
  || (tgt != 1 && pteChip e != 0)
  || (tgt != 1 && (pteAddr e % 2 ^ bits != 0))
  || (tgt == 1 && (pteAddr e != 0 || decide (pteChip e > 767) || job == 0xFFFF))
  || (tgt == 0 && decide (pteAddr e + 2 ^ bits > gddrSize))

/-- The walk from a level on. Each level is (shift, index bits, the alignment of the next table, leaf allowed, last level). -/
def walkFrom (s : State) (job va : Nat) : List (Nat × Nat × Nat × Bool) → Nat → WalkRes
  | [], _ => .malformed
  | (sh, ib, al, leafOk) :: rest, table =>
    let at_ := table + 8 * ((va >>> sh) % 2 ^ ib)
    let e := w64 (s.readPaN at_ 8)
    if !pteV e then .notPresent
    else if pteLeaf e then
      if !leafOk || leafMalformed job e sh then .malformed else .leaf at_ e sh
    else if rest.isEmpty then .malformed
    else
      let next := pteAddr e
      if next % al ≠ 0 ∨ next ≥ gddrSize then .malformed else walkFrom s job va rest next

/-- The four levels of R390. -/
def walkLevels : List (Nat × Nat × Nat × Bool) :=
  [(39, 18, 4096, false), (30, 9, 4096, true), (21, 9, 256, true), (16, 5, 256, true)]

def walk (s : State) (c : Context) (va : Nat) : WalkRes := walkFrom s c.job va walkLevels c.root

/-- The entries a walk reads, by address. -/
def walkReads (s : State) (va : Nat) : List (Nat × Nat × Nat × Bool) → Nat → List Nat
  | [], _ => []
  | (sh, ib, _, _) :: rest, table =>
    let at_ := table + 8 * ((va >>> sh) % 2 ^ ib)
    let e := w64 (s.readPaN at_ 8)
    if pteV e && !pteLeaf e then at_ :: walkReads s va rest (pteAddr e) else [at_]

/-- The permission a leaf must give (R392). -/
def permits (e : Word) (acc : Access) : Bool :=
  match acc with
  | .read => pteR e
  | .write | .reduce => pteW e
  | .atomic => pteR e && pteW e
  | .fetch => pteX e

def accWrites : Access → Bool
  | .read | .fetch => false
  | _ => true

/-- Why a translation fails (R392): a fault that is filed, or an access fault. `np` as in R396. A request that its sender or its target
holds has not failed and is tried again (R397, R473). -/
inductive XlErr where
  | page (np : Bool)
  | access
  | held
deriving DecidableEq, Repr, Inhabited

/-- Where a leaf leads. -/
def leafTarget (e : Word) (bits va : Nat) : Target :=
  match pteTgt e with
  | 1 => .peer (pteChip e) va
  | 2 => .host (pteAddr e + va % 2 ^ bits)
  | _ => .local (pteAddr e + va % 2 ^ bits)

/-- Set A, and D for a write, in a leaf (R393); a leaf in a sealed frame stays as it is (R395). -/
def setAD (s : State) (at_ : Nat) (e : Word) (acc : Access) : State :=
  let e' := e ||| 0x40#64 ||| (if accWrites acc then 0x80#64 else 0#64)
  if e' = e ∨ s.isSealed at_ = true then s else { s with mem := Memory.write s.mem at_ (toBytes e'.toNat 8) }

/-- A leaf without its A and D bits. -/
def leafKey (e : Word) : Word := e &&& ~~~0xC0#64

/-! ### Jobs and peers (R402, R471, R473) -/

/-- The key of a context's job: a context of no job, JOB 0xFFFF, is one of its own (R385, R471). -/
def Context.jobKey (c : Context) : Nat := if c.job = 0xFFFF then 0x10000 + c.ctx else c.job

def State.jobState (s : State) (key : Nat) : JobState :=
  match lookupBy Job.job key s.jobs with
  | some j => j.state
  | none => .running

/-- The context's job is running on this chip (R471). -/
def jobRuns (s : State) (ctx : Nat) : Bool :=
  match s.context? ctx with
  | some c => s.jobState c.jobKey == .running
  | none => false

/-- A DBG_STEP of a job is in progress: what runs of the job meanwhile is the step's (R477). -/
def stepsJob (s : State) (key : Nat) : Bool :=
  match s.stepping with
  | some st => (match s.context? st.ctx with | some c => c.jobKey == key | none => false)
  | none => false

/-- The key under which the bytes of a peer page stand in State. -/
def peerKey (job chip va : Nat) : Nat := (job * 1024 + chip) * 2 ^ 57 + va

/-- What a target chip answers to a request, by its own contexts and tables: what the latest news of it says, else a free choice (log
entry 10). -/
def peerAnswer (s : State) (job chip va : Nat) (w : Bool) : PeerAnswer :=
  match s.peerSays.find? fun p => p.1 == peerKey job chip va / 65536 && p.2.1 == w with
  | some p => p.2.2
  | none => if Config.peerAllows s.free chip job va w then .performs else .denies

/-- A request leaves the chip once, and stands asked while its target holds it (R397, R402). -/
def askPeer (s : State) (m : FabricMsg) (holds : Bool) : State :=
  { s with
    outbox := if s.peerAsked.contains m then s.outbox else s.outbox ++ [m]
    peerAsked := if holds then m :: s.peerAsked.filter (· != m) else s.peerAsked.filter (· != m) }

/-- One outside event on another chip (R402). -/
def PeerNews.apply (s : State) : PeerNews → State
  | .bytes at_ data bad =>
    { s with
      peerMem := Memory.write s.peerMem at_ data
      peerBad := if bad then addPoison s.peerBad at_ data.length else clearPoison s.peerBad at_ data.length }
  | .answer page w a => { s with peerSays := (page, w, a) :: s.peerSays.filter fun p => !(p.1 == page && p.2.1 == w) }

/-- The news of other chips that are due. -/
def takeNews (s : State) : State :=
  let due := s.peerNews.filter fun n => decide (n.1 ≤ s.clock)
  due.foldl (fun s n => n.2.apply s) { s with peerNews := s.peerNews.filter fun n => !decide (n.1 ≤ s.clock) }

/-- A leaf with PIN pins the frame it leads to, for its page; one without does so no more (R117). -/
def notePin (s : State) (e : Word) (ctx va pa : Nat) : State :=
  let p : Pin := ⟨pa / 65536, ctx, va / 65536⟩
  if ptePin e = s.pins.contains p then s
  else { s with pins := if ptePin e then p :: s.pins else s.pins.filter fun x => x != p }

/-- Permission, seal and peer checks on a leaf, then its target (R392, R395, R402). A request to a peer carries the job, the chip and the
access with its size and data, and a walk alone asks for no byte; while the job is frozen it stays with its sender, but for a step's (R473,
R477). -/
def leafEnd (s : State) (c : Context) (e : Word) (bits va : Nat) (acc : Access) (n : Nat) (data : List Byte) : State × Except XlErr Target :=
  if !permits e acc then (s, .error .access)
  else
    match leafTarget e bits va with
    | .local pa => if accWrites acc && s.isSealed pa then (s, .error .access) else (notePin s e c.ctx va pa, .ok (.local pa))
    | .peer chip v =>
      let runs := s.jobState c.jobKey == .running
      if !runs && !stepsJob s c.jobKey then (s, .error .held)
      else
        let a := peerAnswer s c.job chip v (accWrites acc)
        let s := if n = 0 then s else askPeer s (.request c.job (Config.chipNumber % 768) chip v acc n data !runs) (a == .holds)
        match a with
        | .performs => (s, .ok (.peer (c.job * 1024 + chip) v))
        | .denies => (s, .error .access)
        | .holds => (s, .error .held)
    | .host a => (s, .ok (.host a))

/-- The TLBs an agent's walks go through, with their sizes (R394): a core's own, numbered as the core, and its cluster's, numbered from
1024; the agents of no core keep leaves under their own numbers. -/
def tlbsOf (agent : Nat) : List (Nat × Nat) := if agent < coreCount then [(agent, 512), (1024 + agent / 8, 8192)] else [(agent, 512)]

/-- A leaf in a TLB of the agent that serves this access (R393, R394). -/
def tlbHit (s : State) (core : Nat) (ctx va : Nat) (acc : Access) : Option TlbEntry :=
  s.tlb.find? fun t =>
    (tlbsOf core).any (fun n => n.1 == t.tlb) && t.ctx == ctx && t.base == va / 2 ^ t.bits && (!accWrites acc || pteD t.pte)

/-- Put a leaf into one TLB, in place of an older one of the same page; the leaf put there longest ago gives way when the TLB is full
(R394; log entry 71). -/
def tlbPut (ctx va bits : Nat) (e : Word) (ts : List TlbEntry) (n : Nat × Nat) : List TlbEntry :=
  let t : TlbEntry := ⟨n.1, ctx, va / 2 ^ bits, bits, e⟩
  if ts.contains t then ts
  else
    let mine := ts.filter fun x => x.tlb == n.1 && !(x.ctx == ctx && x.base == t.base && x.bits == bits)
    t :: mine.take (n.2 - 1) ++ ts.filter fun x => x.tlb != n.1

/-- A walk's leaf goes into the agent's TLBs (R394). -/
def tlbFill (s : State) (core ctx va bits : Nat) (e : Word) : State :=
  { s with tlb := (tlbsOf core).foldl (tlbPut ctx va bits e) s.tlb }

/-- Two answers of a translation agree. -/
def sameXl : Except XlErr Target → Except XlErr Target → Bool
  | .ok a, .ok b => a == b
  | .error a, .error b => a == b
  | _, _ => false

/-- A walk of the tables for an access: its reads are charged, the leaf's A and D are set when the access is allowed, and the leaf enters the
agent's TLBs (R390 to R395). -/
def walkFor (s : State) (core : Nat) (c : Context) (va : Nat) (acc : Access) (n : Nat) (data : List Byte) : State × Except XlErr Target :=
  let w := chargeWalk s c.ctx (walkReads s va walkLevels c.root)
  match walk s c va with
  | .notPresent => (w, .error (.page true))
  | .malformed => (w, .error .access)
  | .leaf at_ e bits =>
    match leafEnd w c e bits va acc n data with
    | (s, .error x) => (s, .error x)
    | (s, .ok t) => (tlbFill (setAD s at_ e acc) core c.ctx va bits (if accWrites acc then e ||| 0xC0#64 else e ||| 0x40#64), .ok t)

/-- Translate one address for an agent on a core, for an access of `n` bytes that carries `data`: a TLB's leaf serves it, and where the
tables have come to say otherwise either may (R393, R394). -/
def translate (s : State) (core : Nat) (c : Context) (va : Nat) (acc : Access) (n : Nat) (data : List Byte) : State × Except XlErr Target :=
  if va ≥ 2 ^ 57 then (s, .error .access)
  else
    match tlbHit s core c.ctx va acc with
    | none => walkFor s core c va acc n data
    | some h =>
      let old := leafEnd s c h.pte h.bits va acc n data
      let new := walkFor s core c va acc n data
      if sameXl old.2 new.2 || (s.freeVal 1).getLsbD 0 then old else new

/-- The bytes at a target, and whether any is poisoned (R454). -/
def readTarget (s : State) (t : Target) (n : Nat) : List Byte × Bool :=
  match t with
  | .local pa => (s.readPa pa n, s.poisoned pa n)
  | .peer chip va =>
    (Memory.read s.peerMem (chip * 2 ^ 57 + va) n, (sectors (chip * 2 ^ 57 + va) n).any s.peerBad.contains)
  | .host a => (Memory.read s.hostMem a n, false)

/-- Perform a write at its home (R137). -/
def writeTarget (s : State) (t : Target) (bs : List Byte) : State :=
  match t with
  | .local pa => s.writePa pa bs
  | .peer chip va =>
    { s with
      peerMem := Memory.write s.peerMem (chip * 2 ^ 57 + va) bs
      peerBad := clearPoison s.peerBad (chip * 2 ^ 57 + va) bs.length }
  | .host a => { s with hostMem := Memory.write s.hostMem a bs }

/-- The target `d` bytes below or above another of the same page. -/
def Target.shift : Target → Int → Target
  | .local pa, d => .local (pa + d).toNat
  | .peer c va, d => .peer c (va + d).toNat
  | .host a, d => .host (a + d).toNat

/-! ### The L1 and the writes on the way out -/

/-- Bytes [a, a + n) and [b, b + m) overlap. -/
def overlap (a n b m : Nat) : Bool := decide (a < b + m) && decide (b < a + n)

/-- Lay the bytes of a write over bytes that start at `base`. -/
def overlay (base : Nat) (bs : List Byte) (va : Nat) (ws : List Byte) : List Byte :=
  (List.range bs.length).map fun i =>
    let a := base + i
    if va ≤ a ∧ a < va + ws.length then nth ws (a - va) else nth bs i

/-- The writes of a context that wait in a core, oldest first. -/
def corePend (s : State) (core ctx : Nat) : List PendWrite :=
  match s.core? core with
  | some c => c.pend.filter fun w => w.ctx == ctx
  | none => []

/-- Scratchpad bytes of a carve-out index (R39). -/
def carveScratch (i : Nat) : Nat := nth [0, 128, 256, 384, 448] i * 1024

/-- The lines of an L1: what the carve-out leaves of the 512 KiB of local memory (R11, R39, R115). -/
def l1Size (carve : Nat) : Nat := (512 * 1024 - carveScratch carve) / 128

/-- The private lines of a group that stand in its L1 (R112). -/
def Group.privLines (g : Group) : List Nat :=
  ((g.privDirty ++ g.privHome.filter fun x => !g.privAway.contains x).map (· / 4)).eraseDups

/-- The private lines in a core's L1. -/
def privHeld (s : State) (core : Nat) : Nat := sumBy (fun g : Group => if g.core == core then g.privLines.length else 0) s.groups

/-- A line of global memory enters an L1, which holds private lines too: which line gives way beyond R116 is not stated, and the one used
longest ago does (log entry 195). -/
def l1Put (s : State) (c : Core) (x : CacheLine) (ls : List CacheLine) : List CacheLine :=
  cacheKeep (fun l => evictRank l.rm) (l1Size c.carve - privHeld s c.core) x ls

/-- The writes that a group's fibres have read or acquired stay in the release set of their launch once the group has ended (R144, R149). -/
def State.keepSeen (s : State) (core gid lid : Nat) : State :=
  s.modCore core fun c => { c with pend := c.pend.map fun w =>
    if (w.seen.any fun x => x.1 == gid) && !w.lids.contains lid then { w with lids := lid :: w.lids } else w }

/-- A waiting write that fibres of a group have read or acquired joins their release sets (R144). -/
def PendWrite.seenBy (w : PendWrite) (gid : Nat) (lanes : List Nat) : PendWrite :=
  { w with seen := ((lanes.map fun l => (gid, l)).filter fun x => !w.seen.contains x) ++ w.seen }

/-- The structure code of the first poisoned sector that a range meets in a line's copy (R452). -/
def CacheLine.badIn (l : CacheLine) (va n : Nat) : Option Nat :=
  (sectors va n).findSome? fun x => if x / 4 = l.line then (l.bad.find? fun p => p.1 == x % 4).map Prod.snd else none

/-- The structure code of poison at a home; GDDR's where none is noted (R452). -/
def targetCode (s : State) (t : Target) : Nat :=
  match t with
  | .local pa => (match s.poisonCode.find? fun p => p.1 == pa / 32 with | some p => p.2 | none => 1)
  | _ => 1

/-- The poisoned sectors of a 128-byte line at its home, with their codes, from the line's own target. -/
def homeBad (s : State) (t : Target) : List (Nat × Nat) :=
  (List.range 4).filterMap fun i =>
    let t := t.shift (32 * i : Nat)
    if (readTarget s t 32).2 then some (i, targetCode s t) else none

/-- A write makes the sectors that it covers whole good again (R454). -/
def CacheLine.written (l : CacheLine) (va : Nat) (bs : List Byte) : CacheLine :=
  { l with
    bytes := overlay (l.line * 128) l.bytes va bs
    bad := l.bad.filter fun x => !(decide (va ≤ l.line * 128 + 32 * x.1) && decide (l.line * 128 + 32 * x.1 + 32 ≤ va + bs.length)) }

/-- A global read of `n` bytes by fibres of a core, one access of theirs together: from its L1's copy while that stands, else from the home, under
the core's own writes that have not yet reached their homes (R137, R140, R142). Under .nl1 the read may still find a copy that stands in
L1, and leaves none; one that meets poison, which performs nothing, leaves L1 as it is but for the copy (R116; log entry 214). -/
def coreRead (s : State) (core ctx gid : Nat) (fibres : List Nat) (va n : Nat) (t : Target) (rm : Nat) : State × List Byte × Bool :=
  let base := va / 128 * 128
  let home := (readTarget s (t.shift (-((va % 128 : Nat) : Int))) 128).1
  let kept : Option CacheLine :=
    match s.core? core with
    | some c => c.l1.find? fun l => l.ctx == ctx && l.line == va / 128
    | none => none
  let ws := corePend s core ctx
  let fresh : CacheLine :=
    ⟨ctx, va / 128, ws.foldl (fun bs w => overlay base bs w.va w.bytes) home,
      (homeBad s (t.shift (-((va % 128 : Nat) : Int)))).filter fun p => !(ws.any fun w => w.clears.contains (base / 32 + p.1)), rm⟩
  let line : CacheLine :=
    match kept with
    | some l => s.choose 2 { l with rm := rm } fresh
    | none => fresh
  let bad := line.badIn va n
  let s' := s.modCore core fun c =>
    let rest := c.l1.filter fun l => !(l.ctx == ctx && l.line == va / 128)
    let pend := c.pend.map fun w => if w.ctx == ctx && overlap w.va w.bytes.length va n then w.seenBy gid fibres else w
    { c with l1 := if rm = 2 && bad.isNone then rest else l1Put s c line rest, pend := pend }
  (s', (line.bytes.drop (va % 128)).take n, bad.isSome)

/-- A global write by fibres of a core, one access of theirs together: performed at the core's L1, on its way to its home (R116, R137).
`word` is the place of its word in issue order, and `clears` the sectors that its word now covers whole (R454). -/
def coreWrite (s : State) (core ctx gid lane : Nat) (fibres : List Nat) (va : Nat) (t : Target) (bs : List Byte) (rm word : Nat) (clears : List Nat) :
    State :=
  let (id, s) := s.fresh
  let lid := ((s.group? gid).map Group.lid).getD 0
  s.modCore core fun c =>
    let l1 :=
      if rm = 2 then c.l1.filter fun l => !(l.ctx == ctx && l.line == va / 128)
      else c.l1.map fun l => if l.ctx == ctx && l.line == va / 128 then
        { l.written va bs with bad := (l.written va bs).bad.filter fun p => !clears.contains (l.line * 4 + p.1) } else l
    { c with l1 := l1, pend := c.pend ++ [⟨id, ctx, gid, lane, lid, va, t, bs, (fibres.filter fun l => l != lane).map fun l => (gid, l), [], word, clears⟩] }

/-- A sector that a store word has written whole is poisoned no more once the last of the word's writes has reached it (R454). -/
def clearSector (core : Nat) (w : PendWrite) (s : State) (x : Nat) : State :=
  let mate (p : PendWrite) : Bool := p.ctx == w.ctx && p.gid == w.gid && p.word == w.word && overlap p.va p.bytes.length (32 * x) 32
  match s.core? core with
  | none => s
  | some c =>
    if c.pend.any mate then
      s.modCore core fun c => { c with pend := c.pend.map fun p => if mate p && !p.clears.contains x then { p with clears := x :: p.clears } else p }
    else
      match w.target.shift ((32 * x : Nat) - (w.va : Int)) with
      | .local pa => { s with poison := clearPoison s.poison pa 32 }
      | .peer ch va => { s with peerBad := clearPoison s.peerBad (ch * 2 ^ 57 + va) 32 }
      | .host _ => s

/-- Perform one waiting write at its home; writes to the same bytes go in order, so an older one that overlaps goes first (R139). -/
def performWrite (s : State) (core : Nat) (w : PendWrite) : State :=
  let w := match (s.core? core).bind fun c => c.pend.find? fun x => x.id == w.id with | some x => x | none => w
  let s := s.modCore core fun c => { c with pend := c.pend.filter fun x => x.id != w.id }
  w.clears.foldl (clearSector core w) (writeTarget s w.target w.bytes)

/-- Perform, oldest first, the waiting writes of a core that a test picks, and every older one that overlaps one of them. -/
def performSome (s : State) (core : Nat) (pick : PendWrite → Bool) : State :=
  match s.core? core with
  | none => s
  | some c =>
    let need (w : PendWrite) : Bool := pick w || c.pend.any fun x => pick x && decide (w.id < x.id) && overlap w.va w.bytes.length x.va x.bytes.length && w.ctx == x.ctx
    (c.pend.filter need).foldl (fun s w => performWrite s core w) s

/-! ### Draws before a fibre (R161) -/

/-- A fibre that a release says of, and another, share a scope (R137, R146). -/
def DrawRel.shares (x : DrawRel) (rank : Nat) (g : Group) : Bool :=
  match rank with
  | 0 => x.gid == g.gid
  | 1 => x.bid == g.bid
  | 2 => x.lid == g.lid && x.clu == g.core / 8
  | _ => true

/-- A fibre releases: what comes to acquire from it follows the draws that it follows. -/
def relDraws (s : State) (gid lane : Nat) (sc : Scope) : State :=
  match s.group? gid with
  | none => s
  | some g =>
    let x : DrawRel := ⟨sc.rank, gid, g.bid, g.lid, g.core / 8⟩
    { s with rasters := s.rasters.map fun r =>
        if r.before.contains (gid, lane) && !r.released.contains x then { r with released := x :: r.released } else r }

/-- A fibre acquires: it follows the draws before every earlier release of which both scopes contain both fibres (R146, R161; log entry 40). -/
def acqDraws (s : State) (gid lane : Nat) (sc : Scope) : State :=
  match s.group? gid with
  | none => s
  | some g =>
    { s with rasters := s.rasters.map fun r =>
        if !r.before.contains (gid, lane) && r.ctx == g.ctx && r.released.any fun x => x.shares x.rank g && x.shares sc.rank g then
          { r with before := (gid, lane) :: r.before }
        else r }

/-- A release of a fibre at a scope: at cluster scope and wider every write of its release set that still waits in its core is
performed at its home; at group and block scope the core's L1 is the point of coherence and nothing is left to do (R137, R144). -/
def releaseAt (s : State) (core ctx gid lane : Nat) (sc : Scope) : State :=
  let s := relDraws s gid lane sc
  if sc.rank < 2 then s
  else performSome s core fun w => w.ctx == ctx && ((w.gid == gid && w.lane == lane) || w.seen.contains (gid, lane))

/-- An acquire of a fibre at a scope: at cluster scope and wider its core's L1 copies of the context's global lines are discarded
(R145); the writes then visible to it join its later release sets (R144). -/
def acquireAt (s : State) (core ctx gid lane : Nat) (sc : Scope) : State :=
  (acqDraws s gid lane sc).modCore core fun c =>
    { c with
      l1 := if sc.rank < 2 then c.l1 else c.l1.filter fun l => l.ctx != ctx
      pend := c.pend.map fun w => if w.ctx == ctx then w.seenBy gid [lane] else w }

/-- A read or write that goes straight to the home, by an engine, the Grinder or an atomic: the core's waiting writes to those
bytes go first (R141, R143), and its L1 copy of the line is dropped. -/
def settleAt (s : State) (core ctx va n : Nat) : State :=
  let s := performSome s core fun w => w.ctx == ctx && overlap w.va w.bytes.length va n
  s.modCore core fun c => { c with l1 := c.l1.filter fun l => !(l.ctx == ctx && l.line == va / 128) }

end Sys2Proof.Machine
end

