-- ==== Sys2Proof/Machine/Port.lean ====
section
/-! DEFINITION. Accesses of the engines to global memory, and the read-only path through the Grinder cache (R113, R150 to R152,
R387, R397, R402). An access may cross pages: it is taken apart at every 64 KiB boundary. -/

namespace Sys2Proof.Machine

/-- Why an engine's access does not perform: a translation fault (filed and parked), an access fault, or poisoned data. -/
inductive PortErr where
  | page (va : Nat) (np : Bool)
  | access (va : Nat)
  | poison (va : Nat)
  /-- a peer request that its sender or its target holds: it is tried again (R397, R473) -/
  | held (va : Nat)
deriving DecidableEq, Repr, Inhabited

def PortErr.cause : PortErr → Cause
  | .page _ _ | .held _ => .pageFault
  | .access _ => .accessFault
  | .poison _ => .poison

def PortErr.addr : PortErr → Nat
  | .page a _ => a
  | .access a => a
  | .poison a => a
  | .held a => a

/-- A range of bytes taken apart at 64 KiB boundaries, as (address, length) pairs. -/
def pageParts (va n : Nat) : List (Nat × Nat) :=
  if n = 0 then []
  else
    (List.range ((va + n - 1) / 65536 - va / 65536 + 1)).map fun i =>
      let lo := max va ((va / 65536 + i) * 65536)
      let hi := min (va + n) ((va / 65536 + i + 1) * 65536)
      (lo, hi - lo)

/-- A failed translation as a port answers it. -/
def XlErr.port (va : Nat) : XlErr → PortErr
  | .page np => .page va np
  | .access => .access va
  | .held => .held va

/-- Translate every page of a range, whose writes carry `data` from address `base` on; the first failure ends it. -/
def translateAll (s : State) (core : Nat) (c : Context) (acc : Access) (base : Nat) (data : List Byte) :
    List (Nat × Nat) → State × Except PortErr (List (Nat × Nat × Target))
  | [] => (s, .ok [])
  | (va, n) :: rest =>
    match translate s core c va acc n ((data.drop (va - base)).take n) with
    | (s, .error e) => (s, .error (e.port va))
    | (s, .ok t) =>
      match translateAll s core c acc base data rest with
      | (s, .error e) => (s, .error e)
      | (s, .ok ts) => (s, .ok ((va, n, t) :: ts))

/-- The translated parts of a range of a live context. -/
def portParts (s : State) (core ctx va n : Nat) (acc : Access) (data : List Byte) : State × Except PortErr (List (Nat × Nat × Target)) :=
  match s.context? ctx with
  | none => (s, .error (.access va))
  | some c => translateAll s core c acc va data (pageParts va n)

/-- The bytes of translated parts at their homes, and whether any is poisoned. -/
def homeBytes (s : State) (parts : List (Nat × Nat × Target)) : List Byte × Bool :=
  parts.foldl (fun r p =>
    let x := readTarget s p.2.2 p.2.1
    (r.1 ++ x.1, r.2 || x.2)) ([], false)

/-- The charge of translated parts at their homes, and their LLC misses (R347, R482). -/
def chargeHome (s : State) (ctx tag rm : Nat) (parts : List (Nat × Nat × Target)) : State :=
  parts.zipIdx.foldl (fun s p => serveCtx s ctx (tag * 1024 + p.2) p.1.2.2 p.1.2.1 rm) s

/-- What a context was charged between two states, by work of a fibre, is charged to the fibre's block too (R347). -/
def shareBlock (s0 : State) (ctx bid : Nat) (s : State) : State :=
  let e (s : State) : Nat := ((s.context? ctx).getD default).energy
  s.modBlock bid fun b => { b with charge := b.charge + (e s - e s0), chargeRound := b.chargeRound + (e s - e s0) }

/-- An engine's read: what stands at the homes, or that under the core's own writes that have not yet reached them, which then go to
their homes, so that no later read of an engine finds an older value (R137, R139, R140). -/
def engineRead (s : State) (core ctx va n : Nat) : State × Except PortErr (List Byte) :=
  match portParts s core ctx va n .read [] with
  | (s, .error e) => (s, .error e)
  | (s, .ok parts) =>
    let home := homeBytes s parts
    if home.2 then (s, .error (.poison va))
    else
      let s := chargeHome s ctx 7600 0 parts
      let near (w : PendWrite) : Bool := w.ctx == ctx && overlap w.va w.bytes.length va n
      let s' := performSome s core near
      let new := (homeBytes s' parts).1
      if s.choose 4 home.1 new = home.1 then (s, .ok home.1) else (s', .ok new)

/-- Engine reads as a number, little-endian. -/
def engineReadN (s : State) (core ctx va n : Nat) : State × Except PortErr Nat :=
  match engineRead s core ctx va n with
  | (s, .error e) => (s, .error e)
  | (s, .ok bs) => (s, .ok (ofBytes bs))

/-- An engine's write, performed at the homes: all of it or, where a page fails, nothing. -/
def engineWrite (s : State) (core ctx va : Nat) (bs : List Byte) : State × Except PortErr Unit :=
  match portParts s core ctx va bs.length .write bs with
  | (s, .error e) => (s, .error e)
  | (s, .ok parts) =>
    let s := chargeHome (performSome s core fun w => w.ctx == ctx && overlap w.va w.bytes.length va bs.length) ctx 7610 0 parts
    let s := parts.foldl (fun s p => writeTarget s p.2.2 ((bs.drop (p.1 - va)).take p.2.1)) s
    (s.modCore core fun c => { c with l1 := c.l1.filter fun l => !(l.ctx == ctx && overlap (l.line * 128) 128 va bs.length) }, .ok ())

/-- One sector as the Grinder returns it, with the code of its poison: a kept line's, or the home's (R150, R452). -/
def grinderSector (s : State) (kept : Option CacheLine) (line sec : Nat) (home : List Byte) (bad : List (Nat × Nat)) : List Byte × Option Nat :=
  let code (ps : List (Nat × Nat)) : Option Nat := (ps.find? fun p => p.1 == sec).map Prod.snd
  let f := ((home.drop (32 * sec)).take 32, code bad)
  match kept with
  | some l => s.choose (5000 + line % 4096 * 4 + sec) ((l.bytes.drop (32 * sec)).take 32, code l.bad) f
  | none => f

/-- Lines of the Grinder's 128 KiB (R11, R113). -/
def grinderSize : Nat := 128 * 1024 / 128

/-- One 128-byte line through the Grinder cache, from the home's bytes and poison; .nl1 leaves no copy. In a full cache the line used
longest ago gives way among those that R116 puts first, which is the model's choice: R113 gives no order (R130; log entry 215). -/
def grinderLine (s : State) (core ctx line : Nat) (home : List Byte) (bad : List (Nat × Nat)) (rm : Nat) : State × CacheLine :=
  let kept : Option CacheLine :=
    match s.core? core with
    | some c => if rm = 2 then none else c.grinder.find? fun l => l.ctx == ctx && l.line == line
    | none => none
  let secs := (List.range 4).map fun i => (i, grinderSector s kept line i home bad)
  let x : CacheLine := ⟨ctx, line, secs.flatMap fun p => p.2.1, secs.filterMap fun p => p.2.2.map fun c => (p.1, c), rm⟩
  let s := s.modCore core fun c =>
    { c with grinder := if rm = 2 then c.grinder
        else cacheKeep (fun l => evictRank l.rm) grinderSize x (c.grinder.filter fun l => !(l.ctx == ctx && l.line == line)) }
  (s, x)

/-- The charge of a Grinder read: its bytes from the cache, and what the cache has to fetch, whole lines, or the bytes alone where no copy
is kept (R347). -/
def chargeGrinder (s : State) (core ctx va n rm : Nat) (parts : List (Nat × Nat × Target)) : State :=
  let kept (line : Nat) : Bool := match s.core? core with
    | some c => c.grinder.any fun l => l.ctx == ctx && l.line == line
    | none => false
  let s := chargeCtx s ctx (n * uL1)
  if rm = 2 then chargeHome s ctx 7620 rm parts
  else chargeHome s ctx 7620 rm (((lines va n).filter fun l => !kept l).filterMap fun l =>
    (parts.find? fun p => decide (l * 128 / 65536 = p.1 / 65536)).map fun p => (l * 128, 128, p.2.2.shift ((l * 128 : Nat) - (p.1 : Int))))

/-- A read through the Grinder: translated as any read, then taken line by line from the cache or the home; one that meets poison
performs nothing (R113, R130, R150, R454). -/
def grinderRead (s : State) (core ctx va n rm : Nat) : State × Except PortErr (List Byte) :=
  match portParts s core ctx va n .read [] with
  | (s, .error e) => (s, .error e)
  | (s, .ok parts) =>
    let r := (lines va n).foldl (fun (r : State × List CacheLine) line =>
      let home : List Byte × List (Nat × Nat) :=
        match parts.find? fun p => decide (line * 128 / 65536 = p.1 / 65536) with
        | some p => let t := p.2.2.shift ((line * 128 : Nat) - (p.1 : Int)); ((readTarget r.1 t 128).1, homeBad r.1 t)
        | none => ([], [])
      let x := grinderLine r.1 core ctx line home.1 home.2 rm
      (x.1, r.2 ++ [x.2])) (chargeGrinder s core ctx va n rm parts, [])
    if r.2.any fun l => (l.badIn va n).isSome then (r.1, .error (.poison va))
    else (r.1, .ok (((r.2.flatMap CacheLine.bytes).drop (va % 128)).take n))

/-- FENCERO: every Grinder line of the context on the core is dropped (R127). -/
def grinderDrop (s : State) (core ctx : Nat) : State :=
  s.modCore core fun c => { c with grinder := c.grinder.filter fun l => l.ctx != ctx }

/-! ### Faults (R396) -/

/-- The ring takes records: a usable base and FRLOG (R396). -/
def ringUsable (h : HostRegs) : Bool := h.frbase != 0 && decide (4 ≤ h.frlog) && decide (h.frlog ≤ 16)

def ringFull (h : HostRegs) : Bool := (h.frtail + 1) % 2 ^ h.frlog == h.frhead % 2 ^ h.frlog

/-- A fault record's 32 bytes (R396). -/
def faultBytes (r : FaultRec) (slot : Nat) : List Byte :=
  toBytes (1 + r.vpage * 65536 + slot % 65536 * 2 ^ 64 + r.ctx * 2 ^ 124 + (if r.np then 2 ^ 136 else 0) + r.kinds * 2 ^ 137
    + r.agent * 2 ^ 140 + r.count * 2 ^ 160 + r.time * 2 ^ 192) 32

/-- Write a record into its ring slot; a write that reaches a sealed frame is never performed (R395). -/
def writeFault (s : State) (r : FaultRec) (slot : Nat) : State :=
  let pa := s.host.frbase + 32 * slot
  if s.isSealed pa then s else s.writePa pa (faultBytes r slot)

def sameFault (ctx va : Nat) (r : FaultRec) : Bool := r.ctx == ctx && r.vpage == va / 65536

/-- The oldest held record goes to the ring when it has a free slot (R396). -/
def flushFault (s : State) : State :=
  match s.faults.find? fun r => r.slot.isNone with
  | none => s
  | some r =>
    if ringUsable s.host && !ringFull s.host then
      let slot := s.host.frtail % 2 ^ s.host.frlog
      let s := writeFault s { r with slot := some slot } slot
      { s with
        faults := s.faults.map fun x =>
          if sameFault r.ctx (r.vpage * 65536) x then { x with slot := some slot }
          else if x.slot == some slot then { x with reused := true } else x
        host := { s.host with frtail := (slot + 1) % 2 ^ s.host.frlog }
        msix := s.msix ++ [0] }
    else s

/-- KIND of an access (R396): bit 0 read, 1 write, 2 atomic. -/
def kindOf : Access → Nat
  | .read | .fetch => 1
  | .write | .reduce => 2
  | .atomic => 4

/-- The trigger record of a context as a whole, with no place (R474). -/
def plainTrig (s : State) (cause : Nat) : TrigRec := ⟨Config.chipNumber % 768, cause, s.gts, 0, 0, 0, 0⟩

/-- A local trigger that the context's mask selects starts a halt wave, while its job runs (R470). -/
def trigger (s : State) (ctx bit : Nat) (t : TrigRec) : State :=
  match s.context? ctx with
  | some c => if bitN c.trig bit && jobRuns s ctx then { s with trigs := s.trigs ++ [(ctx, t)] } else s
  | none => s

/-- File a translation fault: merge into the page's open record, which is written again where it still has its ring slot, or open one, which
may trigger with `t` (R396, R470). -/
def fileFaultAt (t : TrigRec) (s : State) (ctx va agent : Nat) (acc : Access) (np : Bool) : State :=
  match s.faults.find? (sameFault ctx va) with
  | some r =>
    let r' := { r with count := min (r.count + 1) 0xFFFFFFFF, kinds := r.kinds ||| kindOf acc }
    let s := { s with faults := s.faults.map fun x => if sameFault ctx va x then r' else x }
    match r'.slot with
    | some slot => if r'.reused then s else writeFault s r' slot
    | none => s
  | none =>
    let s := flushFault { s with faults := s.faults ++ [⟨ctx, va / 65536, 1, agent, kindOf acc, np, s.gts, none, false⟩] }
    let slot := match s.faults.find? (sameFault ctx va) with | some r => r.slot.getD 0 | none => 0
    trigger s ctx 4 { t with word3 := w64 (slot % 2 ^ 16) }

/-- The same for an agent whose access no group's word stands for. -/
def fileFault (s : State) (ctx va agent : Nat) (acc : Access) (np : Bool) : State := fileFaultAt (plainTrig s 9) s ctx va agent acc np

/-- The record of a page has a ring slot (R397). -/
def faultSlot (s : State) (ctx va : Nat) : Option Nat :=
  match s.faults.find? (sameFault ctx va) with
  | some r => r.slot
  | none => none

end Sys2Proof.Machine
end

