-- ==== Sys2Proof/Machine/Brick.lean ====
section
/-! DEFINITION. Brick maps (R312) and FETCH3's trilinear sample with its gradient (R131). -/

namespace Sys2Proof.Machine

/-- How a unit reads global memory: an address and a size in bytes. -/
abbrev Rd := State → Nat → Nat → State × Except PortErr (List Byte)

/-- Field `n` bytes at offset `o` of a record, little-endian. -/
def byteField (bs : List Byte) (o n : Nat) : Nat := ofBytes ((bs.drop o).take n)

/-- A brick-map descriptor (R312). -/
structure BrickMap where
  table : Nat
  log2s : Nat
  fmt : Nat
  org : List Nat
  ivox : Nat
  ext : List Nat
  bg : Nat
  glo : Nat
  ghi : Nat
deriving DecidableEq, Repr, Inhabited

def brickMapOf (bs : List Byte) : BrickMap :=
  { table := byteField bs 0 8, log2s := byteField bs 8 1, fmt := byteField bs 9 1,
    org := [byteField bs 16 4, byteField bs 20 4, byteField bs 24 4], ivox := byteField bs 28 4,
    ext := [byteField bs 32 4, byteField bs 36 4, byteField bs 40 4], bg := byteField bs 44 4,
    glo := byteField bs 48 4, ghi := byteField bs 52 4 }

/-- A finite FP32 value above zero. -/
def posF32 (p : Nat) : Bool :=
  match fp32.decode p with
  | .fin n m _ => !n && m != 0
  | _ => false

/-- A map that R316 makes a job invalid for. -/
def BrickMap.bad (m : BrickMap) : Bool := decide (m.fmt > 1) || decide (m.log2s > 24) || !posF32 m.ivox

/-- The hash of a super-brick (R312). -/
def brickHash (sx sy sz : Nat) : Nat := ((sx * 0x9E3779B1) ^^^ (sy * 0x85EBCA77) ^^^ (sz * 0xC2B2AE3D)) % 2 ^ 32

/-- The level-2 table of a super-brick, by probing level-1 slots (R312). `fuel` counts slots still to look at. -/
def brickProbe (rd : Rd) (m : BrickMap) (key : Nat) : Nat → Nat → State → State × Except PortErr (Option Nat)
  | 0, _, s => (s, .ok none)
  | fuel + 1, slot, s =>
    match rd s (m.table + 16 * slot) 16 with
    | (s, .error e) => (s, .error e)
    | (s, .ok bs) =>
      let k := byteField bs 0 8
      if !bitN k 63 then (s, .ok none)
      else if k % 2 ^ 63 = key then (s, .ok (some (byteField bs 8 8)))
      else brickProbe rd m key fuel ((slot + 1) % 2 ^ m.log2s) s

/-- The address of the brick that holds a voxel inside the extent; none for an absent one (R312). -/
def brickAt (rd : Rd) (m : BrickMap) (i j k : Nat) (s : State) : State × Except PortErr (Option Nat) :=
  let sx := i / 64
  let sy := j / 64
  let sz := k / 64
  let h := brickHash sx sy sz
  let start := if m.log2s = 0 then 0 else h / 2 ^ (32 - m.log2s)
  match brickProbe rd m (sx + sy * 2 ^ 21 + sz * 2 ^ 42) (2 ^ m.log2s) start s with
  | (s, .error e) => (s, .error e)
  | (s, .ok none) => (s, .ok none)
  | (s, .ok (some tab)) =>
    match rd s (tab + 8 * ((i / 8) % 8 + 8 * ((j / 8) % 8) + 64 * ((k / 8) % 8))) 8 with
    | (s, .error e) => (s, .error e)
    | (s, .ok bs) => let a := byteField bs 0 8; (s, .ok (if a = 0 then none else some a))

/-- An FP32 pattern with every NaN canonical. -/
def canon32 (p : Nat) : Nat := if (fp32.decode p).isNaN then fp32.canonNaN else p

/-- A voxel of a brick, as an FP32 pattern (R312). A FETCH3 on a map that R316 calls malformed goes on, with any FMT but 0 read as b8p4se:
R131 gives it no fate (DESIGN CHOICE, log entry 210). -/
def voxelIn (rd : Rd) (m : BrickMap) (brick i j k : Nat) (s : State) : State × Except PortErr Nat :=
  let n := i % 8 + 8 * (j % 8) + 64 * (k % 8)
  if m.fmt = 0 then
    match rd s (brick + 16 + 2 * n) 2 with
    | (s, .error e) => (s, .error e)
    | (s, .ok bs) => (s, .ok (fp32.encode (fp32.convert ctxRNE (fp16.decode (ofBytes bs))).1))
  else
    match rd s (brick + 8) 4 with
    | (s, .error e) => (s, .error e)
    | (s, .ok sc) =>
      match rd s (brick + 16 + n) 1 with
      | (s, .error e) => (s, .error e)
      | (s, .ok bs) =>
        let v := (fmtOfX8 8).decode (ofBytes bs)
        (s, .ok (fp32.encode (fvMul fp32 ctxRNE v (fp32.decode (ofBytes sc))).1))

/-- voxel(i, j, k) of R312. -/
def voxel (rd : Rd) (m : BrickMap) (i j k : Int) (s : State) : State × Except PortErr Nat :=
  let inside (x : Int) (e : Nat) : Bool := decide (0 ≤ x) && decide (x < (e : Int))
  if !(inside i (nth m.ext 0) && inside j (nth m.ext 1) && inside k (nth m.ext 2)) then (s, .ok (canon32 m.bg))
  else
    match brickAt rd m i.toNat j.toNat k.toNat s with
    | (s, .error e) => (s, .error e)
    | (s, .ok none) => (s, .ok (canon32 m.bg))
    | (s, .ok (some b)) => voxelIn rd m b i.toNat j.toNat k.toNat s

/-- Run a read for every index of a list, in order. -/
def readEach {α β : Type} (f : α → State → State × Except PortErr β) : List α → State → State × Except PortErr (List β)
  | [], s => (s, .ok [])
  | x :: xs, s =>
    match f x s with
    | (s, .error e) => (s, .error e)
    | (s, .ok y) =>
      match readEach f xs s with
      | (s, .error e) => (s, .error e)
      | (s, .ok ys) => (s, .ok (y :: ys))

/-- FP32 arithmetic by RNE on patterns, NaN results canonical. -/
def f32Sub (a b : Nat) : Nat := fp32.encode (fvAdd fp32 ctxRNE (fp32.decode a) (fp32.decode b).negate).1

/-- `round_rm(p + f × round_rm(q − p))` with `f` exact (R131). -/
def f32Lerp (p q : Nat) (f : FV) : Nat :=
  fp32.encode (fvFma fp32 ctxRNE f (fp32.decode (f32Sub q p)) (fp32.decode p)).1

/-- The integer part and the exact fraction of one coordinate (R131). -/
def splitCoord (p : Nat) : Int × FV :=
  match fp32.decode p with
  | .inf n => (if n then -(2 ^ 31) else 2 ^ 31, .fin false 0 0)
  | v => (v.dy.floor, .fin false v.dy.fract.m.natAbs v.dy.fract.e)

/-- The value and gradient from the eight corners, c[a][b][d] at 4a + 2b + d (R131). -/
def trilinear (c : List Nat) (fx fy fz : FV) : List Nat :=
  let g (a b d : Nat) : Nat := nth c (4 * a + 2 * b + d)
  let value := f32Lerp (f32Lerp (f32Lerp (g 0 0 0) (g 1 0 0) fx) (f32Lerp (g 0 1 0) (g 1 1 0) fx) fy)
    (f32Lerp (f32Lerp (g 0 0 1) (g 1 0 1) fx) (f32Lerp (g 0 1 1) (g 1 1 1) fx) fy) fz
  let dx (b d : Nat) : Nat := f32Sub (g 1 b d) (g 0 b d)
  let dy (a d : Nat) : Nat := f32Sub (g a 1 d) (g a 0 d)
  let dz (a b : Nat) : Nat := f32Sub (g a b 1) (g a b 0)
  [value,
   f32Lerp (f32Lerp (dx 0 0) (dx 1 0) fy) (f32Lerp (dx 0 1) (dx 1 1) fy) fz,
   f32Lerp (f32Lerp (dy 0 0) (dy 1 0) fx) (f32Lerp (dy 0 1) (dy 1 1) fx) fz,
   f32Lerp (f32Lerp (dz 0 0) (dz 1 0) fx) (f32Lerp (dz 0 1) (dz 1 1) fx) fy]

/-- The eight corners, d lowest. -/
def corners : List (Int × Int × Int) :=
  [(0, 0, 0), (0, 0, 1), (0, 1, 0), (0, 1, 1), (1, 0, 0), (1, 0, 1), (1, 1, 0), (1, 1, 1)]

/-- FETCH3 (R131): value and gradient of the map at a point, as DST and DST + 1. -/
def fetch3Words (rd : Rd) (map x y z : Nat) (s : State) : State × Except PortErr (List Word) :=
  let two (l : List Nat) : List Word := [pack 32 [nth l 0, nth l 1], pack 32 [nth l 2, nth l 3]]
  if (fp32.decode x).isNaN || (fp32.decode y).isNaN || (fp32.decode z).isNaN then
    (s, .ok (two [fp32.canonNaN, fp32.canonNaN, fp32.canonNaN, fp32.canonNaN]))
  else
    match rd s map 64 with
    | (s, .error e) => (s, .error e)
    | (s, .ok bs) =>
      let m := brickMapOf bs
      let cx := splitCoord x
      let cy := splitCoord y
      let cz := splitCoord z
      match readEach (fun (o : Int × Int × Int) s => voxel rd m (cx.1 + o.1) (cy.1 + o.2.1) (cz.1 + o.2.2) s) corners s with
      | (s, .error e) => (s, .error e)
      | (s, .ok c) => (s, .ok (two (trilinear c cx.2 cy.2 cz.2)))

end Sys2Proof.Machine
end

