-- ==== Sys2Proof/Machine/Operands.lean ====
section
/-! DEFINITION. Operands: the values of constants (R49, R50), of registers at a word (R18 to R31, R83 to R86), guards and lanes of
a batch (R23, R76 to R79, R89), and the writing of results. -/

namespace Sys2Proof.Machine

/-! ### Constants -/

/-- One element pattern in every sub-element of a type (R25, R49). -/
def fillTy (t : Ty) (p : Nat) : Word := pack t.width (List.replicate t.count p)

/-- The floating constants 0x1E0 to 0x1F5 as values (R50). Those that are not dyadic stand as 200 bits and a sticky last bit, which
every rounding of the part treats as the exact value. -/
def floatConsts : List Dy :=
  [⟨-1, 0⟩,
   ⟨-1, -1⟩,
   ⟨-2, 0⟩,
   ⟨3, -1⟩,
   ⟨3, 0⟩,
   ⟨3, -2⟩,
   ⟨1071292029505993517027974728227441735014801995855195223534251, -201⟩,
   ⟨321387608851798055108392418468232520504440598756558567060275, -201⟩,
   ⟨10096689509235987743946820282484873672429286842977325943070737, -201⟩,
   ⟨5048344754617993871973410141242436836214643421488662971535369, -201⟩,
   ⟨2524172377308996935986705070621218418107321710744331485767685, -201⟩,
   ⟨20193379018471975487893640564969747344858573685954651886141473, -201⟩,
   ⟨1023008531944964742713634320094839494465182657242203849507327, -201⟩,
   ⟨511504265972482371356817160047419747232591328621101924753663, -201⟩,
   ⟨8736220970337460488741393287122358959374519834489617456082255, -201⟩,
   ⟨2227689149425263439092512302195094612666544587098181501475605, -201⟩,
   ⟨4636643094936509730346774942367980342974217517846598217458221, -201⟩,
   ⟨10676265271934583048462883678181006595991149465676359425225869, -201⟩,
   ⟨967473104991140529225915770132072035628153626989167312587147, -201⟩,
   ⟨4545107152168721832283315805899294631959163952086468821857205, -201⟩,
   ⟨2272553576084360916141657902949647315979581976043234410928603, -201⟩,
   ⟨5566596674543872778483899951475121474370772000591153489457551, -201⟩]

/-- 1/255 (R50). -/
def const255 : Dy := ⟨12603435641246982553270290920322843941350611715943473218051, -201⟩

/-- The value of a floating constant code that is a number of its own (R50). -/
def floatConst (code : Nat) : Dy :=
  if code < 0x1E0 then Dy.pow2 ((code : Int) - 0x1C0 - 16)
  else if code < 0x1F6 then nth floatConsts (code - 0x1E0)
  else if code = 0x1FD then const255
  else if code = 0x1FE then Dy.ofInt 255
  else Dy.zero

/-- A number as a datum with its sign. -/
def fvOfDy (x : Dy) : FV := .fin (decide (x.m < 0)) x.m.natAbs x.e

/-- The element pattern of a floating constant in a format (R50). -/
def constPat (f : Fmt) (code : Nat) : Nat :=
  match code with
  | 0x1F6 => f.encode (f.convert ctxRNE (.inf false)).1
  | 0x1F7 => f.encode (f.convert ctxRNE (.inf true)).1
  | 0x1F8 => f.canonNaN
  | 0x1F9 => f.maxPat
  | 0x1FA => 2 ^ f.t
  | 0x1FB => 1
  | 0x1FC => f.encode (.fin true 0 0)
  | c => f.encode (f.convert ctxRNE (fvOfDy (floatConst c))).1

/-- A point as an interval value (R49, R50). -/
def ivPoint (x : Dy) : Word := ivWrite (.mk (.fin x) (.fin x))

/-- A floating constant under iv32 (R50). -/
def ivConst (code : Nat) : Word :=
  match code with
  | 0x1F6 => ivWrite (.mk .pinf .pinf)
  | 0x1F7 => ivWrite (.mk .ninf .ninf)
  | 0x1F8 => pack 32 [fp32.canonNaN, fp32.canonNaN]
  | 0x1F9 => ivPoint (fp32.decode fp32.maxPat).dy
  | 0x1FA => ivPoint (fp32.decode (2 ^ 23)).dy
  | 0x1FB => ivPoint (fp32.decode 1).dy
  | 0x1FC => ivPoint Dy.zero
  | c => ivPoint (floatConst c)

/-- The value of an integer constant code (R46). -/
def intConst (code : Nat) : Int := if code < 0x180 then (code : Int) - 0x100 else 0x17F - (code : Int)

/-- The register value of a constant code under a type and x8 format (R49, R50). -/
def constVal (t : Ty) (fmt code : Nat) : Word :=
  if code < 0x1C0 then
    let c := intConst code
    match t with
    | .iv32 => ivPoint (Dy.ofInt c)
    | .x8 => if fmt < 2 then fillTy t (wrapN c 8) else fillTy t ((fmtOfX8 fmt).encode ((fmtOfX8 fmt).convert ctxRNE (fvOfInt c)).1)
    | t => if t.isFloat then fillTy t ((fmtOfTy t).encode ((fmtOfTy t).convert ctxRNE (fvOfInt c)).1) else fillTy t (wrapN c t.width)
  else
    match t with
    | .iv32 => ivConst code
    | .b64 => w64 (constPat fp64 code)
    | .x8 => if fmt < 2 then 0 else fillTy t (constPat (fmtOfX8 fmt) code)
    | t => if t.isFloat then fillTy t (constPat (fmtOfTy t) code) else 0

/-! ### Lanes -/

/-- Privileged mode of a group (R437). -/
def Group.privileged (g : Group) : Bool := g.frame.isSome

/-- The window entry a v operand code names, h registers in privileged mode included; none at or beyond the window (R19, R438). -/
def vIndex (g : Group) (c : Nat) : Option Nat :=
  if g.privileged ∧ g.dbg = false ∧ c ≥ 0x70 then
    let h := min 16 g.win
    if c - 0x70 < h then some (g.win - h + (c - 0x70)) else none
  else if c < g.win ∧ c < 0x80 then some c else none

/-- The present lanes of a group's member of a batch: absent while a loop level of the group is spent, but for the segment's end
word (R89). -/
def Member.present (m : Member) (endWord : Bool) : Mask :=
  if endWord || m.loops.all (fun l => decide (l.count > 0)) then m.lanes else 0

def Fibre.helper (f : Fibre) : Bool := f.status.getLsbD 24

/-- Predicate `i` of a fibre (R23, R33). -/
def Fibre.pred (f : Fibre) (i : Nat) : Bool := i == 0 || f.status.getLsbD i

/-- The guard of a word in a fibre: unguarded when G is 0 (R23, R41). -/
def guardTrue (f : Fields) (x : Fibre) : Bool := f.g == 0 || (x.pred f.g.toNat != f.gn)

/-- Lanes of a mask that a test on the fibre keeps. -/
def Group.filterLanes (g : Group) (m : Mask) (p : Fibre → Bool) : Mask := maskOf ((lanesOf m).filter fun l => p (g.fibre l))

/-- Present lanes whose guard is true (R106). -/
def Group.participants (g : Group) (present : Mask) (f : Fields) : Mask := g.filterLanes present fun x => guardTrue f x

/-- Those of them that are not helpers (R79). -/
def Group.actors (g : Group) (present : Mask) (f : Fields) : Mask :=
  g.filterLanes present fun x => guardTrue f x && !x.helper

def Group.liveMask (g : Group) : Mask := maskOf ((List.range g.wg).filter fun l => (g.fibre l).live)

/-! ### Reading registers -/

/-- o register `n` at this word: unspecified, its earlier contents or zero, when the segment has not visibly written it (R20). -/
def readO (s : State) (x : Fibre) (lane n : Nat) : Word :=
  if x.oset.getLsbD n then nth x.o n else s.choose (1000 + lane * 8 + n) (nth x.o n) 0

/-- The results visible at this word, latest issued first (R21). -/
def visibleHist (x : Fibre) : List Hist :=
  (x.hist.filter fun h => h.left == 0).reverse

/-- l0 or l1 (R21). Where no such result is visible it reads the fibre's own earlier o contents or zero; which o register the spec does not
say, and l0 reads o0's and l1 o1's (DESIGN CHOICE, log entry 205). -/
def readL (s : State) (x : Fibre) (lane n : Nat) : Word :=
  match (visibleHist x)[n]? with
  | some h => h.val
  | none => s.choose (2000 + lane * 2 + n) (nth x.o n) 0

/-- A k register as a batch of the group reads it: its own latest visible uniform write, else the register; while another batch's
write is not yet seen by the whole group, either value (R83, R86). -/
def readK (s : State) (g : Group) (batch n : Nat) : Word :=
  let own := (g.kpend.filter fun p => p.batch == batch && p.idx == n && p.left == 0).getLast?
  match own with
  | some p => p.val
  | none =>
    let base := (nth g.k n).val
    match (g.kpend.filter fun p => p.batch != batch && p.idx == n).getLast? with
    | some p => s.choose (3000 + n) p.val base
    | none => base

/-- What a source read depends on besides the fibre: the group's batch and the block's place in the grid (R31). -/
structure SrcCtx where
  batch : Nat
  linear : Nat
  gpb : Nat
deriving DecidableEq, Repr, Inhabited

/-- The fibre identifier (R31). -/
def fibreId (c : SrcCtx) (g : Group) (lane : Nat) : Nat := c.linear * (c.gpb * g.wg) + g.index * g.wg + lane

/-- The value of an operand code in a lane (R46 to R51). A code that names nothing reads zero: the checks come before. -/
def srcVal (s : State) (c : SrcCtx) (g : Group) (lane : Nat) (t : Ty) (fmt : Nat) (lit : Option Word) (code : Nat) : Word :=
  let x := g.fibre lane
  if code < 0x80 then
    match vIndex g code with
    | some n => (nth x.v n).val
    | none => 0
  else if code < 0xC0 then readK s g c.batch (code - 0x80)
  else if code < 0xC8 then readO s x lane (code - 0xC0)
  else if code < 0xCA then readL s x lane (code - 0xC8)
  else if code = 0xCB then w64 lane
  else if code = 0xCC then w64 (lane / 4)
  else if code = 0xCD then w64 g.index
  else if code = 0xCE then w64 c.linear
  else if code = 0xCF then w64 (fibreId c g lane)
  else if code = 0x1FF then lit.getD 0
  else if code ≥ 0x100 then constVal t fmt code
  else 0

/-- The register an operand code names in a lane, for its full/empty bit and poison; none for what has neither. -/
def regOf (g : Group) (lane code : Nat) : Option Reg :=
  if code < 0x80 then (vIndex g code).map fun n => nth (g.fibre lane).v n
  else if code < 0xC0 then some (nth g.k (code - 0x80))
  else none

def emptyAt (g : Group) (lane code : Nat) : Bool :=
  match regOf g lane code with
  | some r => !r.full
  | none => false

def poisonAt (g : Group) (lane code : Nat) : Bool :=
  match regOf g lane code with
  | some r => r.poison
  | none => false

/-! ### Visibility (R83) -/

/-- Write a value that has become visible. -/
def commitDst (x : Fibre) (d : PDst) (v : Word) : Fibre :=
  match d with
  | .v n => { x with v := x.v.set n { nth x.v n with val := v, poison := false } }
  | .o n => { x with o := x.o.set n v, oset := x.oset ||| (1#8 <<< n) }
  | .p n =>
    if n = 0 then x
    else
      let bit : Word := 1#64 <<< n
      { x with status := if v.getLsbD 0 then x.status ||| bit else x.status &&& ~~~bit }

/-- Commit, in issue order, the pending results whose distance has run out; one issued earlier than a visible one for the same
destination never replaces it (R83). -/
def commitReady (x : Fibre) : Fibre :=
  let ready := x.pend.filter fun p => p.left == 0
  let rest := x.pend.filter fun p => p.left != 0
  let killed (p : Pend) : Bool := ready.any fun r => r.dst == p.dst && decide (r.seq > p.seq)
  let x := { x with pend := rest.filter fun p => !killed p }
  (ready.filter fun p => !killed p).foldl (fun x p => commitDst x p.dst p.val) x

/-- One further word of the batch: every distance shortens (R83, R21). Only the results that can still be l0 or l1 are kept. -/
def tickFibre (x : Fibre) : Fibre :=
  let pend := x.pend.map fun p => { p with left := p.left - 1 }
  let hist := x.hist.map fun h => { h with left := h.left - 1 }
  let old := hist.filter fun h => h.left == 0
  let kept := old.drop (old.length - 2)
  commitReady { x with pend := pend, hist := hist.filter fun h => h.left != 0 || kept.contains h }

/-- A word that has not issued after all: what is not yet visible at it has its distance back (R83). -/
def untickFibre (x : Fibre) : Fibre :=
  { x with
    pend := x.pend.map fun p => { p with left := p.left + 1 }
    hist := x.hist.map fun h => if h.left = 0 then h else { h with left := h.left + 1 } }

/-- A fibre at its stop word, where `inWord` says whether its batch waits in that word: what a word at the stop point reads is
visible, and the rest keeps its distance (R21, R83, R462). -/
def atStop (inWord : Bool) (x : Fibre) : Fibre := if inWord then x else untickFibre (tickFibre x)

/-- The uniform writes of one batch shorten alike; they stay apart until its segment ends (R83, R86). -/
def tickK (batch : Nat) (ps : List KPend) : List KPend :=
  ps.map fun p => if p.batch == batch then { p with left := p.left - 1 } else p

/-- Every pending result of a fibre becomes visible: at a segment's end and at a trap (R73, R428). The o and l registers then hold
nothing the next segment may rely on (R20). -/
def settleFibre (x : Fibre) : Fibre :=
  let x := commitReady { x with pend := x.pend.map fun p => { p with left := 0 } }
  { x with hist := [], oset := 0 }

/-- The uniform writes of a batch reach the group's other batches (R86). Of two batches' writes to one register that of the batch which ends
its segment later stays, which the spec does not say (DESIGN CHOICE, log entry 206). -/
def settleK (g : Group) (batch : Nat) : Group :=
  let mine := g.kpend.filter fun p => p.batch == batch
  { g with
    kpend := g.kpend.filter fun p => p.batch != batch
    k := mine.foldl (fun k p => k.set p.idx { nth k p.idx with val := p.val, poison := false }) g.k }

/-! ### Writing results -/

/-- A fixed-latency result of a lane to an operand code, with its place in l0 and l1 unless it is a second result (R21, R83). -/
def putFixed (g : Group) (x : Fibre) (seq dist code : Nat) (v : Word) (inL : Bool) : Fibre :=
  let add (d : PDst) : Fibre :=
    { x with pend := x.pend ++ [⟨seq, d, v, dist⟩], hist := if inL then x.hist ++ [⟨seq, v, dist⟩] else x.hist }
  if code < 0x80 then
    match vIndex g code with
    | some n => add (.v n)
    | none => x
  else if isO code then add (.o (code - 0xC0))
  else x

/-- A guard-false lane: the instruction counts for l0 and l1 with the destination's unchanged contents (R21). -/
def putSkipped (s : State) (g : Group) (x : Fibre) (lane seq dist code : Nat) : Fibre :=
  let old : Option Word :=
    if code < 0x80 then (vIndex g code).map fun n => (nth x.v n).val
    else if isO code then some (readO s x lane (code - 0xC0)) else none
  match old with
  | some v => { x with hist := x.hist ++ [⟨seq, v, dist⟩] }
  | none => x

/-- A predicate result (R55, R83): a write to p0 is discarded. -/
def putPred (x : Fibre) (seq dist n : Nat) (b : Bool) : Fibre :=
  if n = 0 then x else { x with pend := x.pend ++ [⟨seq, .p n, if b then 1 else 0, dist⟩] }

/-- A variable-latency result arrives: the value is written, pending older fixed results for the register are dropped, the register
turns full (R27). -/
def putLate (x : Fibre) (seq n : Nat) (v : Word) (poison : Bool) : Fibre :=
  { x with
    v := x.v.set n ⟨v, true, poison⟩
    pend := x.pend.filter fun p => !(p.dst == .v n && decide (p.seq < seq)) }

/-- Mark a v register empty (R27). -/
def markEmpty (x : Fibre) (n : Nat) : Fibre := { x with v := x.v.set n { nth x.v n with full := false } }
def markFull (x : Fibre) (n : Nat) : Fibre := { x with v := x.v.set n { nth x.v n with full := true } }

end Sys2Proof.Machine
end

