-- ==== Sys2Proof/Machine/Flags.lean ====
section
/-! DEFINITION. The sticky flags and trap enables of STATUS, the rounding mode in force and the bits stochastic rounding draws
(R33, R34, R197, R200). -/

namespace Sys2Proof.Machine

/-- OR flags into STATUS[20:16] (R34). -/
def raiseFlags (x : Fibre) (fl : Flags) : Fibre := { x with status := x.status ||| (fl.zeroExtend 64 <<< 16) }

/-- The raised flags whose enables TE_NV to TE_NX in [29:25] are set (R34). -/
def enabledFlags (status : Word) (fl : Flags) : Flags := fl &&& status.extractLsb' 25 5

/-- STATUS.DRM (R33). -/
def drmOf (status : Word) : Nat := field status 21 3

/-- The mode RM selects: 7 is dynamic (R54, R34). -/
def modeOf (rm : Nat) (status : Word) : RMode := if rm = 7 then RMode.ofCode (drmOf status) else RMode.ofCode rm

/-- What a software write of STATUS leaves: [29:25], DRM unless the code is 6 or 7, the sticky flags and p15 to p1 (R33, R34). -/
def writeStatus (old new : Word) : Word :=
  let drm : Word := if field new 21 3 > 5 then old &&& 0xE00000#64 else new &&& 0xE00000#64
  (old &&& 0xFFFFFFFFC1000001#64) ||| drm ||| (new &&& 0x3E1FFFFE#64)

/-- STATUS after reset (R33). -/
def statusReset : Word := 1

/-- The inputs of stochastic rounding that do not depend on the lane (R197). -/
structure RndCtx where
  seed : Word
  /-- the word's position in its code section, REP repeat, and remaining count of the innermost loop level -/
  index : Nat
  rep : Nat
  loop : Nat
deriving DecidableEq, Repr, Inhabited

/-- The 24 random bits of a sub-element (R197). -/
def rndBits (c : RndCtx) (fibre sub : Nat) : Nat :=
  let stream := c.index * 2 ^ 32 + c.rep * 2 ^ 24 + c.loop % 2 ^ 24
  (hrandW (w64 (fibre * 8 + sub)) c.seed (w64 stream)).toNat % 2 ^ 24

end Sys2Proof.Machine
end

