-- ==== Sys2Proof/Machine/Flight.lean ====
section
/-! DEFINITION. Variable-latency words in flight: when a lane may perform, what it does then, and how its result is written (R27,
R105 to R125, R130, R131, R138 to R145, R236, R352, R443, R454). -/

namespace Sys2Proof.Machine

/-! ### The name of a place (R90, R474) -/

/-- A handle's object in a context (R411). -/
def CodeObj.handle (o : CodeObj) : Nat := o.slot + o.count * 2 ^ 14

/-- The object a running group names; a retired one still runs its launches. -/
def State.object? (s : State) (ctx handle : Nat) : Option CodeObj :=
  s.objects.find? fun o => o.ctx == ctx && o.handle == handle

/-- The word offset in the Pamet section of a word of a segment (R74). -/
def CodeObj.offset (o : CodeObj) (seg woff : Nat) : Nat := (nth o.segs seg).start + woff

/-- The name of a word for lanes of a group (R90): the safe point that the lowest of them has passed last, and the word's offset from it
in the Pamet section, modulo 2^32 where the word stands before it. -/
def placeName (s : State) (g : Group) (lanes : Mask) (seg woff : Nat) : Nat × Nat :=
  let ord := (g.fibre ((lowestLane lanes).getD ((lowestLane g.liveMask).getD 0))).safeord
  match s.object? g.ctx g.obj with
  | some o =>
    match o.safes[ord]? with
    | some p => (ord, wrapN ((o.offset seg woff : Int) - (p.woff : Int)) 32)
    | none => (ord, woff)
  | none => (ord, woff)

/-- The trigger record of a group's word in some of its lanes (R474). -/
def groupTrig (s : State) (g : Group) (lanes : Mask) (cause seg woff w3 : Nat) : TrigRec :=
  let name := placeName s g lanes seg woff
  ⟨Config.chipNumber % 768, cause, s.gts,
   w64 (((s.block? g.bid).getD default).linear + g.index * 2 ^ 32 + g.core * 2 ^ 37 + seg * 2 ^ 46),
   w64 (g.obj % 2 ^ 32 + name.2 * 2 ^ 32), w64 (w3 % 2 ^ 16), name.1⟩

/-- A translation fault that a fibre met in a word is filed, and may trigger with the word's place (R396, R469, R474). -/
def fibreFault (s : State) (g : Group) (lane seg woff va agent : Nat) (acc : Access) (np : Bool) : State :=
  fileFaultAt (groupTrig s g (laneBit lane) 9 seg woff 0) s g.ctx va agent acc np

/-! ### Access sizes -/

/-- Bytes of an access size code (R44). -/
def sizeBytes (ty : Nat) : Nat :=
  match ty with
  | 1 => 16 | 2 => 32 | 4 => 4 | 5 => 4 | 8 => 1 | 9 => 1 | 12 => 2 | 13 => 2 | _ => 8

/-- The signed size codes (R44). -/
def sizeSigned (ty : Nat) : Bool := ty == 4 || ty == 8 || ty == 12

/-- The registers a load of this size writes (R44, R120). -/
def loadWords (ty : Nat) (bs : List Byte) : List Word :=
  if ty = 1 ∨ ty = 2 then (List.range (sizeBytes ty / 8)).map fun j => w64 (byteField bs (8 * j) 8)
  else
    let n := sizeBytes ty
    let v := ofBytes (bs.take n)
    [if sizeSigned ty then w64 (wrapN (sextN v (8 * n)) 64) else w64 v]

/-- The bytes a store of this size writes (R44, R120). -/
def storeBytes (ty : Nat) (data : List Word) : List Byte :=
  if ty = 1 ∨ ty = 2 then (data.take (sizeBytes ty / 8)).flatMap fun w => toBytes w.toNat 8
  else toBytes (nth data 0).toNat (sizeBytes ty)

/-- The access size of an atomic (R122). -/
def atomBytes (f : Fields) : Nat :=
  if f.sb.getLsbD 5 then 16 else (Ty.ofCode f.ty.toNat).width / 8

/-- `op(old, x)` of R123 on patterns of a type. -/
def atomOp (t : Ty) (sel old x : Nat) : Nat :=
  let sh := shapeOf t 0
  if t.isFloat ∧ sel < 3 then fAtomic (fmtOfTy t) sel old x
  else
    match sel with
    | 0 => (old + x) % 2 ^ t.width
    | 1 => if sh.val old ≤ sh.val x then old else x
    | 2 => if sh.val old ≤ sh.val x then x else old
    | 3 => old &&& x
    | 4 => old ||| x
    | 5 => old ^^^ x
    | _ => x

/-! ### Fields of the words in flight -/

/-- The full-form fields of an instruction, and its opcode. -/
def fieldsOfInstr (i : Instr) : Fields :=
  match formOf i with
  | .full _ f => f
  | _ => default

def opOf (i : Instr) : Nat :=
  match formOf i with
  | .full r _ => r.op
  | _ => 0x100

/-- The row and fields of an instruction. -/
def rowOf (i : Instr) : Row :=
  match formOf i with
  | .full r _ => r
  | _ => ⟨0, .F, .none, .none, .none, .none, 0, [], false, .zero, false, false, 0, false⟩

/-- The registers a word in flight will write, as (first code, count); a stored register and the prefetching words have none. -/
def resultRegs (i : Instr) : Nat × Nat :=
  let f := fieldsOfInstr i
  match opOf i with
  | 0xA9 => (f.dst.toNat, if f.sb.getLsbD 5 then 2 else 1)
  | 0xA7 => (f.dst.toNat, 0)
  | 0xA1 | 0xA3 | 0xA5 | 0xB8 => (f.dst.toNat, 0)
  | 0xAF | 0xB6 | 0xC1 | 0xC9 => (f.dst.toNat, 2)
  | _ => (f.dst.toNat, dstCount (rowOf i) f)

def Flight.isMem (fl : Flight) : Bool :=
  match fl.kind with
  | .load _ | .store _ | .atomic _ | .fetch | .fetch3 => true
  | _ => false

def Flight.writes (fl : Flight) : Bool :=
  match fl.kind with
  | .store _ | .atomic _ => true
  | _ => false

def Flight.reads (fl : Flight) : Bool :=
  match fl.kind with
  | .load _ | .atomic _ | .fetch | .fetch3 => true
  | _ => false

def Flight.space (fl : Flight) : Space :=
  match fl.kind with
  | .load s | .store s | .atomic s => s
  | _ => .global

/-- Bytes of a memory word's access. -/
def Flight.size (fl : Flight) : Nat :=
  let f := fieldsOfInstr fl.instr
  match fl.kind with
  | .atomic _ => atomBytes f
  | .fetch3 => 64
  | _ => sizeBytes f.ty.toNat

/-- The atomic has acquire order, release order (R45, R56). -/
def acqOrder (f : Fields) : Bool := f.sb.getLsbD 3
def relOrder (f : Fields) : Bool := f.sb.getLsbD 4
def atomScope (f : Fields) : Scope := Scope.ofCode (f.sb.toNat % 8)

/-- The word acquires: an atomic with acquire order, WPGET (R145, R149). -/
def Flight.acquires (fl : Flight) : Bool :=
  match fl.kind with
  | .atomic _ => acqOrder (fieldsOfInstr fl.instr)
  | .wpget => true
  | _ => false

def Flight.releases (fl : Flight) : Bool :=
  match fl.kind with
  | .atomic _ => relOrder (fieldsOfInstr fl.instr)
  | _ => false

/-- The lanes that a lane operation stands for: those of the group's part of the batch in a uniform word (R48). -/
def Flight.maskOf (fl : Flight) (op : LaneOp) : Mask := if fl.uniform then fl.lanes ||| laneBit op.lane else laneBit op.lane

/-- Two lane operations of one group's words belong to one fibre, in whichever segments they were issued. -/
def sameFibre (e fl : Flight) (o op : LaneOp) : Bool := e.maskOf o &&& fl.maskOf op != 0

/-- The lanes whose fibres a word in flight is still in flight for. -/
def Flight.stands (fl : Flight) : Mask := if fl.uniform then fl.lanes ||| fl.pending else fl.pending

/-- A word stands in flight for a fibre of these lanes. -/
def Flight.standsIn (fl : Flight) (lanes : Mask) : Bool := fl.stands &&& lanes != 0

/-- The batch that issued a word in flight, or one that its fibres have gone on to, holds one of these lanes. A stuffed word's batch, which
waits for nothing, looks at stuffed words alone (R462). -/
def Flight.holdsBack (fl : Flight) (batch : Nat) (lanes : Mask) : Bool :=
  if batch = 0 then fl.batch == 0 else (fl.lanes ||| fl.pending) &&& lanes != 0

/-- Two lane operations of a fibre reach one address space: a block's scratchpad is one whether LDS or LDRS reaches it (R110). -/
def sameSpace (e fl : Flight) (o op : LaneOp) : Bool :=
  let scratch (sp : Space) : Bool := sp == .scratch || sp == .remote
  if scratch e.space && scratch fl.space then o.tgt == op.tgt else e.space == fl.space

/-- A word that reads past the L1 through the Grinder, whose reads are ordered by FENCERO alone (R113, R150). -/
def Flight.readOnly (fl : Flight) : Bool :=
  match fl.kind with
  | .fetch | .fetch3 => true
  | _ => false

/-- An earlier lane operation that this one must wait for: the same bytes, two reads of them among them (R107, R139, R141), an earlier
read before a write (R141), an earlier acquire (R145), or any earlier access before a release (R144). -/
def conflicts (e fl : Flight) (o op : LaneOp) : Bool :=
  (e.isMem || e.kind == .wpget) && fl.isMem && sameFibre e fl o op &&
    (e.acquires || fl.releases || (fl.writes && e.reads)
      || (sameSpace e fl o op && (e.writes || fl.writes || !(e.readOnly || fl.readOnly)) && overlap o.ea e.size op.ea fl.size))

/-- The fibres that a lane operation stands for: the whole group's part of the batch in a uniform word (R48). -/
def Flight.fibresOf (fl : Flight) (op : LaneOp) : List Nat := lanesOf (fl.maskOf op)

/-- An earlier stream operation of its fibres is still being settled: its reads hold back a write (R141). -/
def streamsHold (g : Group) (fl : Flight) (op : LaneOp) : Bool :=
  (fl.writes || fl.releases) && (fl.fibresOf op).any fun l => (g.fibre l).q.any fun q => q.op.isSome && q.fault.isNone && decide (q.since < fl.seq)

/-- A lane operation still to be performed. -/
def Flight.pendingOps (fl : Flight) : List LaneOp := fl.ops.filter fun o => inMask fl.pending o.lane

/-- Nothing earlier of its fibre, and no lower lane of its own word on the same bytes that may still perform, stands in its way
(R106, R107). -/
def laneFree (g : Group) (fl : Flight) (op : LaneOp) : Bool :=
  !streamsHold g fl op && (g.flights.all fun e => !(decide (e.seq < fl.seq) && e.pendingOps.any fun o => conflicts e fl o op))
  && !(fl.writes && fl.pendingOps.any fun o =>
    decide (o.lane < op.lane) && !(fl.held.any fun h => h.1 == o.lane) && overlap o.ea fl.size op.ea fl.size)

/-! ### What one lane does -/

/-- How one lane's attempt ends: its result registers, a fault or poison that holds it, or not yet. -/
inductive LaneDone where
  | done (outs : List Word)
  /-- MMOVE: results of which some carry the poison of an accumulator entry (R454) -/
  | tainted (outs : List (Word × Bool))
  | hold (e : PortErr)
  | later
deriving DecidableEq, Repr, Inhabited

/-- The registers a word in flight writes: MMOVE's count is read at issue (R293), and DEQ's is its record's (R374). -/
def Flight.regs (fl : Flight) : Nat × Nat :=
  match fl.kind with
  | .mmove | .deq => ((fieldsOfInstr fl.instr).dst.toNat, match fl.ops with | o :: _ => o.tgt | [] => 0)
  | _ => resultRegs fl.instr

/-- An accumulator entry's bits. -/
def Engine.entry (e : Engine) (n : Nat) : BitVec 32 :=
  match e.acc.find? fun p => p.1 == n with | some p => p.2 | none => 0

/-- What an MMOVE lane reads: registers of two entries each, once every matrix word before the bound has completed (R293, R296). -/
def mmoveVal (s : State) (g : Group) (op : LaneOp) : Option (List (Word × Bool)) :=
  match (s.block? g.bid).bind Block.engine with
  | none => some (List.replicate op.tgt (0, false))
  | some e =>
    if e.ops.any fun o => decide (o.seq < (nth op.data 1).toNat) then none
    else some ((List.range op.tgt).map fun j =>
      let n := op.ea + 2 * j
      ((e.entry n).zeroExtend 64 ||| ((e.entry (n + 1)).zeroExtend 64 <<< 32), e.accPoison.contains n || e.accPoison.contains (n + 1)))

/-- A write at a home or a publication takes an idempotent block past its commit point (R450). -/
def commitBlock (s : State) (bid : Nat) : State := s.modBlock bid fun b => { b with committed := true }

/-- A write to another block's scratchpad lies outside the group's own block's (R450). -/
def commitOther (s : State) (g : Group) (bid : Nat) : State := if bid = g.bid then s else commitBlock s g.bid

/-- Translation as a port answers it; its walk's charge is the block's too (R347). -/
def portXl (s : State) (g : Group) (va : Nat) (acc : Access) (n : Nat) (data : List Byte) : State × Except PortErr Target :=
  match s.context? g.ctx with
  | none => (s, .error (.access va))
  | some c =>
    let r := translate s g.core c va acc n data
    (shareBlock s g.ctx g.bid r.1, r.2.mapError (XlErr.port va))

/-- The core keeps a copy of the line (R116). -/
def l1Holds (s : State) (g : Group) (va : Nat) : Bool :=
  match s.core? g.core with
  | some c => c.l1.any fun l => l.ctx == g.ctx && l.line == va / 128
  | none => false

/-- The line of a target, or the bytes alone under .nl1: what an L1 that misses asks its home for (R116; log entry 122). -/
def fillRange (t : Target) (va n rm : Nat) : Target × Nat := if rm = 2 then (t, n) else (t.shift (-((va % 128 : Nat) : Int)), 128)

/-- A fibre's global load of `n` bytes (R120, R137 to R142). -/
def globalLoad (s : State) (g : Group) (lane : Nat) (fibres : List Nat) (va n rm : Nat) : State × Except PortErr (List Byte) :=
  match portXl s g va .read n [] with
  | (s, .error e) => (s, .error e)
  | (s, .ok t) =>
    let hit := l1Holds s g va
    match coreRead s g.core g.ctx g.gid fibres va n t rm with
    | (s, _, true) => (s, .error (.poison va))
    | (s, bs, false) =>
      let s := charge s g.ctx g.bid (n * uL1)
      let x := fillRange t va n rm
      (if hit then s else serveBlock (countEvent s g.ctx 2 1) g.ctx g.bid (7000 + lane) x.1 x.2 rm, .ok bs)

/-- A fibre's global store; `word` and `clears` as `coreWrite` takes them (R116, R120, R454). -/
def globalStore (s : State) (g : Group) (lane : Nat) (fibres : List Nat) (va : Nat) (bs : List Byte) (rm word : Nat) (clears : List Nat) :
    State × Except PortErr Unit :=
  match portXl s g va .write bs.length bs with
  | (s, .error e) => (s, .error e)
  | (s, .ok t) =>
    let s := coreWrite s g.core g.ctx g.gid lane fibres va t bs rm word clears
    let s := serveBlock (charge s g.ctx g.bid (bs.length * uL1)) g.ctx g.bid (7100 + lane) t bs.length rm
    (commitBlock s g.bid, .ok ())

/-- The atomics a host page admits (R108). -/
def hostAdmits (isCas : Bool) (t : Ty) (sel : Nat) : Bool := isCas || (!t.isFloat && (sel == 0 || sel == 6))

/-- The pattern an atomic leaves in memory, given what stood there: for CAS none when it does not write (R123, R124). -/
def atomNew (i : Instr) (old : Nat) (data : List Word) : Option Nat :=
  let f := fieldsOfInstr i
  let t := Ty.ofCode f.ty.toNat
  let n := atomBytes f
  if opOf i = 0xA9 then
    let wide := f.sb.getLsbD 5
    let cmp := if wide then (nth data 0).toNat + (nth data 1).toNat * 2 ^ 64 else (nth data 0).toNat % 2 ^ (8 * n)
    let swap := if wide then (nth data 2).toNat + (nth data 3).toNat * 2 ^ 64 else (nth data 1).toNat % 2 ^ (8 * n)
    if old = cmp then some swap else none
  else some (atomOp t (atomSel f) old ((nth data 0).toNat % 2 ^ (8 * n)))

/-- The registers an atomic returns: the old value as its type writes, or two registers of a wide CAS (R122, R124). -/
def atomOuts (i : Instr) (old : Nat) : List Word :=
  if opOf i = 0xA7 then [] else if (fieldsOfInstr i).sb.getLsbD 5 then [w64 old, w64 (old / 2 ^ 64)] else [w64 old]

/-- The fibres of one access release, acquire (R48, R144, R145). -/
def releaseAll (s : State) (g : Group) (fibres : List Nat) (sc : Scope) : State :=
  fibres.foldl (fun s l => releaseAt s g.core g.ctx g.gid l sc) s
def acquireAll (s : State) (g : Group) (fibres : List Nat) (sc : Scope) : State :=
  fibres.foldl (fun s l => acquireAt s g.core g.ctx g.gid l sc) s

/-- A global atomic: one indivisible read-modify-write at the home, with its release before and its acquire after (R122 to R125,
R143 to R145). -/
def globalAtomic (s : State) (g : Group) (i : Instr) (lane : Nat) (fibres : List Nat) (va : Nat) (data : List Word) : State × Except PortErr (List Word) :=
  let f := fieldsOfInstr i
  let n := atomBytes f
  match portXl s g va (if opOf i = 0xA7 then .reduce else .atomic) n (data.flatMap fun w => toBytes w.toNat 8) with
  | (s, .error e) => (s, .error e)
  | (s, .ok t) =>
    let isHost := match t with | .host _ => true | _ => false
    if isHost && !hostAdmits (opOf i == 0xA9) (Ty.ofCode f.ty.toNat) (atomSel f) then (s, .error (.access va))
    else
      let s := settleAt s g.core g.ctx va n
      match readTarget s t n with
      | (_, true) => (s, .error (.poison va))
      | (bs, false) =>
        let old := ofBytes bs
        let s := serveBlock s g.ctx g.bid (7200 + lane) t n 0
        let s :=
          match atomNew i old data with
          | none => s
          | some v =>
            let s := if relOrder f then releaseAll s g fibres (atomScope f) else s
            commitBlock (writeTarget s t (toBytes v n)) g.bid
        (if acqOrder f then acquireAll s g fibres (atomScope f) else s, .ok (atomOuts i old))

/-- Poison of scratchpad sectors (R454). -/
def scratchPoisoned (b : Block) (off n : Nat) : Bool := (sectors off n).any b.scratchPoison.contains

/-- Scratchpad bytes of a block; a block that has ended reads zero (R109, R110). -/
def scratchLoad (s : State) (bid off n : Nat) : Except PortErr (List Byte) :=
  match s.block? bid with
  | none => .ok (List.replicate n 0)
  | some b => if scratchPoisoned b off n then .error (.poison off) else .ok (Memory.read b.scratch off n)

def scratchStore (s : State) (bid off : Nat) (bs : List Byte) : State :=
  s.modBlock bid fun b =>
    { b with scratch := Memory.write b.scratch off bs, scratchPoison := clearPoison b.scratchPoison off bs.length }

/-- Scratchpad sectors that a store word has written whole (R454). -/
def scratchClear (s : State) (bid : Nat) (secs : List Nat) : State :=
  s.modBlock bid fun b => { b with scratchPoison := b.scratchPoison.filter fun x => !secs.contains x }

/-! ### Transaction barriers (R181, R182) -/

/-- A barrier's fields. -/
structure TBar where
  pend : Int
  expb : Nat
  arr : Nat
  expa : Nat
  phase : Nat
  ovf : Nat
  rest : Nat
deriving DecidableEq, Repr, Inhabited

def TBar.ofNat (v : Nat) : TBar :=
  ⟨sextN v 32, bitsN v 32 32, bitsN v 64 16, bitsN v 80 16, bitsN v 96 1, bitsN v 97 1, v / 2 ^ 98⟩

def TBar.toNat (t : TBar) : Nat :=
  wrapN t.pend 32 + t.expb * 2 ^ 32 + t.arr * 2 ^ 64 + t.expa * 2 ^ 80 + t.phase * 2 ^ 96 + t.ovf * 2 ^ 97 + t.rest * 2 ^ 98

/-- Bytes are added to PEND, an arrival may count, and the phase may turn. -/
def TBar.change (t : TBar) (bytes : Int) (arrive : Bool) : TBar :=
  let p := t.pend + bytes
  let out : Bool := decide (p < -(2 ^ 31)) || decide (p ≥ 2 ^ 31)
  let late : Bool := arrive && t.arr == 0
  let t := { t with pend := sextN (wrapN p 32) 32, arr := if arrive then t.arr - 1 else t.arr, ovf := if out || late then 1 else t.ovf }
  if t.arr = 0 ∧ t.pend = 0 then { t with phase := 1 - t.phase, arr := t.expa, pend := sextN t.expb 32 } else t

def tbRead (s : State) (bid off : Nat) : TBar := .ofNat (Memory.readN ((s.block? bid).getD default).scratch off 16)

def tbWrite (s : State) (bid off : Nat) (t : TBar) : State := scratchStore s bid off (toBytes t.toNat 16)

/-- Waits at a barrier that end with its phase (R186). -/
def endTbWaits (s : State) (bid off phase : Nat) : State :=
  { s with batches := s.batches.map fun b =>
      match b.wait with
      | some (.tbwait todo) => { b with wait := some (.tbwait (todo.filter fun w => !(w.1 == bid && w.2.1 == off && w.2.2 != phase))) }
      | _ => b }

/-- One change of a barrier, with the waits it ends. -/
def tbChange (s : State) (bid off : Nat) (bytes : Int) (arrive : Bool) : State :=
  let t := (tbRead s bid off).change bytes arrive
  endTbWaits (tbWrite s bid off t) bid off t.phase

/-- A transaction barrier stands in a poisoned sector (R105 step 6, R186, R454). -/
def tbPoisoned (s : State) (bid off : Nat) : Bool := match s.block? bid with | some b => scratchPoisoned b off 16 | none => false

/-- TBARR: a release at cluster scope, then one change of the barrier (R186). -/
def tbArrive (s : State) (g : Group) (lane bid off : Nat) (bytes _ : Word) : State :=
  commitOther (tbChange (releaseAt s g.core g.ctx g.gid lane .cluster) bid off (bytes.toNat : Int) true) g bid

/-- A lane of a TBARR or TBWAIT that poison held runs again (R186, R442). -/
def tbAgain (s : State) (g : Group) (i : Instr) (op : LaneOp) : Option (State × Except PortErr Unit) :=
  if tbPoisoned s op.tgt op.ea then some (s, .error (.poison op.ea))
  else
    match i with
    | .tbarr _ => some (tbArrive s g op.lane op.tgt op.ea op.b 0, .ok ())
    | _ => if (tbRead s op.tgt op.ea).phase = field op.b 0 1 then none else some (acquireAt s g.core g.ctx g.gid op.lane .cluster, .ok ())

/-! ### Private bytes (R111, R112) -/

/-- Keys of a fibre's private bytes. -/
def privKey (lane off : Nat) : Nat := lane * 2 ^ 32 + off

/-- The global address of a private byte of a lane (R111). -/
def privVa (g : Group) (lane off : Nat) : Nat := g.pbase + ((off / 8) * g.wg + lane) * 8 + off % 8

/-- The key of the private byte at a global address. -/
def privKeyAt (g : Group) (va : Nat) : Nat :=
  let d := va - g.pbase
  privKey (d / 8 % g.wg) (d / 8 / g.wg * 8 + d % 8)

/-- The 32-byte sectors that a lane's private bytes lie in. -/
def privSectors (g : Group) (lane off n : Nat) : List Nat := ((List.range n).map fun i => privVa g lane (off + i) / 32).eraseDups

/-- The addresses of a sector that belong to the group's region. -/
def sectorVas (g : Group) (sec : Nat) : List Nat :=
  ((List.range 32).map (32 * sec + ·)).filter fun va => decide (g.pbase ≤ va) && decide (va < g.pbase + g.plimit * g.wg)

/-- The bytes of a sector that could not be filled or written back hold free values (R9, R111). -/
def freePriv (s : State) (g : Group) (sec : Nat) : Group :=
  { g with priv := (sectorVas g sec).foldl (fun m va => Memory.put m (privKeyAt g va) ((s.freeVal (9000 + va % 4096)).setWidth 8)) g.priv }

/-- A fault met while a private line is filled or written back is filed (R111). -/
def filePriv (s : State) (g : Group) (acc : Access) (e : PortErr) : State :=
  match e with
  | .page va np => fileFault s g.ctx va 0 acc np
  | .access va | .poison va => fileFault s g.ctx va 0 acc false
  | .held _ => s

/-- A sector that was written back and left L1 is filled again from the region (R111, R112). -/
def privFillSector (gid : Nat) (s : State) (sec : Nat) : State :=
  match s.group? gid with
  | none => s
  | some g =>
    if !g.privAway.contains sec then s
    else
      let vas := sectorVas g sec
      let back (g : Group) : Group := { g with privAway := g.privAway.filter fun x => x != sec }
      match portXl s g (vas.headD 0) .read vas.length [] with
      | (s, .error (.held _)) => s
      | (s, .error e) => (filePriv s g .read e).modGroup gid fun g => freePriv s (back g) sec
      | (s, .ok t) =>
        let r := readTarget s t vas.length
        let s := serveBlock (countEvent s g.ctx 2 1) g.ctx g.bid 7300 t vas.length 0
        s.modGroup gid fun g =>
          { back g with
            priv := (vas.zip r.1).foldl (fun m x => Memory.put m (privKeyAt g x.1) x.2) g.priv
            privPoison := if r.2 then (sec, targetCode s t) :: g.privPoison else g.privPoison }

/-- A dirty sector goes to its page's target as an ordinary write; one that is poisoned leaves poison there. Where the page takes no
write, the fault is filed and the sector's values are open; where its request is held, it stays dirty (R111, R112, R454). -/
def writebackSector (gid : Nat) (s : State) (sec : Nat) : State :=
  match s.group? gid with
  | none => s
  | some g =>
    let vas := sectorVas g sec
    let bs := vas.map fun va => Memory.get g.priv (privKeyAt g va)
    let clean (g : Group) : Group := { g with privDirty := g.privDirty.filter fun x => x != sec }
    match portXl s g (vas.headD 0) .write vas.length bs with
    | (s, .error (.held _)) => s
    | (s, .error e) => (filePriv s g .write e).modGroup gid fun g => freePriv s (clean g) sec
    | (s, .ok t) =>
      let s := writeTarget (serveBlock s g.ctx g.bid 7350 t vas.length 0) t bs
      let s : State := match t, g.privPoison.find? fun p => p.1 == sec with
        | .local pa, some p =>
          { s with poison := addPoison s.poison pa vas.length, poisonCode := (pa / 32, p.2) :: s.poisonCode.filter fun p => p.1 != pa / 32 }
        | .peer c va, some _ => { s with peerBad := addPoison s.peerBad (c * 2 ^ 57 + va) vas.length }
        | _, _ => s
      s.modGroup gid fun g => { clean g with privHome := if g.privHome.contains sec then g.privHome else sec :: g.privHome }

/-- The sectors of a line. -/
def lineSectors (line : Nat) : List Nat := (List.range 4).map (4 * line + ·)

/-- A private line leaves L1: its dirty sectors are written back; what stands in the region is read again from there (R112). -/
def writebackLine (s : State) (gid line : Nat) : State :=
  let mine := lineSectors line
  let dirty := (((s.group? gid).getD default).privDirty).filter mine.contains
  let s := dirty.foldl (writebackSector gid) s
  s.modGroup gid fun g =>
    let gone := mine.filter fun x => g.privHome.contains x && !g.privAway.contains x && !g.privDirty.contains x
    { g with privAway := gone ++ g.privAway, privPoison := g.privPoison.filter fun p => !gone.contains p.1 }

/-- The core's L1 holds no more than it has room for, private lines first: those of global memory give way, then the private line used longest
ago (R11, R112; log entry 195). -/
def privRoom (s : State) (core : Nat) : State :=
  let size := match s.core? core with | some c => l1Size c.carve | none => 0
  let s := (List.range (privHeld s core - size)).foldl (fun s _ =>
    match s.groups.find? fun g => g.core == core && !g.privLines.isEmpty with
    | some g => writebackLine s g.gid (g.privLines.headD 0)
    | none => s) s
  s.modCore core fun c => { c with l1 := shrinkTo (fun l => evictRank l.rm) (size - privHeld s core) c.l1 }

/-- The sectors of a lane's private bytes are in L1. -/
def privFill (s : State) (g : Group) (lane off n : Nat) : State :=
  let secs := privSectors g lane off n
  if (secs.any g.privAway.contains) then privRoom (secs.foldl (privFillSector g.gid) s) g.core else s

/-- A sector of them is still away: its request is held. -/
def privLate (s : State) (g : Group) (lane off n : Nat) : Bool :=
  match s.group? g.gid with
  | some g => (privSectors g lane off n).any g.privAway.contains
  | none => false

/-- A lane's private bytes in L1 (R111, R112, R454). -/
def privLoad (g : Group) (lane off n : Nat) : Except PortErr (List Byte) :=
  if (privSectors g lane off n).any fun x => g.privPoison.any fun p => p.1 == x then .error (.poison off)
  else .ok (Memory.read g.priv (privKey lane off) n)

/-- A lane's private store; `clears` are the sectors that its word now covers whole (R112, R454). -/
def privStore (g : Group) (lane off : Nat) (bs : List Byte) (clears : List Nat) : Group :=
  { g with
    priv := Memory.write g.priv (privKey lane off) bs
    privDirty := g.privDirty ++ (privSectors g lane off bs.length).filter fun x => !g.privDirty.contains x
    privPoison := g.privPoison.filter fun p => !clears.contains p.1 }

/-- The bytes a lane operation reaches, by address in its space; private bytes by their global address. -/
def Flight.places (g : Group) (fl : Flight) (op : LaneOp) : List Nat :=
  (List.range fl.size).map fun i => if fl.space = .priv then privVa g op.lane (op.ea + i) else op.ea + i

/-- The sectors that a store word covers whole with this lane and those of its lanes that have performed (R454; log entry 216). -/
def Flight.wholeSectors (g : Group) (fl : Flight) (op : LaneOp) : List Nat :=
  let mates := op :: fl.ops.filter fun o => inMask fl.done o.lane && o.tgt == op.tgt && o.lane != op.lane
  let all := mates.map (Flight.places g fl)
  ((fl.places g op).map (· / 32)).eraseDups.filter fun x => (List.range 32).all fun i => all.any fun p => p.contains (32 * x + i)

/-- A helper's result where it would fault: zeros (R79). -/
def helperZeros (i : Instr) : List Word := List.replicate (resultRegs i).2 0

/-- The plain load a helper's atomic stands for (R79). -/
def helperAtomic (s : State) (g : Group) (fl : Flight) (op : LaneOp) : State × LaneDone :=
  if fl.space = .scratch then
    match scratchLoad s op.tgt op.ea fl.size with
    | .ok bs => (s, .done (atomOuts fl.instr (ofBytes bs)))
    | .error _ => (s, .done (helperZeros fl.instr))
  else
    match globalLoad s g op.lane [op.lane] op.ea fl.size 0 with
    | (s, .ok bs) => (s, .done (atomOuts fl.instr (ofBytes bs)))
    | (s, .error (.held _)) => (s, .later)
    | (s, .error _) => (s, .done (helperZeros fl.instr))

/-- A read's end in a lane; a helper's fault gives zeros (R79). -/
def readEnd (i : Instr) (helper : Bool) (outs : List Byte → List Word) (r : State × Except PortErr (List Byte)) : State × LaneDone :=
  match r with
  | (s, .ok bs) => (s, .done (outs bs))
  | (s, .error (.held _)) => (s, .later)
  | (s, .error e) => (s, if helper then .done (helperZeros i) else .hold e)

/-- A k register of a group as KGET may see it (R236). -/
def kgetVal (s : State) (asker g : Group) (batch n : Nat) : Word :=
  if asker.gid = g.gid then readK s g batch n
  else
    let base := (nth g.k n).val
    let base := match (g.kpend.filter fun p => p.idx == n && p.pub).getLast? with
      | some p => p.val
      | none => base
    match (g.kpend.filter fun p => p.idx == n && !p.pub).getLast? with
    | some p => s.choose (3100 + n) p.val base
    | none => base

/-- ERD's selectors (R352). -/
def erdVal (s : State) (g : Group) (sel : Nat) : Word :=
  let c := (s.context? g.ctx).getD default
  match sel with
  | 0 => w64 (c.energy / 160000000)
  | 1 => w64 (((s.block? g.bid).getD default).charge / 160000000)
  | 2 => w64 c.ewait
  | 3 => w64 s.chipBudget
  | _ => w64 s.rounds

/-- The channel pointer and sequence number (R175, R185). -/
def wpVal (s : State) (g : Group) (chan : Nat) : List Word :=
  match s.channels.find? fun c => c.ctx == g.ctx && c.cluster == g.core / 8 && c.chan == chan with
  | some c => [c.ptr, w64 c.seq]
  | none => [0, 0]

/-- The pipeline of a group's launch. -/
def groupPipe (s : State) (g : Group) : Option Pipe :=
  ((s.launch? g.lid).bind Launch.pipe).bind fun p => lookupBy Pipe.pid p s.pipes

/-- The address of a record of a stage queue (R356). -/
def StageQueue.slot (q : StageQueue) (i : Nat) : Nat := q.base + i % q.nrec * q.rsz

/-- A claimed record is written and published (R372); its queue and index are the operation's. -/
def publishRecord (s : State) (g : Group) (op : LaneOp) : State × Except PortErr Unit :=
  match groupPipe s g with
  | none => (s, .ok ())
  | some p =>
    match p.queues[op.ea]? with
    | none => (s, .ok ())
    | some q =>
      match engineWrite s g.core g.ctx (q.slot op.tgt) (op.data.drop 1 |>.flatMap fun w => toBytes w.toNat 8) with
      | (s, .error e) => (s, .error e)
      | (s1, .ok ()) =>
        let s := shareBlock s g.ctx g.bid s1
        let s := releaseAt s g.core g.ctx g.gid op.lane .device
        let done (q : StageQueue) : StageQueue := { q with unpublished := q.unpublished.filter fun i => i != op.tgt }
        (commitBlock { s with pipes := updateBy Pipe.pid p.pid (fun p => { p with queues := updateBy StageQueue.index op.ea done p.queues }) s.pipes }
          g.bid, .ok ())

/-! ### RREL (R161, R322) -/

/-- A raster batch that an RREL may have to wait for: not complete, a quad not dequeued, or a fibre that dequeued one not yet quit. -/
def RasterJob.open_ (r : RasterJob) : Bool := !r.done || !r.quads.isEmpty || !r.users.isEmpty

/-- The batches that an RREL of a lane waits for: those whose RDRAW precedes it, in its fibre's program order or through an acquire that
the fibre has completed (R161; log entry 40). -/
def rrelWaits (g : Group) (lane seq : Nat) (r : RasterJob) : Bool :=
  decide (r.id < seq) && r.before.contains (g.gid, lane)

/-- RREL: once earlier accesses of the lane have performed and its batches and their fibres are done, the writes of those fibres and
its own release set are performed (R161). -/
def rrelLane (s : State) (g : Group) (fl : Flight) (op : LaneOp) : State × Bool :=
  let rs := s.rasters.filter (rrelWaits g op.lane fl.seq)
  if rs.any RasterJob.open_ || g.flights.any (fun e => decide (e.seq < fl.seq) && (e.isMem || e.kind == .enq) && e.standsIn (laneBit op.lane)) then (s, false)
  else
    let past := rs.flatMap RasterJob.past
    let s := (List.range coreCount).foldl (fun s c => performSome s c fun w => past.contains (w.gid, w.lane)) s
    (releaseAt s g.core g.ctx g.gid op.lane (Scope.ofCode op.ea), true)

/-- An arithmetic word in flight may still raise flags in a lane; a uniform one does in every lane of its batch (R34, R35, R48). -/
def Flight.flagsDue (e : Flight) (lane : Nat) : Bool :=
  match e.kind with
  | .alu flags => if e.uniform then e.pending != 0 && flags.any fun p => p.1 == lane else inMask e.pending lane
  | _ => false

/-- A read for a fibre of a group, its charge its block's too (R347). -/
def shareRead {α : Type} (s0 : State) (g : Group) (r : State × α) : State × α := (shareBlock s0 g.ctx g.bid r.1, r.2)

/-- One lane performs (R105 steps 5 and 6, R120, R122, R130, R131, R236, R352, R443). -/
def performLane (s : State) (g : Group) (fl : Flight) (op : LaneOp) : State × LaneDone :=
  let f := fieldsOfInstr fl.instr
  let ty := f.ty.toNat
  let helper := (g.fibre op.lane).helper && !fl.uniform
  match fl.kind with
  | .alu _ => (s, .done op.data)
  | .load .global => readEnd fl.instr helper (loadWords ty) (globalLoad s g op.lane (fl.fibresOf op) op.ea fl.size f.rm.toNat)
  | .load .priv =>
    let s := privFill s g op.lane op.ea fl.size
    if privLate s g op.lane op.ea fl.size then (s, .later) else
    readEnd fl.instr helper (loadWords ty) (charge s g.ctx g.bid (fl.size * uL1), privLoad ((s.group? g.gid).getD g) op.lane op.ea fl.size)
  | .load _ =>
    readEnd fl.instr helper (loadWords ty) (charge s g.ctx g.bid (fl.size * uL1), scratchLoad s op.tgt op.ea fl.size)
  | .store .global =>
    match globalStore s g op.lane (fl.fibresOf op) op.ea (storeBytes ty op.data) f.rm.toNat fl.seq (fl.wholeSectors g op) with
    | (s, .ok ()) => (s, .done [])
    | (s, .error e) => (s, .hold e)
  | .store .priv =>
    let s := privFill s g op.lane op.ea fl.size
    if privLate s g op.lane op.ea fl.size then (s, .later) else
    let s := charge s g.ctx g.bid (fl.size * uL1)
    (privRoom (s.modGroup g.gid fun g => privStore g op.lane op.ea (storeBytes ty op.data) (fl.wholeSectors g op)) g.core, .done [])
  | .store _ =>
    let s := scratchStore (charge s g.ctx g.bid (fl.size * uL1)) op.tgt op.ea (storeBytes ty op.data)
    (commitOther (scratchClear s op.tgt (fl.wholeSectors g op)) g op.tgt, .done [])
  | .atomic .scratch =>
    if helper then helperAtomic s g fl op
    else
      match scratchLoad s op.tgt op.ea fl.size with
      | .error e => (s, .hold e)
      | .ok bs =>
        let old := ofBytes bs
        let s := charge s g.ctx g.bid (fl.size * uL1)
        let s := if relOrder f then releaseAll s g (fl.fibresOf op) (atomScope f) else s
        let s := commitOther (scratchStore s op.tgt op.ea (toBytes ((atomNew fl.instr old op.data).getD old) fl.size)) g op.tgt
        (if acqOrder f then acquireAll s g (fl.fibresOf op) (atomScope f) else s, .done (atomOuts fl.instr old))
  | .atomic _ =>
    if helper then helperAtomic s g fl op
    else
      match globalAtomic s g fl.instr op.lane (fl.fibresOf op) op.ea op.data with
      | (s, .ok ws) => (s, .done ws)
      | (s, .error e) => (s, .hold e)
  | .fetch =>
    readEnd fl.instr helper (loadWords ty)
      (shareRead s g (grinderRead s g.core g.ctx op.ea fl.size f.rm.toNat))
  | .fetch3 =>
    match shareRead s g (fetch3Words (fun s a n => grinderRead s g.core g.ctx a n 0) op.ea (field (nth op.data 0) 0 32)
        (field (nth op.data 1) 0 32) (field (nth op.data 2) 0 32) s) with
    | (s, .ok ws) => (s, .done ws)
    | (s, .error (.held _)) => (s, .later)
    | (s, .error e) => (s, if helper then .done [0, 0] else .hold e)
  | .kget =>
    match s.groups.find? fun x => x.bid == g.bid && x.index == op.ea && x.fibres.any (fun y => y.live) with
    | none => (s, .done [0])
    | some x =>
      if (nth x.k (f.sa.toNat - 0x80)).full then (s, .done [kgetVal s g x fl.batch (f.sa.toNat - 0x80)]) else (s, .later)
  | .sread => (s, if g.flights.any (fun e => decide (e.seq < fl.seq) && e.flagsDue op.lane) then .later else .done op.data)
  | .erd => (s, .done [erdVal s g op.ea])
  | .wpget =>
    let r := wpVal s g op.ea
    (acquireAll s g (fl.fibresOf op) .device, .done r)
  | .enq =>
    (match publishRecord s g op with
     | (s, .ok ()) => (s, .done [])
     | (s, .error e) => (s, .hold e))
  | .rrel => (match rrelLane s g fl op with | (s, true) => (s, .done []) | (s, false) => (s, .later))
  | .tbar =>
    (match tbAgain s g fl.instr op with
     | none => (s, .later)
     | some (s, .ok ()) => (s, .done [])
     | some (s, .error e) => (s, .hold e))
  | .march => if op.tgt = 0 then (s, .done [0x7F800000, 1]) else (s, .later)
  | .mmove =>
    (match mmoveVal s g op with
     | none => (s, .later)
     | some outs => (charge s g.ctx g.bid (8 * op.tgt * uL1), .tainted outs))
  | _ => (s, .later)

/-! ### Writing results -/

/-- The results of one lane reach its registers, which turn full; those of a fibre that has quit are dropped (R27, R97). -/
def writeLane (g : Group) (fl : Flight) (lane : Nat) (outs : List Word) : Group :=
  let d := (resultRegs fl.instr).1
  if fl.uniform then
    (List.range outs.length).foldl (fun g j =>
      let n := d - 0x80 + j
      { g with
        k := g.k.set n ⟨nth outs j, true, false⟩
        kpend := g.kpend.filter fun p => !(p.idx == n && decide (p.seq < fl.seq)) }) g
  else
    g.modFibre lane fun x =>
      (List.range outs.length).foldl (fun x j =>
        match vIndex g (d + j) with
        | some n => if x.live then putLate x fl.seq n (nth outs j) false else markFull x n
        | none => x) x

/-- The lanes' destinations turn full with what they hold (R442). -/
def fillLane (g : Group) (fl : Flight) (lane : Nat) : Group :=
  let d := fl.regs
  if fl.uniform then
    (List.range d.2).foldl (fun g j => { g with k := g.k.set (d.1 - 0x80 + j) { nth g.k (d.1 - 0x80 + j) with full := true } }) g
  else
    g.modFibre lane fun x =>
      (List.range d.2).foldl (fun x j =>
        match vIndex g (d.1 + j) with
        | some n => markFull x n
        | none => x) x

/-- A finished lane of a flight. -/
def Flight.finish (fl : Flight) (lane : Nat) : Flight :=
  { fl with
    pending := fl.pending &&& ~~~laneBit lane
    done := fl.done ||| laneBit lane
    held := fl.held.filter fun h => h.1 != lane }

/-- Replace a flight, dropping it once no lane is pending. -/
def Group.putFlight (g : Group) (fl : Flight) : Group :=
  { g with
    flights := if fl.pending = 0 then g.flights.filter fun e => e.seq != fl.seq
      else g.flights.map fun e => if e.seq == fl.seq then fl else e }

/-- Flags raised by an arithmetic word reach STATUS, and any later SREAD of STATUS that waits for them (R34, R35). -/
def lateFlags (g : Group) (seq lane : Nat) (fl : Flags) : Group :=
  let g := g.modFibre lane fun x => raiseFlags x fl
  { g with
    flights := g.flights.map fun e =>
      match e.kind with
      | .sread =>
        if e.seq > seq then
          { e with ops := e.ops.map fun o =>
              if o.ea == 0 && o.lane == lane then { o with data := o.data.map fun w => w ||| (fl.zeroExtend 64 <<< 16) } else o }
        else e
      | _ => e }

/-- The lanes whose flags of an arithmetic word reach them when lane `lane` completes: every one of a uniform word (R48). -/
def flagLanes (fl : Flight) (lane : Nat) : List (Nat × Flags) :=
  match fl.kind with
  | .alu flags => if fl.uniform then flags else flags.filter fun p => p.1 == lane
  | _ => []

/-- What FP_ENABLED reports (R426): the enabled flags raised, and where the word stands. -/
def fpDetail (en : Flags) (woff seg : Nat) : Nat := en.toNat + woff * 256 + seg * 2 ^ 32

/-- Registers written from poisoned entries are poisoned (R454). -/
def taintLane (g : Group) (fl : Flight) (lane : Nat) (bads : List Bool) : Group :=
  let d := (fieldsOfInstr fl.instr).dst.toNat
  (List.range bads.length).foldl (fun g j =>
    if !nth bads j then g
    else if fl.uniform then { g with k := g.k.set (d - 0x80 + j) { nth g.k (d - 0x80 + j) with poison := true } }
    else g.modFibre lane fun x =>
      match vIndex g (d + j) with
      | some n => if x.live then { x with v := x.v.set n { nth x.v n with poison := true } } else x
      | none => x) g

/-- The 8-byte accesses of a lane of a plain load or store (R138); private bytes are the fibre's own, and one access stands for them. -/
def Flight.pieces (fl : Flight) : Nat :=
  match fl.kind with
  | .load .priv | .store .priv => 1
  | .load _ | .store _ => max 1 (fl.size / 8)
  | _ => 1

/-- The b64 form of a plain load or store. -/
def narrow (i : Instr) : Instr :=
  match i with
  | .ld f => .ld { f with ty := 0 }
  | .st f => .st { f with ty := 0 }
  | .lds f => .lds { f with ty := 0 }
  | .sts f => .sts { f with ty := 0 }
  | .ldrs f => .ldrs { f with ty := 0 }
  | .strs f => .strs { f with ty := 0 }
  | i => i

/-- Whether a lane of a wide load or store makes one of its 8-byte accesses before the rest in this step: a free choice, since they bear
no order among themselves (R138). -/
def splitNow (s : State) (fl : Flight) (lane : Nat) : Bool :=
  decide (fl.pieces - (fl.parts.filter fun p => p.1 == lane).length > 1) && (s.freeVal (14000 + lane)).getLsbD 0

/-- A fault of a piece of a wide access is reported at the lane's own address (R426). -/
def LaneDone.at_ (va : Nat) : LaneDone → LaneDone
  | .hold (.page _ np) => .hold (.page va np)
  | .hold (.access _) => .hold (.access va)
  | .hold (.poison _) => .hold (.poison va)
  | d => d

/-- One of the 8-byte accesses. -/
def performPiece (s : State) (g : Group) (fl : Flight) (op : LaneOp) (j : Nat) : State × LaneDone :=
  let r := performLane s g { fl with instr := narrow fl.instr } { op with ea := op.ea + 8 * j, data := [nth op.data j] }
  (r.1, r.2.at_ op.ea)

/-- A lane of a wide store has made all its accesses: the sectors that its word now covers whole are poisoned no more once every write of
the word has reached them (R454). -/
def pieceClears (s : State) (g : Group) (fl : Flight) (op : LaneOp) : State :=
  let whole := fl.wholeSectors g op
  if !fl.writes || whole.isEmpty then s
  else if fl.space = .global then
    let mine (w : PendWrite) : Bool := w.ctx == g.ctx && w.gid == g.gid && w.word == fl.seq
    s.modCore g.core fun c =>
      { c with
        l1 := c.l1.map fun l => if l.ctx == g.ctx then { l with bad := l.bad.filter fun p => !whole.contains (l.line * 4 + p.1) } else l
        pend := c.pend.map fun w => if mine w then
          { w with clears := w.clears ++ whole.filter fun x => overlap w.va w.bytes.length (32 * x) 32 && !w.clears.contains x } else w }
  else scratchClear s op.tgt whole

/-- The 8-byte accesses of a list, one after the other, with the words that a load's give. -/
def performPieces (s : State) (g : Group) (fl : Flight) (op : LaneOp) : List Nat → State × LaneDone × List (Nat × Nat × Word)
  | [] => (s, .done [], fl.parts)
  | j :: rest =>
    match performPiece s g fl op j with
    | (s, .done ws) => performPieces s g { fl with parts := fl.parts ++ [(op.lane, j, nth ws 0)] } op rest
    | (s, d) => (s, d, fl.parts)

/-- One lane performs, or makes the part of its accesses that this step gives it; and what it has made so far (R138). A helper's access
that failed a check at issue gives zero (R79). -/
def performParts (s : State) (g : Group) (fl : Flight) (op : LaneOp) (split : Bool) : State × LaneDone × List (Nat × Nat × Word) :=
  let made := (fl.parts.filter fun p => p.1 == op.lane).map fun p => p.2.1
  if inMask fl.void op.lane then (s, .done (helperZeros fl.instr), fl.parts)
  else
    let todo := (List.range fl.pieces).filter fun j => !made.contains j
    if split && splitNow s fl op.lane then
      let j := nth todo ((s.freeVal (14100 + op.lane)).toNat % todo.length)
      match performPieces s g fl op [j] with
      | (s, .done _, ps) => (s, .later, ps)
      | r => r
    else if made.isEmpty then
      let r := performLane s g fl op
      (r.1, r.2, fl.parts)
    else
      match performPieces s g fl op todo with
      | (s, .done _, ps) =>
        let s := pieceClears s g fl op
        let word (j : Nat) : Word := match ps.find? fun p => p.1 == op.lane && p.2.1 == j with | some p => p.2.2 | none => 0
        (s, .done (if fl.writes then [] else (List.range fl.pieces).map word), ps)
      | r => r

/-- A lower lane of a store on the same bytes that is held: the lane is held with it, so that the two perform in their order (R107; log
entry 217). -/
def heldBelow (fl : Flight) (op : LaneOp) : Option (Nat × Cause × Nat) :=
  if !fl.writes then none
  else fl.held.find? fun h => decide (h.1 < op.lane) && fl.ops.any fun o => o.lane == h.1 && o.tgt == op.tgt && overlap o.ea fl.size op.ea fl.size

/-- The kind of access of a word in flight, and the agent that a fault of it names (R396). -/
def Flight.access (fl : Flight) : Access :=
  match fl.kind with
  | .store _ | .enq => .write
  | .atomic _ => if opOf fl.instr = 0xA7 then .reduce else .atomic
  | _ => .read
def Flight.agent (fl : Flight) : Nat := match fl.kind with | .fetch | .fetch3 => 2 | _ => 0

/-- A lane is held, and a translation fault is filed (R106, R396). -/
def holdOp (s : State) (g : Group) (fl : Flight) (lane : Nat) (e : PortErr) (parts : List (Nat × Nat × Word)) : State :=
  let s := match e with
    | .page va np => fibreFault s g lane fl.seg fl.woff va fl.agent fl.access np
    | _ => s
  s.modGroup g.gid fun g => g.putFlight { fl with held := fl.held ++ [(lane, e.cause, e.addr)], parts := parts }

/-- One lane of a flight tries to complete (R27); `split` lets a wide access be made in parts. -/
def attemptLane (s : State) (gid seq lane : Nat) (split : Bool) : State × Option TrapInfo :=
  match s.group? gid with
  | none => (s, none)
  | some g =>
    match g.flights.find? fun e => e.seq == seq with
    | none => (s, none)
    | some fl =>
      match fl.ops.find? fun o => o.lane == lane with
      | none => (s, none)
      | some op =>
        if !inMask fl.pending lane || (fl.held.any fun h => h.1 == lane) || !laneFree g fl op then (s, none)
        else
          match heldBelow fl op with
          | some h =>
            (holdOp s g fl lane (match h.2.1 with | .pageFault => .page op.ea true | .poison => .poison op.ea | _ => .access op.ea) fl.parts, none)
          | none =>
          match performParts s g fl op split with
          | (s, .later, ps) | (s, .hold (.held _), ps) =>
            (if ps = fl.parts then s else s.modGroup gid fun g => g.putFlight { fl with parts := ps }, none)
          | (s, .hold e, ps) => (holdOp s g fl lane e ps, none)
          | (s, .tainted outs, _) =>
            (s.modGroup gid fun g =>
              (taintLane (writeLane g fl lane (outs.map Prod.fst)) fl lane (outs.map Prod.snd)).putFlight (fl.finish lane), none)
          | (s, .done outs, _) =>
            let flags := flagLanes fl lane
            let s := s.modGroup gid fun g =>
              flags.foldl (fun g p => lateFlags g seq p.1 p.2) ((writeLane g fl lane outs).putFlight (fl.finish lane))
            let hit := flags.filter fun p => enabledFlags (g.fibre p.1).status p.2 != 0
            match hit with
            | [] => (s, none)
            | _ =>
              (s, some ⟨.fpEnabled, 4, maskOf (hit.map (·.1)),
                fpDetail (hit.foldl (fun a p => a ||| enabledFlags (g.fibre p.1).status p.2) 0) fl.woff fl.seg, 0, g.obj, fl.seg, fl.woff, 0, 0⟩)

/-- The lanes of a list try in order; the first trap found is kept, with the lanes of its kind. -/
def attemptLanes (s : State) (gid seq : Nat) (lanes : List Nat) (split : Bool) : State × Option TrapInfo :=
  lanes.foldl (fun r l =>
    let x := attemptLane r.1 gid seq l split
    (x.1, match r.2, x.2 with
      | none, t => t
      | some t, none => some t
      | some t, some u => some { t with lanes := t.lanes ||| u.lanes, detail := Nat.lor t.detail u.detail })) (s, none)

/-- Sequence numbers of a group's flights that a test picks, oldest first. -/
def flightSeqs (s : State) (gid : Nat) (pick : Flight → Bool) : List Nat :=
  match s.group? gid with
  | some g => (g.flights.filter pick).map Flight.seq
  | none => []

/-- Every picked flight tries every lane, oldest flight first; with the traps found, each under its word's place in issue order and the
lanes of its batch. -/
def sweepWith (split : Bool) (s : State) (gid : Nat) (pick : Flight → Bool) : State × List HeldTrap :=
  (flightSeqs s gid pick).foldl (fun r q =>
    let lanes := match (r.1.group? gid).bind fun g => g.flights.find? fun fl => fl.seq == q with | some fl => fl.lanes | none => 0
    let x := attemptLanes r.1 gid q (List.range 32) split
    (x.1, r.2 ++ (x.2.map fun t => (⟨q, t, lanes⟩ : HeldTrap)).toList)) (s, [])

/-- Every lane that can complete does. -/
def sweep (s : State) (gid : Nat) (pick : Flight → Bool) : State × List HeldTrap := sweepWith false s gid pick

/-- A trap waits behind those of its group that come from words issued before its own (R427). -/
def holdTrap (s : State) (gid : Nat) (h : HeldTrap) : State :=
  s.modGroup gid fun g =>
    { g with held := g.held.filter (fun x => decide (x.seq ≤ h.seq)) ++ [h] ++ g.held.filter (fun x => decide (h.seq < x.seq)) }

/-- What can complete does, and the traps found wait (R427, R428, R446). -/
def sweepHeld (s : State) (gid : Nat) : State :=
  let r := sweep s gid fun _ => true
  r.2.foldl (fun s h => holdTrap s gid h) r.1

/-- A store or a reduction: nothing comes back to the fibre. -/
def Flight.noResult (fl : Flight) : Bool :=
  match fl.kind with
  | .store _ | .enq | .rrel | .tbar => true
  | _ => opOf fl.instr == 0xA7

/-- Stores and reductions that waited for an earlier access of their fibre perform as soon as they may (R141); the lanes of an ENQ publish one
by one, as their own events come (R372, R373). -/
def drainStores (s : State) (gid : Nat) : State := (sweepWith true s gid fun fl => fl.noResult && fl.kind != .enq).1

/-- VARIABLE_LATENCY_RESULT's effect on one word: its lanes complete, and the stores behind them. -/
def completeLanes (s : State) (gid seq : Nat) (lanes : Mask) : State × Option TrapInfo :=
  let r := attemptLanes s gid seq (lanesOf lanes) true
  (drainStores r.1 gid, r.2)

/-- A held lane that a trap reports: its cause is not a page fault, or the context's policy is to trap at those (R397). -/
def heldTraps (s : State) (g : Group) (h : Nat × Cause × Nat) : Bool :=
  if h.2.1 = .pageFault then
    (match s.context? g.ctx with | some c => c.fpol == 2 | none => false)
  else true

/-- The structure code of the poison that a read of `n` bytes met: of the copy in the core's L1, or in its Grinder cache, or of the home (R452). -/
def poisonCodeAt (s : State) (g : Group) (grinder : Bool) (va n : Nat) : Nat :=
  let copies := match s.core? g.core with
    | some c => if grinder then c.grinder else c.l1
    | none => []
  match copies.findSome? fun l => if l.ctx == g.ctx then l.badIn va n else none, s.context? g.ctx with
  | some code, _ => code
  | none, some c =>
    (match walk s c va with
     | .leaf _ e bits =>
       let t := leafTarget e bits va
       ((sectors va n).findSome? fun x =>
         let t := t.shift ((32 * x : Nat) - (va : Int))
         if (readTarget s t 32).2 then some (targetCode s t) else none).getD 1
     | _ => 1)
  | none, none => 1

/-- The boundary trap of a flight all of whose pending lanes are held (R426): the cause of its lowest failing lane; a page fault's waits
until its record has a ring slot (R397). A ray job, a
PRUNE or a PUBLISH parks instead (R316, R318, R416), but for a PRUNE that step 3 of R105 refuses, which `tgt` marks. -/
def heldTrap (s : State) (g : Group) (fl : Flight) : Option TrapInfo :=
  let parks := match fl.kind with
    | .publish | .march => true
    | .prune => !(fl.ops.any fun o => o.tgt == 2 ^ 128)
    | _ => false
  if parks || fl.held.isEmpty || !((lanesOf fl.pending).all fun l => fl.held.any fun h => h.1 == l) then none
  else
    match minBy (fun (h : Nat × Cause × Nat) => h.1) (fl.held.filter (heldTraps s g)) with
    | none => none
    | some h =>
      if h.2.1 = .pageFault ∧ (faultSlot s g.ctx h.2.2).isNone = true then none else
      let same := fl.held.filter fun x => x.2.1 == h.2.1
      let detail := match h.2.1 with
        | .pageFault => (faultSlot s g.ctx h.2.2).getD 0
        | .poison =>
          (match fl.space with
           | .global => poisonCodeAt s g fl.readOnly h.2.2 fl.size
           | .priv => (match (privSectors g h.1 h.2.2 fl.size).findSome? fun x => g.privPoison.find? fun p => p.1 == x with
             | some p => p.2 | none => 3)
           | _ => 3)
        | _ => 0
      some ⟨h.2.1, 4, maskOf (same.map fun x => x.1), detail, h.2.2, g.obj, fl.seg, fl.woff, 0, 0⟩

end Sys2Proof.Machine
end

