-- ==== Sys2Proof/Machine/Trace.lean ====
section
/-! DEFINITION. The trace buffer and its records (R478 to R481, R484). -/

namespace Sys2Proof.Machine

/-- TRACECTL's bits, as a group took them at its latest safe point (R478). -/
def trEN (g : Group) : Bool := g.trace.getLsbD 63
def trSAFE (g : Group) : Bool := g.trace.getLsbD 62
def trPROF (g : Group) : Bool := g.trace.getLsbD 61
def trPMC (g : Group) : Bool := g.trace.getLsbD 60
def trUnits (g : Group) : Nat := 2 ^ (field g.trace 56 4 + 8)

/-- The group is traced (R478). -/
def traced (s : State) (g : Group) : Bool :=
  trEN g && (g.trace.getLsbD 32
    || (field g.trace 33 5 == g.index && field g.trace 0 32 == ((s.block? g.bid).getD default).linear))

/-- The next safe point of every group of a context makes a SYNC (R481). -/
def needSync (s : State) (ctx : Nat) : State :=
  { s with groups := s.groups.map fun g => if g.ctx == ctx then { g with sync := 0 } else g }

/-- A record as 16-byte units from TRBUF + 64, modulo the size. -/
def traceParts (base size tail : Nat) (bs : List Byte) : List (Nat × List Byte) :=
  (List.range (bs.length / 16)).map fun i => (base + 64 + 16 * ((tail + i) % size), (bs.drop (16 * i)).take 16)

/-- A record of the context has been dropped, or a SYNC has been written since (R479). -/
def markGap (s : State) (ctx : Nat) (gap : Bool) : State := s.modContext ctx fun c => { c with traceGap := gap }

/-- Units from TTAIL on are written, and TTAIL is advanced past them. -/
def tracePut (s : State) (g : Group) (base size tail : Nat) (bs : List Byte) : State :=
  let s := (traceParts base size tail bs).foldl (fun s p => (engineWrite s g.core g.ctx p.1 p.2).1) s
  (engineWrite s g.core g.ctx (base + 4) (toBytes ((tail + bs.length / 16) % size) 4)).1

/-- A record is dropped and counted in TLOST (R479). -/
def traceDrop (s : State) (g : Group) (base lost : Nat) : State :=
  markGap (needSync (engineWrite s g.core g.ctx (base + 8) (toBytes (lost + 1) 4)).1 g.ctx) g.ctx true

/-- Write one record of a group, and before it a SYNC where one is given, or drop it (R479). A record fits when the units it takes leave the
tail short of THEAD. A buffer that does not translate takes nothing. -/
def traceWrite (s : State) (g : Group) (sync bs : List Byte) : State :=
  match s.context? g.ctx with
  | none => s
  | some c =>
    if c.trbuf = 0 ∨ trEN g = false then s
    else
      match engineRead s g.core g.ctx c.trbuf 12 with
      | (s, .error _) => s
      | (s, .ok hd) =>
        let size := trUnits g
        let tail := byteField hd 4 4 % size
        let used := (tail + size - byteField hd 0 4 % size) % size
        let fits (bs : List Byte) : Bool := decide (used + bs.length / 16 < size)
        if fits (sync ++ bs) then
          markGap (tracePut s g c.trbuf size tail (sync ++ bs)) g.ctx (c.traceGap && sync.isEmpty && byteField bs 0 1 != 1)
        else
          let s := if fits sync && !sync.isEmpty then tracePut s g c.trbuf size tail sync else s
          traceDrop s g c.trbuf (byteField hd 8 4)

/-- SAFE and RET records (R480): KIND, the group, 16 bits, the lanes and GTS. -/
def unitRec (kind group lo16 : Nat) (lanes : Mask) (gts : Nat) : List Byte :=
  toBytes kind 1 ++ toBytes group 1 ++ toBytes lo16 2 ++ toBytes lanes.toNat 4 ++ toBytes gts 8

/-- A SYNC record (R480). -/
def syncRec (group block ord handle gts woff : Nat) : List Byte :=
  toBytes 1 1 ++ toBytes group 1 ++ toBytes block 4 ++ toBytes 0 2 ++ toBytes ord 4 ++ toBytes handle 4 ++ toBytes gts 8
    ++ toBytes woff 4 ++ toBytes 0 4

/-- A SYNC record that is due is written before any later record of its context (R481). -/
def flushSync (s : State) (gid : Nat) : State :=
  match s.group? gid with
  | none => s
  | some g =>
    match g.syncDue with
    | none => s
    | some bs => traceWrite (s.modGroup gid fun g => { g with syncDue := none }) g [] bs

/-- Every SYNC due in a context. -/
def flushSyncs (s : State) (ctx : Nat) : State :=
  ((s.groups.filter fun g => g.ctx == ctx && g.syncDue.isSome).map Group.gid).foldl flushSync s

/-- One record of a traced group, after the SYNCs due. The first one after a dropped record follows a SYNC for its own place (R479; log entry
222). -/
def traceRec (s : State) (g : Group) (place : Nat × Nat) (bs : List Byte) : State :=
  let s := flushSyncs s g.ctx
  let sync := syncRec g.index ((s.block? g.bid).getD default).linear place.1 (g.obj % 2 ^ 32) s.gts place.2
  traceWrite s g (if ((s.context? g.ctx).getD default).traceGap then sync else []) bs

/-- A traced group's batch issues a word with S = 1: a SAFE record, or a SYNC that falls due (R481). -/
def traceSafe (s : State) (g : Group) (ord woff : Nat) (lanes : Mask) : State :=
  if !(traced s g && trSAFE g) || lanes == 0 then s
  else if g.sync = 0 ∨ g.sync ≥ 256 then
    let r := syncRec g.index ((s.block? g.bid).getD default).linear ord (g.obj % 2 ^ 32) s.gts woff
    (flushSyncs s g.ctx).modGroup g.gid fun g => { g with sync := 1, syncDue := some r }
  else
    (traceRec s g (ord, woff) (unitRec 2 g.index (ord % 65536) lanes s.gts)).modGroup g.gid fun g =>
      { g with sync := if g.sync = 0 then 0 else g.sync + 1 }

/-- A RET word of a traced group, but not for helpers alone, by its name (R79, R90, R480). -/
def traceRet (s : State) (g : Group) (place : Nat × Nat) (lanes : Mask) : State :=
  if traced s g && trSAFE g && (lanesOf lanes).any (fun l => !(g.fibre l).helper) then
    traceRec s g place (unitRec 3 g.index (place.2 % 65536) lanes s.gts)
  else s

/-- A TRAP record of a traced group (R480). -/
def traceTrap (s : State) (g : Group) (t : TrapInfo) : State :=
  if traced s g then traceRec s g (placeName s g t.lanes t.seg t.woff) (unitRec 4 g.index t.cause.code t.lanes s.gts) else s

end Sys2Proof.Machine
end

