-- ==== Sys2Proof/Machine/Fetch.lean ====
section
/-! DEFINITION. Code objects and instruction fetch (R73, R74, R118, R410 to R412), the words of a segment, loop positions (R88,
R89) and the stepping of REP (R99). -/

namespace Sys2Proof.Machine

/-- The object a launch or a handler may name: loaded and not retired (R411). -/
def State.loaded? (s : State) (ctx handle : Nat) : Option CodeObj :=
  s.objects.find? fun o => o.ctx == ctx && o.handle == handle && !o.retired

/-- The loader's two words (R412): `^publish k0, k63` and `quit`, from the encodings of R418 and R92. -/
def loaderWords : List Word :=
  [0x8000000000000000#64 ||| (0xF4#64 <<< 54) ||| (0x80#64 <<< 41) ||| (0xBF#64 <<< 32), 0x01C0000000000000#64]

/-- The address of a word (R410). -/
def CodeObj.addr (o : CodeObj) (seg woff : Nat) : Nat := o.exec + o.code + 8 * o.offset seg woff

/-- Read one word of instruction memory at a virtual address; none where the page is absent, forbidden or poisoned (R118). -/
def fetchVa (s : State) (core ctx va : Nat) : State × Option Word :=
  match portParts s core ctx va 8 .fetch [] with
  | (s, .error _) => (s, none)
  | (s, .ok parts) =>
    let r := homeBytes s parts
    (s, if r.2 then none else some (w64 (ofBytes r.1)))

/-- A fetch of these words, in order, failed: its translation fault, if it met one, is filed (R396). -/
def fileFetch (s : State) (core ctx agent : Nat) : List Nat → State
  | [] => s
  | va :: rest =>
    match portParts s core ctx va 8 .fetch [] with
    | (_, .error (.page a np)) => fileFault s ctx a agent .fetch np
    | (_, .error _) => s
    | (_, .ok parts) => if (homeBytes s parts).2 then s else fileFetch s core ctx agent rest

/-- One word of a segment. -/
def fetchAt (s : State) (core : Nat) (o : CodeObj) (seg woff : Nat) : State × Option Word :=
  if o.loader then (s, loaderWords[woff]?) else fetchVa s core o.ctx (o.addr seg woff)

/-- Words an instruction takes in memory (R51). -/
def wordCount (i : Instr) : Nat := if hasLiteral i then 2 else 1

/-- The end-of-segment instructions (R73). -/
def isEnd (i : Instr) : Bool :=
  match i with
  | .next _ | .nextp _ | .nextx _ | .call _ | .ret _ | .quit _ => true
  | _ => false

/-- Fetch and decode the instruction at a word of a segment (R65, R118). -/
def fetchDecode (s : State) (core : Nat) (o : CodeObj) (seg woff : Nat) : State × Except Cause Instr :=
  match fetchAt s core o seg woff with
  | (s, none) => (s, .error .ifetchFault)
  | (s, some w) =>
    match decode false w 0 with
    | .error c => (s, .error c)
    | .ok i =>
      if hasLiteral i then
        match fetchAt s core o seg (woff + 1) with
        | (s, none) => (s, .error .ifetchFault)
        | (s, some l) => (s, decode false w l)
      else (s, .ok i)

/-- The word offset of the end instruction at or after a word, found by walking the instructions; the segment's last word where
none is found. -/
def endOffset (s : State) (core : Nat) (o : CodeObj) (seg : Nat) : Nat → Nat → Nat
  | 0, woff => woff
  | fuel + 1, woff =>
    match (fetchDecode s core o seg woff).2 with
    | .ok i => if isEnd i then woff else endOffset s core o seg fuel (woff + wordCount i)
    | .error _ => endOffset s core o seg fuel (woff + 1)

/-- The safe point at a word, with its ordinal (R408, R409). -/
def CodeObj.safeAt (o : CodeObj) (seg woff : Nat) : Option (Nat × SafePoint) :=
  ((List.range o.safes.length).zip o.safes).find? fun p => p.2.woff == o.offset seg woff

/-- The live map of a segment's first safe point (R91). -/
def CodeObj.liveMap (o : CodeObj) (seg : Nat) : Nat := nth o.maps (nth o.segs seg).liveix

/-! ### Loop positions -/

/-- A level's end. -/
def LoopLvl.last (l : LoopLvl) : Nat := l.first + l.len

/-- The batch stands at the end of a pass of its innermost loop (R98). A body whose last word's literal lies outside it, of which the spec
says nothing, never ends a pass there (DESIGN CHOICE, log entry 207). -/
def Batch.atPassEnd (b : Batch) : Bool :=
  b.rep.isNone &&
  match b.members with
  | [] => false
  | m :: _ =>
    match m.loops with
    | [] => false
    | l :: _ => decide (b.woff = l.last)

/-- One group's stack at a pass end: the count falls and the body starts again, or the level is popped (R98). -/
def passEnd1 (loops : List LoopLvl) : List LoopLvl × Option Nat :=
  match loops with
  | [] => ([], none)
  | l :: rest => if l.count ≥ 2 then ({ l with count := l.count - 1 } :: rest, some l.first) else (rest, none)

/-- Where a fibre next issues, given its word offset and stack: pass ends at that word are worked off, and a lane that a spent level
keeps absent goes to the word after that level's body (R89). `fuel` counts levels. -/
def settlePos (segEnd : Nat) : Nat → Nat → List LoopLvl → Nat × List LoopLvl
  | 0, woff, loops => (woff, loops)
  | fuel + 1, woff, loops =>
    match loops with
    | [] => (woff, [])
    | l :: rest =>
      if l.count = 0 then settlePos segEnd fuel (min l.last segEnd) rest
      else if woff = l.last then
        match passEnd1 (l :: rest) with
        | (ls, some w) => (w, ls)
        | (ls, none) => settlePos segEnd fuel woff ls
      else (woff, loops)

/-- A stop before the first repeat of a REP has completed stands at the REP word itself (R99, R435). -/
def repPos (woff : Nat) (rep : Option RepSt) : Nat × Option RepSt :=
  match rep with
  | some r => if r.done = 0 then (woff - 1, none) else (woff, some r)
  | none => (woff, none)

/-! ### REP -/

/-- The step of a REP code (R99). -/
def repStepOf (c : Nat) : Nat := nth [0, 1, 2, 4] c

/-- A field after a step: a v or k register moves on, and leaving its file is barred at that repeat (R99). -/
def stepCode (code step : Nat) : Option Nat :=
  let n := code + step
  if step = 0 then some code
  else if isV code then (if n < 0x80 then some n else none)
  else if isK code then (if n < 0xC0 then some n else none)
  else none

/-- The instruction with its register fields as a REP has stepped them (R99); codes past their file are ILLEGAL_OPERAND. -/
def withRep (i : Instr) (r : RepSt) : Except Cause Instr :=
  match formOf i with
  | .full row f =>
    if r.d < 512 ∧ r.a < 512 ∧ r.b < 512 ∧ r.c < 512 then
      match ofOp row.op { f with dst := BitVec.ofNat 9 r.d, sa := BitVec.ofNat 9 r.a, sb := BitVec.ofNat 9 r.b, sc := BitVec.ofNat 9 r.c } with
      | some j =>
        match checkInstr j with
        | some c => .error c
        | none => .ok j
      | none => .error .illegalOpcode
    else .error .illegalOperand
  | _ => .ok i

/-- The state of a REP after one repeat; none when it was the last. A code that leaves its file is kept beyond 511. -/
def RepSt.next (r : RepSt) : Option RepSt :=
  if r.left ≤ 1 then none
  else
    let go (c s : Nat) : Nat := (stepCode c s).getD 512
    some { r with left := r.left - 1, done := r.done + 1, d := go r.d r.sd, a := go r.a r.sa, b := go r.b r.sb, c := go r.c r.sc }

/-! ### The batch in the issue slot -/

/-- The batch whose word is issuing; a stuffed word's stands under number 0 (R462). -/
def issuerBatch (s : State) : Option Batch :=
  match s.issue with
  | some (.batch id) => s.batch? id
  | some (.stuff _) => s.batch? 0
  | _ => none

def State.unissue (s : State) : State := { s with issue := none }

/-- The next instruction of a batch, stepped by a REP in progress (R65, R99, R118). Stuffed words come from the program buffer
(R462). -/
def fetchInstr (s : State) (b : Batch) : State × Except Cause Instr :=
  let r : State × Except Cause Instr :=
    match s.issue with
    | some (.stuff _) =>
      match decode false (nth s.progBuf b.woff) (nth s.progBuf (b.woff + 1)) with
      | .ok i => (s, .ok i)
      | .error c => (s, .error c)
    | _ =>
      match b.members with
      | [] => (s, .error .illegalOpcode)
      | m :: _ =>
        match s.group? m.gid with
        | none => (s, .error .illegalOpcode)
        | some g =>
          match s.object? g.ctx b.obj with
          | none => (s, .error .ifetchFault)
          | some o => fetchDecode s b.core o b.seg b.woff
  match r, b.rep with
  | (s, .ok i), some rp => (s, withRep i rp)
  | r, _ => r

/-- The linear identifier and width of a group's block, for the special sources (R31). -/
def srcCtx (s : State) (b : Batch) (g : Group) : SrcCtx :=
  let blk := (s.block? g.bid).getD default
  ⟨b.id, blk.linear, blk.gpb⟩

/-- The address of the word at a batch's position, for IFETCH_FAULT's ADDR (R426). -/
def wordAddr (s : State) (b : Batch) (ctx : Nat) : Nat :=
  match s.object? ctx b.obj with
  | some o => o.addr b.seg b.woff
  | none => 0

end Sys2Proof.Machine
end

