-- ==== Sys2Proof/Machine/Address.lean ====
section
/-! DEFINITION. Effective addresses and the checks of steps 2 to 4 of R105: alignment, bounds and range locks (R105 to R111, R153
to R157). -/

namespace Sys2Proof.Machine

/-- The effective address of an M-form word from its base and index (R44): the offset counts units of the access size. -/
def eaM (f : Fields) (size : Nat) (a b : Word) : Nat :=
  (a + b + BitVec.ofInt 64 (f.sc.toInt * (size : Int))).toNat

/-- A failed check: cause, address and detail (R426). -/
structure AccFail where
  cause : Cause
  addr : Nat
  detail : Nat
deriving DecidableEq, Repr, Inhabited

/-- Entries of a core's range-lock table with their numbers. -/
def rltEntries (s : State) (core : Nat) : List (Nat × RltEntry) :=
  match s.core? core with
  | none => []
  | some c => ((List.range c.rlt.length).zip c.rlt).filterMap fun p => p.2.map fun e => (p.1, e)

/-- A range as whole sectors: first sector's address and length in sectors (R153). -/
def sectorRange (base n : Nat) : Nat × Nat :=
  if n = 0 then (base / 32 * 32, 0) else (base / 32 * 32, (base + n - 1) / 32 - base / 32 + 1)

/-- An entry covers a byte of the range. -/
def RltEntry.hits (e : RltEntry) (space ctx base n : Nat) : Bool :=
  e.space == space && e.ctx == ctx && overlap e.base (32 * e.len) (base / 32 * 32) ((base + n + 31) / 32 * 32 - base / 32 * 32)

/-- The range lock an access of a fibre meets (R155): a write in a source range, a read or write in a destination range. Of several entries
the lowest index is reported, which the spec does not say (DESIGN CHOICE, log entry 211). -/
def rangeLock (s : State) (g : Group) (space base n : Nat) (writes : Bool) : Option Nat :=
  ((rltEntries s g.core).find? fun p => p.2.hits space g.ctx base n && (writes || p.2.dest)).map (·.1)

/-- The block of the same launch on a core of the cluster; where several stand there, which one is left open (R110; log entry 12). -/
def remoteBlock (s : State) (g : Group) (target : Nat) : Option Nat :=
  if target = g.core % 8 then some g.bid
  else
    let bs := s.blocks.filter fun b => b.lid == g.lid && b.ctx == g.ctx && b.core == g.core / 8 * 8 + target
    match bs with
    | [] => none
    | [b] => some b.bid
    | bs => (bs[(s.freeVal 8).toNat % bs.length]?).map Block.bid

/-- Steps 2 to 4 of R105 for one lane. `bid` is the block whose scratchpad is meant. -/
def accessFail (s : State) (g : Group) (sp : Space) (bid : Option Nat) (ea size : Nat) (writes : Bool) : Option AccFail :=
  if ea % size ≠ 0 then some ⟨.align, ea, 0⟩
  else
    match sp with
    | .priv => if ea + size > g.plimit then some ⟨.privLimit, ea, ea⟩ else none
    | .scratch | .remote =>
      match bid with
      | none => some ⟨.accessFault, ea, 0⟩
      | some b =>
        match s.block? b with
        | none => some ⟨.accessFault, ea, 0⟩
        | some blk =>
          if ea + size > blk.scr then some ⟨.accessFault, ea, 0⟩
          else if b = g.bid then (rangeLock s g 1 ea size writes).map fun i => ⟨.rangeLock, ea, i⟩
          else none
    | _ =>
      if ea ≥ 2 ^ 57 then some ⟨.accessFault, ea, 0⟩
      else (rangeLock s g 0 ea size writes).map fun i => ⟨.rangeLock, ea, i⟩

/-- The place of a cause among the steps of R105. -/
def stepRank : Cause → Nat
  | .align => 2
  | .privLimit => 3
  | .accessFault => 3
  | .rangeLock => 4
  | _ => 5

/-- The failure a word reports from those of its lanes: the earliest step, the lanes that failed at it, and the lowest such lane's
cause and address (R106). -/
def firstFail (fails : List (Nat × AccFail)) : Option (AccFail × Mask) :=
  match minBy (fun (p : Nat × AccFail) => stepRank p.2.cause * 64 + p.1) fails with
  | none => none
  | some p => some (p.2, maskOf ((fails.filter fun q => stepRank q.2.cause == stepRank p.2.cause).map fun q => q.1))

/-- The kind of flight of a variable-latency or storing word; none for the words that never stand in flight. -/
def flightKind (i : Instr) : Option FlightKind :=
  match i with
  | .ld _ => some (.load .global)
  | .lds _ => some (.load .scratch)
  | .ldp _ => some (.load .priv)
  | .ldrs _ => some (.load .remote)
  | .st _ => some (.store .global)
  | .sts _ => some (.store .scratch)
  | .stp _ => some (.store .priv)
  | .strs _ => some (.store .remote)
  | .atom _ | .red _ | .cas _ => some (.atomic .global)
  | .satom _ => some (.atomic .scratch)
  | .fetch _ => some .fetch
  | .fetch3 _ => some .fetch3
  | .kget _ => some .kget
  | .wpget _ => some .wpget
  | .erd _ => some .erd
  | _ => none

/-- Bytes of a memory word's access. -/
def accessSize (i : Instr) : Nat :=
  let f := fieldsOfInstr i
  match i with
  | .atom _ | .red _ | .satom _ | .cas _ => atomBytes f
  | .fetch3 _ => 64
  | _ => sizeBytes f.ty.toNat

/-- The effective address or number of a lane's operation from A and B (R44, R130, R131, R185, R236, R352). -/
def eaOf (i : Instr) (a b : Word) : Nat :=
  let f := fieldsOfInstr i
  match i with
  | .atom _ | .red _ | .satom _ | .cas _ | .ldrs _ | .strs _ => eaM f (accessSize i) a 0
  | .fetch _ => (a + b).toNat
  | .fetch3 _ => a.toNat
  | .kget _ => field b 0 5
  | .wpget _ => field a 0 4
  | .erd _ => field a 0 3
  | _ => eaM f (accessSize i) a b

/-- The space a memory word reaches. -/
def spaceOf (i : Instr) : Space :=
  match flightKind i with
  | some (.load sp) | some (.store sp) | some (.atomic sp) => sp
  | _ => .global

/-- The word writes memory (an atomic does). -/
def instrWrites (i : Instr) : Bool :=
  match flightKind i with
  | some (.store _) | some (.atomic _) => true
  | _ => false

/-- The word is a memory word whose address R105 checks. -/
def isAccess (i : Instr) : Bool :=
  match flightKind i with
  | some (.load _) | some (.store _) | some (.atomic _) | some .fetch | some .fetch3 => true
  | _ => false

/-- The block a scratchpad access of a lane reaches. -/
def targetBlock (s : State) (g : Group) (i : Instr) (b : Word) : Option Nat :=
  match i with
  | .ldrs _ | .strs _ => remoteBlock s g (field b 0 3)
  | _ => some g.bid

/-- Steps 2 to 4 for a lane of a word, from its A and B. FETCH3 checks its descriptor's alignment. -/
def laneFail (s : State) (g : Group) (i : Instr) (a b : Word) : Option AccFail :=
  accessFail s g (spaceOf i) (targetBlock s g i b) (eaOf i a b) (accessSize i) (instrWrites i)

/-- A helper's access that fails step 2 or 3 gives zero (R79). One that meets a range lock is performed: what it reads there is the old or the
new state of each sector (R155). -/
def helperVoid (s : State) (g : Group) (i : Instr) (a b : Word) : Bool :=
  match laneFail s g i a b with
  | some e => e.cause != .rangeLock
  | none => false

end Sys2Proof.Machine
end

