-- ==== Sys2Proof/Machine/Stream.lean ====
section
/-! DEFINITION. How the Grinder settles a stream register (R132 to R134). -/

namespace Sys2Proof.Machine

/-- A busy register: an operation is being settled (R133). -/
def Stream.busy (q : Stream) : Bool := q.op.isSome && q.fault.isNone

/-- The coordinate a stream reports: an ended one all ones (R134). -/
def Stream.coordNow (q : Stream) : Nat := if q.ended then 0xFFFFFFFF else q.cur

/-- A descriptor's fields (R132). -/
def streamOf (bs : List Byte) : Stream :=
  { Stream.closed with
    opened := true, coord := byteField bs 0 8, value := byteField bs 8 8, first := byteField bs 16 4, last := byteField bs 20 4,
    vbase := byteField bs 24 4, fmt := byteField bs 28 1, vsize := byteField bs 29 1 }

/-- The coordinate at a position, where there is an element: COORD's entry, or the coordinate itself when its bit is set (R132). -/
def streamElem (rd : Rd) (q : Stream) (pos : Nat) (s : State) : State × Except PortErr (Option Nat) :=
  match q.fmt with
  | 0 =>
    match rd s (q.coord + 4 * pos) 4 with
    | (s, .error e) => (s, .error e)
    | (s, .ok bs) => (s, .ok (some (ofBytes bs)))
  | 1 =>
    match rd s (q.coord + pos / 8) 1 with
    | (s, .error e) => (s, .error e)
    | (s, .ok bs) => (s, .ok (if bitN (ofBytes bs) (pos % 8) then some pos else none))
  | _ => (s, .ok (some pos))

/-- The first element at or after a position whose coordinate is at least a target: its position and coordinate. `fuel` counts
positions left. -/
def streamSeek (rd : Rd) (q : Stream) (target : Nat) : Nat → Nat → State → State × Except PortErr (Option (Nat × Nat))
  | 0, _, s => (s, .ok none)
  | fuel + 1, pos, s =>
    match streamElem rd q pos s with
    | (s, .error e) => (s, .error e)
    | (s, .ok (some c)) => if c ≥ target then (s, .ok (some (pos, c))) else streamSeek rd q target fuel (pos + 1) s
    | (s, .ok none) => streamSeek rd q target fuel (pos + 1) s

/-- Set bits of a bitmap in [BEGIN, c) (R132). -/
def bitmapCount (rd : Rd) (q : Stream) : Nat → Nat → Nat → State → State × Except PortErr Nat
  | 0, _, n, s => (s, .ok n)
  | fuel + 1, pos, n, s =>
    match streamElem rd q pos s with
    | (s, .error e) => (s, .error e)
    | (s, .ok c) => bitmapCount rd q fuel (pos + 1) (if c.isSome then n + 1 else n) s

/-- The value of the element at a position (R132). -/
def streamValue (rd : Rd) (q : Stream) (pos : Nat) (s : State) : State × Except PortErr Nat :=
  if q.vsize = 0 then (s, .ok 0)
  else
    let size := 4 * q.vsize
    let idx : State × Except PortErr Nat :=
      if q.fmt = 1 then
        match bitmapCount rd q (pos - q.first) q.first 0 s with
        | (s, .error e) => (s, .error e)
        | (s, .ok n) => (s, .ok (q.vbase + n))
      else (s, .ok pos)
    match idx with
    | (s, .error e) => (s, .error e)
    | (s, .ok i) =>
      match rd s (q.value + size * i) size with
      | (s, .error e) => (s, .error e)
      | (s, .ok bs) => (s, .ok (ofBytes bs))

/-- Move to the first element at or after a position with coordinate at least the target, or to the ended state. -/
def streamMove (rd : Rd) (q : Stream) (pos target : Nat) (s : State) : State × Except PortErr Stream :=
  match streamSeek rd q target (q.last - pos) pos s with
  | (s, .error e) => (s, .error e)
  | (s, .ok none) => (s, .ok { q with ended := true, cur := 0, curVal := 0 })
  | (s, .ok (some (p, c))) =>
    match streamValue rd q p s with
    | (s, .error e) => (s, .error e)
    | (s, .ok v) => (s, .ok { q with ended := false, pos := p, cur := c, curVal := v })

/-- Gallop to a coordinate: no movement when it is met already (R134). -/
def streamGallop (rd : Rd) (q : Stream) (target : Nat) (s : State) : State × Except PortErr Stream :=
  if q.ended || decide (q.cur ≥ target) then (s, .ok q) else streamMove rd q q.pos target s

/-- SISECT's skip-ahead (R134). `fuel` counts moves. -/
def streamIsect (rd : Rd) : Nat → Stream → Stream → State → State × Except PortErr (Stream × Stream)
  | 0, a, b, s => (s, .ok (a, b))
  | fuel + 1, a, b, s =>
    if a.ended || b.ended then
      (s, .ok ({ a with ended := true, cur := 0, curVal := 0 }, { b with ended := true, cur := 0, curVal := 0 }))
    else if a.cur = b.cur then (s, .ok (a, b))
    else if a.cur < b.cur then
      match streamGallop rd a b.cur s with
      | (s, .error e) => (s, .error e)
      | (s, .ok a) => streamIsect rd fuel a b s
    else
      match streamGallop rd b a.cur s with
      | (s, .error e) => (s, .error e)
      | (s, .ok b) => streamIsect rd fuel a b s

/-- SOPEN's new state from its descriptor (R132, R133). -/
def streamOpen (rd : Rd) (addr : Nat) (s : State) : State × Except PortErr Stream :=
  match rd s addr 32 with
  | (s, .error e) => (s, .error e)
  | (s, .ok bs) =>
    let q := streamOf bs
    if q.fmt > 2 ∨ q.vsize > 2 then (s, .error (.access addr)) else streamMove rd q q.first 0 s

def settled (q : Stream) : Stream := { q with op := none, fault := none, raised := false }

/-- A fibre's stream registers with some replaced. -/
def putStream (x : Fibre) (n : Nat) (q : Stream) : Fibre := { x with q := x.q.set n q }

/-- A fault met while settling is held in the registers, which keep their state; in a helper they end instead (R133, R135). A
translation fault is filed (R396). A read whose request is held leaves them busy (R397). -/
def streamFault (s : State) (g : Group) (lane : Nat) (ns : List Nat) (e : PortErr) : State :=
  let hold (s : State) : State := s.modFibre g.gid lane fun x =>
    ns.foldl (fun x n =>
      let q := nth x.q n
      if x.helper then putStream x n { settled q with opened := true, ended := true, cur := 0, curVal := 0 }
      else putStream x n { q with fault := some (e.cause, e.addr), raised := false }) x
  let q := nth (g.fibre lane).q (ns.headD 0)
  match e with
  | .held _ => s
  | .page va np => hold (fibreFault s g lane q.seg q.woff va 2 .read np)
  | _ => hold s

/-- The end of a page's fault record reaches a register held at it: its operation runs again, or ends in an access fault (R398). -/
def Stream.release (page : Nat) (fail : Bool) (q : Stream) : Stream :=
  match q.fault with
  | some (.pageFault, va) =>
    if va / 65536 = page then (if fail then { q with fault := some (.accessFault, va) } else { q with fault := none, raised := false }) else q
  | _ => q

/-- The Grinder's reads for a stream of a group. -/
def streamRd (g : Group) : Rd := fun s a k =>
  let r := grinderRead s g.core g.ctx a k 0
  (shareBlock s g.ctx g.bid r.1, r.2)

/-- One operation of a register of a fibre in full, by reads through `rd`: the registers that it changes (R133, R134). -/
def streamRun (rd : Rd) (x : Fibre) (n : Nat) (s : State) : State × Except PortErr (List (Nat × Stream)) :=
  let q := nth x.q n
  let one (r : State × Except PortErr Stream) : State × Except PortErr (List (Nat × Stream)) := (r.1, r.2.map fun q => [(n, q)])
  match q.op with
  | some (.sopen a) => one (streamOpen rd a s)
  | some .next => one (if q.ended then (s, .ok q) else streamMove rd q (q.pos + 1) 0 s)
  | some (.gallop t) => one (streamGallop rd q t s)
  | some (.isect m) =>
    let p := nth x.q m
    let r := streamIsect rd (q.last - q.pos + (p.last - p.pos) + 2) q p s
    (r.1, r.2.map fun r => [(n, r.1), (m, r.2)])
  | none => (s, .ok [])

/-- The registers that a register's operation is settled in. -/
def Stream.both (q : Stream) (n : Nat) : List Nat := match q.op with | some (.isect m) => [n, m] | _ => [n]

/-- The Grinder settles a busy register (R133): one operation in full. -/
def settleStream (s : State) (gid lane n : Nat) : State :=
  match s.group? gid with
  | none => s
  | some g =>
    let q := nth (g.fibre lane).q n
    if !q.busy then s
    else
      match streamRun (streamRd g) (g.fibre lane) n s with
      | (s, .ok rs) => s.modFibre gid lane fun x => rs.foldl (fun x r => putStream x r.1 (settled r.2)) x
      | (s, .error e) => streamFault s g lane (q.both n) e

/-- Every busy stream of a group settles, and the stores that waited for its reads perform (R141). -/
def settleStreams (s : State) (gid : Nat) : State :=
  (sweep ((List.range 32).foldl (fun s l => (List.range 8).foldl (fun s n => settleStream s gid l n) s) s) gid Flight.noResult).1

/-- After a handler, the operations whose faults were raised run again (R133). -/
def rearmStreams (g : Group) : Group :=
  { g with fibres := g.fibres.map fun x =>
      { x with q := x.q.map fun q => if q.raised then { q with fault := none, raised := false } else q } }

end Sys2Proof.Machine
end

