-- ==== Sys2Proof/Machine/Ops.lean ====
section
/-! DEFINITION. The operations on groups that several instructions share: fibres ending (R97), successors (R77), stopping a group
where it stands, taking a trap and returning from it (R426 to R442). -/

namespace Sys2Proof.Machine

/-! ### Lanes, groups and blocks that end -/

/-- Take lanes of a group out of its entries and batches; an entry or batch left empty is gone. -/
def removeLanes (s : State) (gid : Nat) (lanes : Mask) : State :=
  let s := s.modGroup gid fun g =>
    { g with entries := (g.entries.map fun e => { e with lanes := e.lanes &&& ~~~lanes }).filter fun e => e.lanes != 0 }
  { s with
    batches := (s.batches.map fun b =>
      { b with members := b.members.filterMap fun m =>
          let m : Member := if m.gid == gid then { m with lanes := m.lanes &&& ~~~lanes } else m
          if m.lanes = 0 then none else some m }).filter fun b => !b.members.isEmpty }

/-- A fibre that has quit: its pending fixed-latency results are gone (R97). -/
def deadFibre (x : Fibre) : Fibre :=
  { x with live := false, pend := [], hist := [], oset := 0, q := List.replicate 8 Stream.closed }

/-- Lanes that hold a live non-helper fibre, and a live helper (R103). -/
def Group.workers (g : Group) : Mask := maskOf ((List.range g.wg).filter fun l => (g.fibre l).live && !(g.fibre l).helper)
def Group.helpers (g : Group) : Mask := maskOf ((List.range g.wg).filter fun l => (g.fibre l).live && (g.fibre l).helper)

/-- The group has a live non-helper fibre. -/
def Group.alive (g : Group) : Bool := g.workers != 0

/-- Live groups of a block. -/
def liveGroups (s : State) (bid : Nat) : List Group := s.groups.filter fun g => g.bid == bid && g.alive

/-- A barrier whose arrivals reach its count turns (R100). -/
def Barrier.turned (b : Barrier) (live : Nat) : Barrier :=
  match b.expected with
  | none => b
  | some n => if decide (b.arrived > 0) && (if b.zero then decide (live ≤ b.arrived) else decide (b.arrived ≥ n))
      then ⟨b.phase + 1, none, false, 0⟩ else b

/-- Re-count the live groups of a block for its barriers (R97, R100). -/
def recountBarriers (s : State) (bid : Nat) : State :=
  let live := (liveGroups s bid).length
  s.modBlock bid fun b => { b with bars := b.bars.map fun x => x.turned live }

/-- A group that arrives at a block barrier has published its pending writes of k registers (R236). -/
def Group.publishK (g : Group) : Group := { g with kpend := g.kpend.map fun (k : KPend) => { k with pub := true } }

/-- A group whose last missing fibre has quit has arrived (R100). -/
def settleBars (s : State) (gid : Nat) : State :=
  match s.group? gid with
  | none => s
  | some g =>
    (g.bars.filter fun a => a.lanes != 0 && g.alive && g.workers &&& ~~~a.lanes == 0).foldl (fun s a =>
      match s.block? g.bid with
      | none => s
      | some blk =>
        let x := nth blk.bars a.idx
        let s := s.modGroup gid fun g => { g with bars := g.bars.map fun (y : Arrive) =>
          if y.idx == a.idx then { y with lanes := 0, phase := some x.phase } else y }
        let s := s.modGroup gid Group.publishK
        s.modBlock g.bid fun blk => { blk with bars := blk.bars.set a.idx { x with arrived := x.arrived + 1 } }) s

/-- The group arrivals a matrix barrier's phase expects (R274). -/
def MBar.expected (x : MBar) (live : Nat) : Nat := if x.expc = 62 then live else x.expc

/-- Groups of a block whose live fibres have all issued an MBARA of the phase arrive, in group order (R275). -/
def settleMbars (s : State) (bid : Nat) : State :=
  (liveGroups s bid).foldl (fun s g =>
    (g.mbars.filter fun a => a.lanes != 0 && g.workers &&& ~~~a.lanes == 0).foldl (fun s a =>
      match (s.block? bid).bind Block.engine with
      | none => s
      | some e =>
        let x := nth e.mbars a.idx
        if a.phase = some x.phase then s
        else
          let s := s.modGroup g.gid fun g => { g with mbars := g.mbars.map fun (y : Arrive) =>
            if y.idx == a.idx then { y with lanes := 0, phase := some x.phase } else y }
          s.modBlock bid fun b => { b with engine := b.engine.map fun (e : Engine) =>
            { e with mbars := e.mbars.set a.idx { x with arr := x.arr + 1 } } }) s) s

/-- Release the range locks of an operation on a core (R157). -/
def dropLocks (s : State) (core owner : Nat) : State :=
  s.modCore core fun c => { c with rlt := c.rlt.map fun e =>
    match e with
    | some x => if x.owner == owner then (if x.share ≤ 1 then none else some { x with share := x.share - 1 }) else some x
    | none => none }

/-- A block ends with its last group: its storage, its private regions and its engine are given up (R97, R273, R342). -/
def endBlock (s : State) (bid : Nat) : State :=
  match s.block? bid with
  | none => s
  | some b =>
    let owners := match b.engine with | some e => e.ops.map MatOp.seq | none => []
    let s := owners.foldl (fun s o => dropLocks s b.core o) s
    let s := s.modContext b.ctx fun c => { c with regions := c.regions.filter fun r => r.1 != bid }
    { s with blocks := dropBy Block.bid bid s.blocks }

/-- A PRUNE that its group gives up releases its destination (R157). -/
def dropPrune (s : State) (core : Nat) (fl : Flight) : State :=
  if fl.kind = .prune then fl.ops.foldl (fun s o => if o.tgt = 0 then s else dropLocks s core o.tgt) s else s

/-- Fibres that dequeued quads of raster batches quit (R322). -/
def quitUsers (s : State) (gone : Nat × Nat → Bool) : State :=
  if s.rasters.isEmpty then s
  else
    { s with rasters := s.rasters.map fun r =>
        { r with users := r.users.filter fun u => !gone u, past := r.past ++ r.users.filter gone } }

/-- The fibres of a group go on as a continuation's, or back as another group's. -/
def moveUsers (s : State) (old new : Nat) : State :=
  { s with rasters := s.rasters.map fun r => { r with users := r.users.map fun u => if u.1 = old then (new, u.2) else u } }

/-- The key under which a continuation's fibres stand. -/
def contKey (ctx record : Nat) : Nat := 2 ^ 128 + ctx * 2 ^ 64 + record

/-- A group whose results have all arrived and whose fibres have all quit leaves the scheduler. -/
def reapGroup (s : State) (gid : Nat) : State :=
  match s.group? gid with
  | none => s
  | some g =>
    if !(g.fibres.any fun x => x.live) && g.flights.isEmpty && g.aside.isEmpty then { s with groups := dropBy Group.gid gid s.groups } else s

/-- A group ends: its k registers, dirty private lines and trap frame are given up, and its block ends with its last group (R97, R112, R432).
What waits on its launch's completion follows the draws that its fibres follow (R149, R161). -/
def endGroup (s : State) (gid : Nat) : State :=
  match s.group? gid with
  | none => s
  | some g =>
    let s := (List.range g.wg).foldl (fun s l => relDraws s gid l .device) s
    let s := (quitUsers (removeLanes s gid 0xFFFFFFFF#32) fun u => u.1 == gid).keepSeen g.core gid g.lid
    let s := g.aside.foldl (fun s p => dropPrune s g.core p.2) s
    let s := s.modGroup gid fun g =>
      { g with fibres := g.fibres.map deadFibre, k := g.k.map fun _ => Reg.zero, kpend := [], priv := [], privDirty := [], privHome := [], privAway := [], privPoison := [],
               frame := none, trap := none, held := [], aside := [], resume := [], stop := .running }
    let s := s.modContext g.ctx fun c =>
      { c with frames := (match g.frame with | some n => c.frames.filter fun x => x != n | none => c.frames) }
    let s := settleMbars (recountBarriers s g.bid) g.bid
    let s := if (liveGroups s g.bid).isEmpty then endBlock s g.bid else s
    reapGroup s gid

/-- Lanes quit; helpers of a quad go with its last non-helper, the group with its last (R79, R97). -/
def quitLanes (s : State) (gid : Nat) (lanes : Mask) : State :=
  let kill (s : State) (m : Mask) : State :=
    quitUsers (removeLanes (s.modGroup gid fun g => (lanesOf m).foldl (fun g l => g.modFibre l deadFibre) g) gid m)
      fun u => u.1 == gid && inMask m u.2
  let s := kill s lanes
  match s.group? gid with
  | none => s
  | some g =>
    let orphans := maskOf ((lanesOf g.helpers).filter fun l =>
      (g.workers >>> (l / 4 * 4)) &&& 0xF#32 == 0)
    let s := kill s orphans
    match s.group? gid with
    | none => s
    | some g => if g.alive then settleMbars (recountBarriers (settleBars s gid) g.bid) g.bid else endGroup s gid

/-! ### Successors -/

/-- Lanes of a group under DBG_STEP that reach a segment stop there (R477). -/
def stepArrive (s : State) (gid : Nat) (lanes : Mask) : State :=
  match s.stepping with
  | some st => if st.gid = gid then { s with stepping := some { st with arrived := st.arrived ||| lanes } } else s
  | none => s

/-- Hand lanes to the sorter for a segment: they join their quad's waiting entry for it, or make a new one (R77). -/
def sendLanes (s : State) (gid seg : Nat) (lanes : Mask) : State :=
  (stepArrive s gid lanes).modGroup gid fun g =>
    (List.range 8).foldl (fun g j =>
      let m := lanes &&& (0xF#32 <<< (4 * j))
      if m = 0 then g
      else if g.entries.any fun e => e.quad == j && e.seg == seg && e.woff == 0 && e.rep.isNone && e.wait.isNone && e.loops.isEmpty && !e.bp then
        { g with entries := g.entries.map fun e =>
            if e.quad == j && e.seg == seg && e.woff == 0 && e.rep.isNone && e.wait.isNone && e.loops.isEmpty && !e.bp
            then { e with lanes := e.lanes ||| m } else e }
      else { g with entries := g.entries ++ [⟨j, m, seg, 0, [], none, none, s.clock, s.clock, false⟩] }) g

/-- A fibre at its segment's end: every fixed-latency result is visible, and its o and l registers hold nothing to rely on (R73). -/
def endSegLanes (s : State) (gid : Nat) (lanes : Mask) : State :=
  s.modGroup gid fun g => (lanesOf lanes).foldl (fun g l => g.modFibre l settleFibre) g

/-- The lanes of a group by successor segment. -/
def bySucc (ls : List (Nat × Nat)) : List (Nat × Mask) :=
  ls.foldl (fun acc p =>
    if acc.any fun q => q.1 == p.2 then acc.map fun q => if q.1 == p.2 then (q.1, q.2 ||| laneBit p.1) else q
    else acc ++ [(p.2, laneBit p.1)]) []

/-! ### Where a stopped group stands -/

/-- Where the lanes of a batch's member next issue (R99, R89, R435). A group that a spent loop level keeps absent takes no part in a REP and
stands after the body. -/
def memberPos (s : State) (b : Batch) (m : Member) : Nat × List LoopLvl × Option RepSt :=
  let segEnd : Nat :=
    match s.group? m.gid with
    | none => 0
    | some g =>
      match s.object? g.ctx b.obj with
      | none => 0
      | some o =>
        let n := (nth o.segs b.seg).len
        match m.loops.find? fun l => l.count == 0 && decide (l.last ≥ n) with
        | some l => endOffset s b.core o b.seg n l.first
        | none => n
  let p := repPos b.woff b.rep
  match p.2, m.loops.any fun l => l.count == 0 with
  | some r, false => (p.1, m.loops, some r)
  | _, _ =>
    let q := settlePos segEnd 8 p.1 m.loops
    (q.1, q.2, none)

/-- A wait that is simply taken up again at its word; a barrier's arrival and a DEQ's claim are kept (R163, R446). -/
def keptWait (w : Option Wait) : Option Wait :=
  match w with
  | some (.tbwait _) | some .enq | some (.event _) => none
  | w => w

/-- Fixed-latency results already issued become visible, with the o and l registers kept (R428). -/
def settleKeep (x : Fibre) : Fibre :=
  let x := commitReady { x with pend := x.pend.map fun p => { p with left := 0 } }
  { x with hist := x.hist.map fun h => { h with left := 0 } }

/-- The resume points of a group's live lanes, from its entries and its batches; `present` marks the trapping word's lanes. -/
def resumePoints (s : State) (g : Group) (present : Mask) : List Resume :=
  let fromEntries := g.entries.flatMap fun e =>
    (lanesOf e.lanes).map fun l => (⟨l, e.seg, e.woff, e.loops, e.rep, keptWait e.wait, (settleKeep (g.fibre l)).oset, (atStop (keptWait e.wait).isSome (g.fibre l)).hist,
      inMask present l, e.bp⟩ : Resume)
  let fromBatches := s.batches.flatMap fun b =>
    (b.members.filter fun m => m.gid == g.gid).flatMap fun m =>
      let p := memberPos s b m
      (lanesOf m.lanes).map fun l => (⟨l, b.seg, p.1, p.2.1, p.2.2, keptWait b.wait, (settleKeep (g.fibre l)).oset, (atStop (keptWait b.wait).isSome (g.fibre l)).hist,
        inMask present l, b.bp⟩ : Resume)
  fromEntries ++ fromBatches

/-- Fixed-latency results already issued are written, and l0 and l1 stay what R21 gives at the stop word (R428, R442). -/
def settleStop (x : Fibre) : Fibre := { settleKeep x with hist := x.hist }

/-- Lanes of a group whose batch waits in a word that it will issue again from the start. -/
def redoLanes (s : State) (g : Group) : Mask :=
  let redo (w : Option Wait) : Bool := w.isSome && (keptWait w).isNone
  (s.batches.filter fun b => redo b.wait).foldl (fun ls b => (b.members.filter fun m => m.gid == g.gid).foldl (fun ls m => ls ||| m.lanes) ls)
    ((g.entries.filter fun e => redo e.wait).foldl (fun ls e => ls ||| e.lanes) 0)

/-- The word of these lanes has not issued after all. -/
def untickLanes (g : Group) (lanes : Mask) : Group := (lanesOf lanes).foldl (fun g l => g.modFibre l untickFibre) g

/-- Stop a group where it stands: its batches and entries are dissolved into resume points, what it issued of fixed latency
completes. -/
def stopGroup (s : State) (gid : Nat) (present : Mask) : State :=
  match s.group? gid with
  | none => s
  | some g =>
    let g := untickLanes g (redoLanes s g)
    let s := s.modGroup gid fun _ => g
    let rs := g.resume.map (fun r => { r with present := r.present || inMask present r.lane }) ++ resumePoints s g present
    let ids := (g.kpend.map KPend.batch).eraseDups
    let s := removeLanes s gid 0xFFFFFFFF#32
    s.modGroup gid fun g =>
      let g := ids.foldl settleK g
      let g : Group := { g with fibres := g.fibres.map fun (x : Fibre) => if x.live then settleStop x else x }
      { g with resume := rs }

/-- Send stopped lanes back to the sorter: lanes of one quad at one point make one entry (R442, R77). -/
def entriesOf (s : State) (rs : List Resume) : List Entry :=
  rs.foldl (fun es r =>
    let same (e : Entry) : Bool := e.quad == r.lane / 4 && e.seg == r.seg && e.woff == r.woff && e.loops == r.loops && e.rep == r.rep
      && e.wait == r.wait && e.bp == r.bp
    if es.any same then es.map fun e => if same e then { e with lanes := e.lanes ||| laneBit r.lane } else e
    else es ++ [⟨r.lane / 4, laneBit r.lane, r.seg, r.woff, r.loops, r.rep, r.wait, s.clock, s.clock, r.bp⟩]) []

/-- A stopped group goes on at its resume points. -/
def restartGroup (s : State) (gid : Nat) : State :=
  s.modGroup gid fun g =>
    let rs := g.resume.filter fun r => (g.fibre r.lane).live
    let g := rs.foldl (fun g r => g.modFibre r.lane fun x => { x with oset := r.oset }) g
    { g with entries := g.entries ++ entriesOf s rs, resume := [], stop := .running }

/-! ### Jobs -/

/-- The mask selects a trigger. -/
def armed (s : State) (ctx bit : Nat) : Bool :=
  match s.context? ctx with
  | some c => bitN c.trig bit && jobRuns s ctx
  | none => false

/-! ### The trap frame -/

/-- TRAPBASE's and TRAPFRAME's fields (R431, R432). -/
def Context.tbEN (c : Context) : Bool := c.trapbase.getLsbD 63
def Context.tbSEG (c : Context) : Nat := field c.trapbase 32 18
def Context.tbHANDLE (c : Context) : Nat := field c.trapbase 0 32
def Context.tfBASE (c : Context) : Nat := field c.trapframe 16 41 * 65536
def Context.tfNFR (c : Context) : Nat := field c.trapframe 0 12

/-- The lowest free frame (R432). -/
def Context.freeFrame (c : Context) : Option Nat := (List.range c.tfNFR).find? fun n => !c.frames.contains n

def Context.frameAddr (c : Context) (n : Nat) : Nat := c.tfBASE + 65536 * (n + 1)

/-- The header (R434). -/
def frameHeader (s : State) (g : Group) (t : TrapInfo) (rqn : Nat) : List Byte :=
  toBytes t.cause.code 2 ++ toBytes t.flags 1 ++ toBytes rqn 1 ++ toBytes t.lanes.toNat 4 ++ toBytes t.detail 8 ++ toBytes t.addr 8
    ++ toBytes t.obj 8 ++ toBytes ((s.block? g.bid).getD default).linear 4 ++ toBytes g.index 1 ++ toBytes g.wg 1
    ++ toBytes (g.win / 8 - 1) 1 ++ toBytes 0 1 ++ toBytes t.sidx 4 ++ toBytes t.swoff 4 ++ toBytes s.gts 8 ++ toBytes t.seg 4
    ++ toBytes t.woff 4

/-- One loop level of a fibre entry (R435). -/
def loopBytes (l : LoopLvl) : List Byte := toBytes l.count 8 ++ toBytes l.first 4 ++ toBytes l.len 4

def repFields (r : RepSt) : Nat := r.d % 512 + r.a % 512 * 2 ^ 9 + r.b % 512 * 2 ^ 18 + r.c % 512 * 2 ^ 27

/-- A fibre-table entry (R435). -/
def fibreEntry (x : Fibre) (r : Resume) : List Byte :=
  let fst := (if x.live then 1 else 0) + (if x.helper then 2 else 0) + (if r.present then 4 else 0)
  toBytes fst 4 ++ toBytes r.seg 4 ++ toBytes r.woff 4 ++ toBytes x.safeord 4 ++ toBytes (field x.status 0 32) 4
    ++ toBytes r.loops.length 1 ++ toBytes (match r.rep with | some p => p.left | none => 0) 1 ++ toBytes 0 2
    ++ toBytes (match r.rep with | some p => repFields p | none => 0) 8 ++ r.loops.reverse.flatMap loopBytes

/-- Bits of a list, element 0 lowest. -/
def packBits (bs : List Bool) : Nat := packNat 1 (bs.map fun b => if b then 1 else 0)

/-- DATA of a lane: the registers a memory word's DST names, else SC's value (R436). -/
def replayData (fl : Flight) (o : LaneOp) : List Word :=
  match fl.kind with
  | .load _ | .store _ | .atomic _ => o.data
  | .fetch3 => []
  | .qput | .rrel => [w64 (fieldsOfInstr fl.instr).sc.toNat]
  | _ => o.data.take 1

/-- A replay entry (R436). -/
def replayEntry (fl : Flight) : List Byte :=
  let ws := encode fl.instr
  let ecause := match minBy (fun (h : Nat × Cause × Nat) => h.1) fl.held with | some h => h.2.1.code | none => 0
  let lane (f : LaneOp → List Byte) (n : Nat) : List Byte :=
    (List.range 32).flatMap fun l =>
      match fl.ops.find? fun o => o.lane == l with
      | some o => ((f o) ++ List.replicate n 0).take n
      | none => List.replicate n 0
  toBytes (nth ws 0).toNat 8 ++ toBytes ((ws[1]?).getD 0).toNat 8 ++ toBytes fl.pending.toNat 4 ++ toBytes fl.done.toNat 4
    ++ toBytes 0 1 ++ toBytes fl.repj 1 ++ toBytes (if ecause = 9 ∨ ecause = 10 ∨ ecause = 13 then ecause else 0) 1
    ++ List.replicate 37 0
    ++ lane (fun o => toBytes o.a.toNat 8) 8 ++ lane (fun o => toBytes o.b.toNat 8) 8
    ++ lane (fun o => (replayData fl o).flatMap fun w => toBytes w.toNat 8) 32

/-- Handler registers of a window (R438). -/
def Group.hCount (g : Group) : Nat := min 16 g.win

/-- The parts of a frame by offset (R433). -/
def frameParts (s : State) (g : Group) (t : TrapInfo) (rq : List Flight) : List (Nat × List Byte) :=
  let lanes := (List.range g.wg).filter fun l => (g.fibre l).live
  let rs (l : Nat) : Resume := (g.resume.find? fun r => r.lane == l).getD default
  let h := g.hCount
  [(0, frameHeader s g t rq.length)]
  ++ lanes.map (fun l => (0x100 + 128 * l, fibreEntry (g.fibre l) (rs l)))
  ++ lanes.flatMap (fun l => (List.range 8).map fun j => (0x1100 + 256 * j + 8 * l, toBytes (nth (g.fibre l).o j).toNat 8))
  ++ lanes.flatMap (fun l => (List.range 2).map fun j => (0x1900 + 256 * j + 8 * l, toBytes (readL s { g.fibre l with hist := (rs l).hist } l j).toNat 8))
  ++ lanes.map (fun l => (0x1B00 + 16 * l, toBytes (packBits ((g.fibre l).v.map Reg.full)) 16))
  ++ [(0x1D00, toBytes (packBits (g.k.map Reg.full)) 8)]
  ++ lanes.flatMap (fun l => (List.range h).map fun n =>
      (0x1E00 + 256 * n + 8 * l, toBytes (nth (g.fibre l).v (g.win - h + n)).val.toNat 8))
  ++ (List.range rq.length).map (fun i => (0x2E00 + 0xA80 * i, replayEntry (nth rq i)))
  ++ [(0xD600, lanes.map fun l =>
      if (g.fibre l).q.any Stream.opened then Config.partByte ((g.fibre l).q.map Stream.coordNow) l else 0)]

/-- Drop the bytes of a range from a memory: they read zero. -/
def Memory.clear (m : List Host.Cell) (a n : Nat) : List Host.Cell := m.filter fun c => !(decide (a ≤ c.1) && decide (c.1 < a + n))

/-- A whole frame of zeros. -/
def clearTarget (s : State) (t : Target) (n : Nat) : State :=
  match t with
  | .local pa => { s with mem := Memory.clear s.mem pa n, poison := clearPoison s.poison pa n }
  | .peer c va => { s with peerMem := Memory.clear s.peerMem (c * 2 ^ 57 + va) n, peerBad := clearPoison s.peerBad (c * 2 ^ 57 + va) n }
  | .host a => { s with hostMem := Memory.clear s.hostMem a n }

/-- The PCL stops a context that cannot enter its handler, without a save image (R430). -/
def noHandlerStop (s : State) (g : Group) (t : TrapInfo) (addr : Nat) : State :=
  let s := s.modContext g.ctx fun c => { c with run := if c.run = .running then .stopping else c.run, acks := [], stopAt := s.clock }
  { s with errlog := s.errlog ++ [⟨1, g.ctx, t.cause.code, t.obj, addr⟩], msix := s.msix ++ [2] }

/-- A ray job that needs no service: it is neither parked nor waiting for a reply or for room (R315, R316). -/
def jobMoves (s : State) (core id : Nat) : Bool :=
  (((s.core? core).getD default).rays.any fun j => j.id == id && j.fault.isNone && j.tag.isNone && !j.room)

/-- Flights that the group must see out before its trap is taken: a ray job, a PRUNE or a PUBLISH that still runs (R428). -/
def mustFinish (s : State) (g : Group) (fl : Flight) : Bool :=
  match fl.kind with
  | .march => fl.pendingOps.any fun o => jobMoves s g.core o.tgt
  | .prune | .publish => fl.held.isEmpty && fl.pending != 0
  | _ => false

/-- Flights that keep their place in the part while the handler runs. -/
def keptAside (fl : Flight) : Bool :=
  match fl.kind with
  | .march | .prune | .publish | .mmove | .deq | .qput | .enq | .rrel | .tbar => true
  | _ => false

/-- The state a fibre starts its handler in (R437, R438). -/
def handlerFibre (g : Group) (x : Fibre) (frame cause : Nat) : Fibre :=
  let h := g.hCount
  let v := (List.range h).foldl (fun v n =>
    v.set (g.win - h + n) ⟨if n = 0 then w64 frame else if n = 1 then w64 cause else 0, true, false⟩) x.v
  { x with v := v, status := statusReset ||| (x.status &&& 0x1000000#64), pend := [], hist := [], oset := 0 }

/-- Poison meets the writing of the handler save area (R430). -/
def savesPoison (g : Group) : Bool :=
  (lanesOf g.liveMask).any fun l => (List.range g.hCount).any fun n => (nth (g.fibre l).v (g.win - g.hCount + n)).poison

/-- What would enter the context's handler: it is enabled and loaded, there are frames, and the group does not run it already (R430). -/
def entersHandler (s : State) (g : Group) : Bool :=
  match s.context? g.ctx with
  | some c => c.tbEN && (s.loaded? g.ctx c.tbHANDLE).isSome && c.tfBASE != 0 && c.tfNFR != 0 && !g.privileged
  | none => false

/-- The core's earlier writes to a range reach their homes, and its L1 keeps no copy of it: a store of the part follows them (R139, R433). -/
def settleRange (s : State) (core ctx va n : Nat) : State :=
  (performSome s core fun w => w.ctx == ctx && overlap w.va w.bytes.length va n).modCore core fun c =>
    { c with l1 := c.l1.filter fun l => !(l.ctx == ctx && overlap (l.line * 128) 128 va n) }

/-- Take a trap that a stopped group has raised (R428 to R437): what can complete does, the rest enters the replay queue; a free
frame is written and the group starts the context's handler in privileged mode. With no handler or frame the context is stopped
(R430); with no free frame, no ring slot for a page fault, or a ray job to see out, the group waits. Once vector issue has acknowledged a
stop, the trap waits for the context to start again (R447). -/
def takeTrap (s : State) (gid : Nat) : State :=
  let s := settleStreams (sweepHeld s gid) gid
  match s.group? gid with
  | none => s
  | some g =>
    match g.trap, s.context? g.ctx with
    | some t, some c =>
      if c.run ≠ .running ∧ (c.run ≠ .stopping ∨ c.acks.contains .issue = true) then s
      else if g.flights.any (mustFinish s g) then s
      else
        let t := if t.cause = .pageFault then { t with detail := (faultSlot s g.ctx t.addr).getD t.detail } else t
        if t.cause = .pageFault ∧ (s.faults.any fun r => sameFault g.ctx t.addr r && r.slot.isNone) = true then s
        else if !entersHandler s g then
          noHandlerStop (s.modGroup gid fun g => { g with stop := .stopped }) g t 0
        else
          match c.freeFrame with
          | none => s
          | some n =>
            let fa := c.frameAddr n
            if savesPoison g then noHandlerStop (s.modGroup gid fun g => { g with stop := .stopped }) g t fa
            else match portXl s g fa .write 65536 [] with
            | (s, .error (.held _)) => s
            | (s, .error _) => noHandlerStop (s.modGroup gid fun g => { g with stop := .stopped }) g t fa
            | (s, .ok tgt) =>
              let rq := g.flights
              let s := serveBlock (charge (settleRange s g.core g.ctx fa 65536) g.ctx g.bid (65536 * uL1)) g.ctx g.bid 7360 tgt 65536 0
              let s := clearTarget s tgt 65536
              let s := (frameParts s g t rq).foldl (fun s p => writeTarget s (tgt.shift (p.1 : Int)) p.2) s
              let s := (lanesOf g.liveMask).foldl (fun s l => acquireAt s g.core g.ctx gid l .device) s
              let s := s.modContext g.ctx fun c => { c with frames := n :: c.frames }
              let s := traceTrap s g t
              let (bid, s) := s.fresh
              let s := s.modGroup gid fun g =>
                { g with
                  fibres := g.fibres.map fun (x : Fibre) => if x.live then handlerFibre g x fa t.cause.code else x
                  frame := some n, frameVa := fa, savedObj := g.obj, obj := c.tbHANDLE, trap := none, stop := .running, flights := [], saved := g.resume, resume := []
                  aside := (List.range rq.length).zip rq, rqn := rq.length, rft := 0 }
              commitBlock { s with batches := s.batches ++
                [⟨bid, g.core, g.sched, [⟨gid, g.liveMask, []⟩], c.tbHANDLE, c.tbSEG, 0, none, s.clock, 0, s.clock, none, none, false, s.nextId⟩] } g.bid
    | _, _ => s

/-- The mark, above FLAGS' own bits, of a trap that has started a halt wave. -/
def wavedFlag : Nat := 256

/-- A trap that halt trigger 3 selects starts a wave and is held in its group (R470). -/
def holdForWave (s : State) (g : Group) (t : TrapInfo) : State :=
  trigger (s.modGroup g.gid fun g => { g with trap := some { t with flags := t.flags + wavedFlag } }) g.ctx 3
    (groupTrig s g t.lanes t.cause.code t.seg t.woff t.detail)

/-- The mark, above FLAGS' own bits, of a watchpoint with ACT 0 met while the job was not running (R467, R470). -/
def watchFlag : Nat := 512

/-- DEDUCED: the mark, above FLAGS' own bits, of a breakpoint met in a step, which its group holds until its job runs (R466, R470; log entry 228). -/
def breakFlag : Nat := 1024

/-- A trigger record names the safe point that a breakpoint stands at (R466, R474). -/
def breakRec (t : TrigRec) (obj ord : Nat) : TrigRec :=
  { t with word2 := w64 (obj % 2 ^ 32), safeord := ord }

/-- The trigger record of a cause that has been held. -/
def heldTrig (s : State) (g : Group) (t : TrapInfo) : TrigRec :=
  let r := groupTrig s g t.lanes t.cause.code t.seg t.woff t.detail
  if t.flags ≥ breakFlag then
    match (s.object? g.ctx t.obj).bind fun o => o.safeAt t.seg t.woff with
    | some p => breakRec r t.obj p.1
    | none => r
  else r

/-- A cause that only starts a wave has been held, and the group goes on where it stood (R470). -/
def waveOnly (s : State) (g : Group) (bit : Nat) (t : TrapInfo) : State :=
  restartGroup (trigger (s.modGroup g.gid fun g => { g with trap := none }) g.ctx bit (heldTrig s g t)) g.gid

/-- A group's trap, once its job runs: a BRK, a breakpoint or a watchpoint held meanwhile may start a wave; with halt trigger 3 one that would enter the
handler is held for the wave first; else it is taken (R464, R467, R470). -/
def takeOrWave (s : State) (g : Group) (t : TrapInfo) : State :=
  if t.flags ≥ breakFlag then waveOnly s g 1 t
  else if t.flags ≥ watchFlag then waveOnly s g 2 t
  else if t.cause = .brk ∧ armed s g.ctx 0 = true then waveOnly s g 0 t
  else if armed s g.ctx 3 && decide (t.flags < wavedFlag) && entersHandler s g then holdForWave s g t
  else takeTrap s g.gid

/-- A group raises a trap at the point where it stands (R428); a word that traps precisely, but for TRAP and BRK, is to issue again. With
halt trigger 3 the trap is held for the wave, as it is while the job is not running (R470); a second cause waits behind the first (R427). -/
def raiseTrap (s : State) (gid : Nat) (t : TrapInfo) (present : Mask) : State :=
  match s.group? gid with
  | none => s
  | some g =>
    let again := t.flags % 2 = 1 ∧ t.cause ≠ .soft ∧ t.cause ≠ .brk ∧ (s.batches.any fun b => b.wait.isNone && b.members.any fun m =>
      m.gid == gid && (m.lanes &&& present) != 0) = true
    let s := stopGroup (if again then s.modGroup gid fun g => untickLanes g present else s) gid (if g.trap.isSome then 0 else present)
    match g.trap with
    | some _ => s.modGroup gid fun g => { g with held := g.held ++ [⟨s.nextId, t, present⟩] }
    | none =>
      let s := s.modGroup gid fun g => { g with trap := some t, stop := .trapping }
      if jobRuns s g.ctx then takeOrWave s g t else s

/-- Held lanes of a group's flights that call for a trap raise it, one flight at a time, oldest first; then the causes that wait, outside a
handler (R426, R427). -/
def raiseHeld (s : State) (gid : Nat) : State :=
  match s.group? gid with
  | none => s
  | some g =>
    if g.trap.isSome || !g.alive then s
    else
      match g.flights.findSome? fun fl => (heldTrap s g fl).map fun t => (t, fl.lanes) with
      | some (t, lanes) => raiseTrap s gid t lanes
      | none =>
        match g.held with
        | h :: rest => if g.frame.isSome then s else raiseTrap (s.modGroup gid fun g => { g with held := rest }) gid h.trap h.present
        | [] => s

/-! ### Return from a trap -/

/-- A fibre entry read back (R435, R439). The steps of a REP in progress come from the REP word before its target. -/
def resumeOf (bs : List Byte) (lane : Nat) (hid : Resume) (steps : Nat) : Resume :=
  let depth := min 4 (byteField bs 20 1)
  let lvl (j : Nat) : LoopLvl := ⟨byteField bs (32 + 16 * j) 8, byteField bs (40 + 16 * j) 4, byteField bs (44 + 16 * j) 4⟩
  let n := byteField bs 21 1 % 64
  let f := byteField bs 24 8
  let stp (i : Nat) : Nat := repStepOf (bitsN steps (6 + 2 * i) 2)
  { lane := lane, seg := byteField bs 4 4 % 2 ^ 18, woff := byteField bs 8 4
    loops := ((List.range depth).map lvl).reverse
    rep := if n = 0 then none else some ⟨n, 1, stp 0, stp 1, stp 2, stp 3, bitsN f 0 9, bitsN f 9 9, bitsN f 18 9, bitsN f 27 9⟩
    wait := hid.wait, oset := hid.oset, hist := hid.hist, present := false, bp := false }

/-- The immediate of the REP word that stands before a resumed target. -/
def repImm (s : State) (core : Nat) (o : CodeObj) (seg woff : Nat) : Nat :=
  match (fetchDecode s core o seg (woff - 1)).2 with
  | .ok (.rep f) => (imm18 f).toNat
  | _ => 0

/-- An entry's A, B and DATA of a lane (R436). -/
def entryA (bs : List Byte) (l : Nat) : Word := w64 (byteField bs (64 + 8 * l) 8)
def entryB (bs : List Byte) (l : Nat) : Word := w64 (byteField bs (320 + 8 * l) 8)
def entryData (bs : List Byte) (l j : Nat) : Word := w64 (byteField bs (576 + 32 * l + 8 * j) 8)

/-- A lane of a word that keeps its place in the part takes A, B and DATA from its entry (R442): a ray job's scene and depth, MMOVE's
first entry and count, a record's first word, and so on. -/
def reissueOp (fl : Flight) (bs : List Byte) (o : LaneOp) : LaneOp :=
  let a := entryA bs o.lane
  let b := entryB bs o.lane
  let d := entryData bs o.lane 0
  let o := { o with a := a, b := b }
  match fl.kind with
  | .march => { o with data := [d], ea := b.toNat }
  | .mmove => { o with data := d :: o.data.drop 1, ea := field a 0 16, tgt := if (fieldsOfInstr fl.instr).sc = 0x0CA then o.tgt else min o.tgt d.toNat }
  | .prune => { o with data := d :: b :: (if o.ea = a.toNat then o.data.drop 2 else (o.data.drop 2).take 2), ea := a.toNat }
  | .enq => { o with data := d :: a :: o.data.drop 2 }
  | .qput => { o with data := b :: o.data.drop 1, ea := if o.tgt = 0 then a.toNat else o.ea }
  | .publish => { o with ea := a.toNat }
  | .deq => { o with data := d :: o.data.drop 1 }
  | .tbar => { o with ea := field a 0 19 }
  | _ => o

/-- A replayed word's flight from its entry (R436, R442): addresses are formed anew from A and B; an address that fails a check is
held with its cause, and in a helper gives zero (R79). What the frame does not hold is as the word `old` of the entry captured it: where it
stands, its batch's lanes, and FETCH3's y and z. -/
def replayFlight (s : State) (g : Group) (bs : List Byte) (seq : Nat) (old : Option Flight) : Option Flight :=
  match decode false (w64 (byteField bs 0 8)) (w64 (byteField bs 8 8)) with
  | .error _ => none
  | .ok i =>
    match flightKind i with
    | none => none
    | some kind =>
      let pend := BitVec.ofNat 32 (byteField bs 16 4)
      let f := fieldsOfInstr i
      let was := old.getD default
      let op (l : Nat) : LaneOp :=
        let a := entryA bs l
        let b := entryB bs l
        let data := (List.range 4).map (entryData bs l)
        let data := if kind = .fetch3 then b :: ((was.ops.find? fun o => o.lane == l).getD default).data.drop 1 else data
        ⟨l, a, b, data, eaOf i a b, (targetBlock s g i b).getD 0⟩
      let ops := (lanesOf pend).map op
      let void := if isAccess i && !isK f.dst.toNat then maskOf ((ops.filter fun o => (g.fibre o.lane).helper && helperVoid s g i o.a o.b).map LaneOp.lane) else 0
      let held := ops.filterMap fun o => if isAccess i && ((g.fibre o.lane).helper == false || isK f.dst.toNat) then (laneFail s g i o.a o.b).map fun e => (o.lane, e.cause, e.addr) else none
      some ⟨seq, i, kind, isK f.dst.toNat, ops, pend,
        BitVec.ofNat 32 (byteField bs 20 4), held, was.batch, was.seg, was.woff, byteField bs 25 1, was.lanes, void, []⟩

/-- One replay entry obeyed (R442): replayed, dropped or completed with RESULT. -/
def obeyEntry (s : State) (gid i : Nat) (bs : List Byte) : State :=
  match s.group? gid with
  | none => s
  | some g =>
    let act := byteField bs 24 1
    let pend := BitVec.ofNat 32 (byteField bs 16 4)
    let old := (g.aside.find? fun p => p.1 == i).map Prod.snd
    let (seq, s) := s.fresh
    let fl := match old with
      | some o => if keptAside o then some { o with seq := seq, pending := pend, held := [], ops := o.ops.map (reissueOp o bs) }
          else replayFlight s g bs seq old
      | none => none
    match fl with
    | none => s
    | some fl =>
      let res (l : Nat) : List Word := (List.range fl.regs.2).map fun j => w64 (byteField bs (1600 + 32 * l + 8 * j) 8)
      let s := if act = 1 ∨ act = 2 ∨ pend = 0 then dropPrune s g.core fl else s
      if act = 1 then s.modGroup gid fun g => (lanesOf pend).foldl (fun g l => fillLane g fl l) g
      else if act = 2 then s.modGroup gid fun g => (lanesOf pend).foldl (fun g l => writeLane g fl l (res l)) g
      else if pend = 0 then s
      else s.modGroup gid fun g => { g with flights := g.flights ++ [fl] }

/-- Results latest first, with the visible ones taking these values of l0 and l1 (R21, R442). -/
def restoreHist : List Hist → List Word → List Hist
  | [], vs => vs.map fun v => ⟨0, v, 0⟩
  | h :: rest, vs =>
    if h.left = 0 then
      match vs with
      | v :: vs => { h with val := v } :: restoreHist rest vs
      | [] => restoreHist rest []
    else h :: restoreHist rest vs

/-- A fibre's registers and status as the frame leaves them (R439, R442). -/
def restoreFibre (g : Group) (fr : List Byte) (l : Nat) (x : Fibre) : Fibre :=
  let x := settleFibre x
  let h := g.hCount
  let full := byteField fr (0x1B00 + 16 * l) 16
  let v := ((List.range x.v.length).zip x.v).map fun p =>
    let n := p.1
    let r := if n ≥ g.win - h then ⟨w64 (byteField fr (0x1E00 + 256 * (n - (g.win - h)) + 8 * l) 8), true, false⟩ else p.2
    { r with full := bitN full n }
  let lv (j : Nat) : Word := w64 (byteField fr (0x1900 + 256 * j + 8 * l) 8)
  let hid := (g.saved.find? fun r => r.lane == l).getD default
  { x with
    v := v
    o := (List.range 8).map fun j => w64 (byteField fr (0x1100 + 256 * j + 8 * l) 8)
    status := writeStatus x.status (w64 (byteField fr (0x100 + 128 * l + 16) 4))
    safeord := byteField fr (0x100 + 128 * l + 12) 4
    pend := [], hist := (restoreHist hid.hist.reverse [lv 0, lv 1]).reverse }

/-- RFT once every live fibre has issued it (R442): the frame is read back and obeyed, the frame freed, and the fibres resume. A
frame that no longer reads stops the context as R430 states. -/
def returnFromTrap (s : State) (gid : Nat) : State :=
  match s.group? gid with
  | none => s
  | some g =>
    match g.frame, s.context? g.ctx with
    | some n, some _ =>
      let s := (lanesOf g.liveMask).foldl (fun s l =>
        acquireAt (releaseAt s g.core g.ctx gid l .device) g.core g.ctx gid l .device) s
      match engineRead s g.core g.ctx g.frameVa 0xD600 with
      | (s, .error (.held _)) => s
      | (s, .error _) => noHandlerStop (s.modGroup gid fun g => { g with stop := .stopped }) g
          ⟨.accessFault, 0, 0, 0, 0, g.obj, 0, 0, 0, 0⟩ g.frameVa
      | (s, .ok fr) =>
        let entry (l : Nat) : List Byte := (fr.drop (0x100 + 128 * l)).take 128
        let steps (l : Nat) : Nat :=
          match s.object? g.ctx g.savedObj with
          | some o => repImm s g.core o (byteField (entry l) 4 4 % 2 ^ 18) (byteField (entry l) 8 4)
          | none => 0
        let rs := (lanesOf g.liveMask).map fun l =>
          resumeOf (entry l) l ((g.saved.find? fun r => r.lane == l).getD default) (steps l)
        let kf := byteField fr 0x1D00 8
        let s := s.modGroup gid fun g =>
          let g := (g.kpend.map KPend.batch).eraseDups.foldl settleK g
          rearmStreams { g with
            fibres := ((List.range g.fibres.length).zip g.fibres).map fun p => if p.2.live then restoreFibre g fr p.1 p.2 else p.2
            k := ((List.range 64).zip g.k).map fun p => { p.2 with full := bitN kf p.1 }
            kpend := [], frame := none, obj := g.savedObj, resume := rs, saved := [], rft := 0, sync := 0 }
        let s := s.modContext g.ctx fun c => { c with frames := c.frames.filter fun x => x != n }
        let s := (List.range g.rqn).foldl (fun s i =>
          obeyEntry s gid i ((fr.drop (0x2E00 + 0xA80 * i)).take 0xA80)) s
        let s := restartGroup (s.modGroup gid fun g => { g with aside := [], rqn := 0 }) gid
        match g.held with
        | [] => raiseHeld s gid
        | h :: rest => raiseTrap (s.modGroup gid fun g => { g with held := rest }) gid h.trap h.present
    | _, _ => s

end Sys2Proof.Machine
end

