-- ==== Sys2Proof/Machine/Cross.lean ====
section
/-! DEFINITION. The lanes a word reads its first source in: its own lane, or for lane and quad instructions the source lanes of
R231 to R235. -/

namespace Sys2Proof.Machine

/-- The value of a source field of a word in a lane: an operand's value, else zero. -/
def srcA (s : State) (c : SrcCtx) (g : Group) (l : Nat) (i : Instr) : Word :=
  let r := rowOf i
  let f := fieldsOfInstr i
  if (useA r f).isOpnd then srcVal s c g l (constTy r f (useA r f)) (f.sc.toNat % 32) f.lit f.sa.toNat else 0

def srcB (s : State) (c : SrcCtx) (g : Group) (l : Nat) (i : Instr) : Word :=
  let r := rowOf i
  let f := fieldsOfInstr i
  if (useB r f).isOpnd && r.lay != .I then srcVal s c g l (constTy r f (useB r f)) (f.sc.toNat % 32) f.lit f.sb.toNat else 0

def srcC (s : State) (c : SrcCtx) (g : Group) (l : Nat) (i : Instr) : Word :=
  let r := rowOf i
  let f := fieldsOfInstr i
  if (useC r f).isOpnd && r.lay != .I then srcVal s c g l (constTy r f (useC r f)) (f.sc.toNat % 32) f.lit f.sc.toNat else 0

/-- Register `j` of a span of registers that starts at a code, as a source. -/
def spanVal (s : State) (c : SrcCtx) (g : Group) (l code j : Nat) : Word := srcVal s c g l .b64 0 none (code + j)

/-- The element width of a lane instruction (R230). -/
def laneWidth (f : Fields) : Nat := (Ty.ofCode f.ty.toNat).width

/-- Elements per register. -/
def laneElems (f : Fields) : Nat := 64 / laneWidth f

/-- The source element index of destination element `e` of an exchange (R232). `b` is the lane's source B. -/
def exchIndex (i : Instr) (n total : Nat) (b : Word) (e : Nat) : Nat :=
  let w := 64 / n
  match i with
  | .lxch _ => elem w (e % n) b % total
  | .lxor _ => Nat.xor e (elem w (e % n) b % total)
  | _ => b.toNat % total

/-- The contributors of a group (R231), and those LSCAN takes for a lane (R235). -/
def scanSet (cands : Mask) (l : Nat) (exclusive : Bool) : List Nat :=
  (lanesOf cands).filter fun k => decide (k < l) || (k == l && !exclusive)

/-- The lanes in which a lane of a word reads source A (R231 to R235); its own lane for every other word. KGET reads no register of
its own group. -/
def crossLanes (s : State) (c : SrcCtx) (g : Group) (present : Mask) (l : Nat) (i : Instr) : List Nat :=
  let f := fieldsOfInstr i
  match i with
  | .lxch _ | .lxor _ | .lbcast _ =>
    let n := laneElems f
    ((List.range n).map fun j => exchIndex i n (g.wg * n) (srcB s c g l i) (l * n + j) / n).eraseDups.filter fun k => (g.fibre k).live
  | .qxch _ => [l / 4 * 4 + field (srcB s c g l i) 0 2].filter fun k => (g.fibre k).live
  | .qddx _ => [l / 4 * 4 + (l % 4 ||| 1), l / 4 * 4 + (l % 4 &&& 2)].filter fun k => (g.fibre k).live
  | .qddy _ => [l / 4 * 4 + (l % 4 ||| 2), l / 4 * 4 + (l % 4 &&& 1)].filter fun k => (g.fibre k).live
  | .lreduce _ => lanesOf (g.actors present f)
  | .lscan _ => scanSet (g.actors present f) l (bitN (srcB s c g l i).toNat 3)
  | .kget _ => []
  | _ => [l]

/-- Source A as a lane instruction reads it in a source lane: zero where no fibre of the group lives (R231). -/
def crossVal (s : State) (c : SrcCtx) (g : Group) (i : Instr) (k : Nat) : Word :=
  if (g.fibre k).live then srcA s c g k i else 0

end Sys2Proof.Machine
end

