-- ==== Sys2Proof/Machine/Run.lean ====
section
/-! DEFINITION. How one word of a batch runs: which registers it needs, when it must wait, when it traps before it acts, and what
follows it (R27, R41, R48, R67, R76 to R86, R105, R106, R347, R426 to R429). Every meaning of a word is one call of `runWord`. -/

namespace Sys2Proof.Machine

/-! ### What a word reads and writes -/

/-- Registers that sources A, B and C name, counted from their codes (R131, R184, R299, R317, R372, R376). -/
def srcSpans (i : Instr) : Nat × Nat × Nat :=
  match i with
  | .fetch3 _ => (1, 3, 1)
  | .qput _ => (1, 8, 1)
  | .march _ => (5, 1, 1)
  | .prune _ => (1, 3, 1)
  | .spawn _ => (1, 8, 1)
  | _ => (1, 1, 1)

/-- The word reads its destination: the accumulating rows (R223, R253, R254) and CVT8 toward binary8 (R252). -/
def readsDst (i : Instr) : Bool :=
  match i with
  | .isad f | .idot f | .fdot2 f => f.ty == 14
  | .scacc _ => true
  | .cvt8 f => !f.sb.getLsbD 5
  | _ => false

/-- The register codes a word reads, each with the bit of W that governs it; a destination read as a source always waits (R27, R41,
R44). -/
def srcNeeds (i : Instr) : List (Nat × Nat) :=
  match formOf i with
  | .full r f =>
    let n := srcSpans i
    let span (c : Option Nat) (k w : Nat) : List (Nat × Nat) :=
      match c with
      | some c => if isV c || isK c then (List.range k).map fun j => (c + j, w) else []
      | none => []
    let srcs := srcCodes r f
    span (nth srcs 0) n.1 0 ++ span (nth srcs 1) n.2.1 1 ++ span (nth srcs 2) n.2.2 2
      ++ (if (dstUse r f).readsData then span (some f.dst.toNat) (dstCount r f) 2 else [])
      ++ (if readsDst i then span (some f.dst.toNat) 1 3 else [])
  | _ => []

/-- The v and k registers that a word will write: code and count (R27, R44, R47). -/
def dstSpan (i : Instr) : Nat × Nat :=
  match formOf i with
  | .full r f =>
    match dstUse r f with
    | .none | .pred | .stream => (0, 0)
    | .store | .storeV => (0, 0)
    | .atomic => if r.vl then (f.dst.toNat, 1) else (0, 0)
    | .cas => (f.dst.toNat, if f.sb.getLsbD 5 then 2 else 1)
    | .vote | .pmov => (0, 0)
    | _ => (f.dst.toNat, dstCount r f)
  | _ => (0, 0)

/-- The register codes a word writes. -/
def dstNeeds (i : Instr) : List Nat := (List.range (dstSpan i).2).map ((dstSpan i).1 + ·)

/-- The single words a word stands for: the two halves of a dual word (R60), else itself. -/
def partsOf (i : Instr) : List Instr :=
  match i with
  | .dualWord s a b => ((halfInstr s a).toList ++ (halfInstr s b).toList)
  | i => [i]

/-- The word is uniform-executed (R48). -/
def isUniform (i : Instr) : Bool := uniformWord (rowOf i) (fieldsOfInstr i)

/-- The lanes that take part in a word: present lanes with a true guard; one lane stands for a uniform word (R48, R106). -/
def partLanes (g : Group) (present : Mask) (i : Instr) : Mask :=
  if isUniform i then (match lowestLane present with | some l => laneBit l | none => 0)
  else g.participants present (fieldsOfInstr i)

/-! ### Before a word acts -/

/-- Whether a word issues for a group, waits, or traps first. -/
inductive Verdict where
  | ok
  | wait
  | trap (cause : Cause) (lanes : Mask) (detail addr : Nat)
deriving DecidableEq, Repr, Inhabited

/-- Some register of the word lies beyond the window (R19, R131, R438). -/
def outsideWindow (g : Group) (i : Instr) : Bool :=
  let bad (c : Nat) : Bool := if c < 0x100 && !isK c && !isO c then (vIndex g c).isNone && (isV c) else false
  let data := match formOf i with
    | .full r f => (match dstUse r f with
      | .store | .storeV | .atomic | .cas | .load | .loadV | .pair | .vpair | .any | .vreg | .vote | .pmov =>
        if isV f.dst.toNat && (dstUse r f).isReg then (List.range (dstCount r f)).map (f.dst.toNat + ·) else []
      | _ => [])
    | _ => []
  let beyond (c n : Nat) : Bool := isV c && decide (c + n > 0x80)
  let n := srcSpans i
  let srcs := match formOf i with | .full r f => srcCodes r f | _ => []
  let past (k : Nat) (n : Nat) : Bool := match nth srcs k with | some c => beyond c n | none => false
  (srcNeeds i).any (fun p => bad p.1) || data.any (fun c => bad c || decide (c ≥ 0x80))
    || past 0 n.1 || past 1 n.2.1 || past 2 n.2.2

/-- The lanes in which a lane's source is read. -/
def readLanes (s : State) (c : SrcCtx) (g : Group) (present : Mask) (l : Nat) (i : Instr) (w : Nat) : List Nat :=
  if w = 0 then crossLanes s c g present l i else [l]

/-- A source register of a lane, in any lane it is read in, meets a test. -/
def srcAny (p : Group → Nat → Nat → Bool) (s : State) (c : SrcCtx) (g : Group) (present : Mask) (l : Nat) (i : Instr) (n : Nat × Nat) : Bool :=
  (readLanes s c g present l i n.2).any fun k => p g k n.1

/-- A source is empty and its W bit says wait, or a destination is empty (R27). -/
def mustWait (s : State) (c : SrcCtx) (g : Group) (present lanes : Mask) (i : Instr) : Bool :=
  let w := (fieldsOfInstr i).w
  (lanesOf lanes).any fun l =>
    (srcNeeds i).any (fun p => !w.getLsbD p.2 && srcAny emptyAt s c g present l i p) || (dstNeeds i).any (fun c => emptyAt g l c)

/-- The word enters the group's words in flight when it issues (R27, R429). -/
def flies (i : Instr) : Bool :=
  (rowOf i).vl || (flightKind i).isSome ||
    match i with
    | .enq _ | .qput _ | .rrel _ | .tbarr _ | .tbwait _ => true
    | _ => false

/-- The sources a lane finds empty, as EMPTY_READ's DETAIL bits (R426). -/
def emptySources (s : State) (c : SrcCtx) (g : Group) (present : Mask) (l : Nat) (i : Instr) : Nat :=
  (List.range 3).foldl (fun d w => if (srcNeeds i).any fun p => p.2 == w && srcAny emptyAt s c g present l i p then d + 2 ^ w else d) 0

/-- Steps 2 to 4 of R105 over a word's participating lanes whose A and B can be read; helpers never fail them (R79). -/
def accessVerdict (s : State) (c : SrcCtx) (g : Group) (lanes : Mask) (i : Instr) : Option (AccFail × Mask) :=
  if !isAccess i then none
  else
    firstFail ((lanesOf lanes).filterMap fun l =>
      if (g.fibre l).helper && !isUniform i then none
      else if (srcNeeds i).any fun p => decide (p.2 < 2) && emptyAt g l p.1 then none
      else (laneFail s g i (srcA s c g l i) (srcB s c g l i)).map fun e => (l, e))

/-- The lanes a test picks. -/
def lanesWith (lanes : Mask) (p : Nat → Bool) : Mask := maskOf ((lanesOf lanes).filter p)

/-- The address that a POISON at a word reports: the effective address of its lowest failing lane, where the word has one (R426). -/
def poisonAddr (s : State) (c : SrcCtx) (g : Group) (i : Instr) (lanes : Mask) : Nat :=
  match lowestLane lanes with
  | some l => if isAccess i then eaOf i (srcA s c g l i) (srcB s c g l i) else 0
  | none => 0

/-- What stands before a single word in one group: a register beyond the window, a wait, then the causes in R427's order. A poisoned
source is taken with step 6's place, before EMPTY_READ. -/
def baseVerdict (s : State) (b : Batch) (g : Group) (present : Mask) (i : Instr) : Verdict :=
  let lanes := partLanes g present i
  let c := srcCtx s b g
  if outsideWindow g i then .trap .illegalOperand present 0 0
  else if mustWait s c g present lanes i then .wait
  else if flies i && decide (g.flights.length ≥ 16) && lanes != 0 then .wait
  else
    match accessVerdict s c g lanes i with
    | some (e, m) => .trap e.cause m e.detail e.addr
    | none =>
      let pois := lanesWith lanes fun l => (srcNeeds i).any fun p => srcAny poisonAt s c g present l i p
      if pois ≠ 0 then .trap .poison pois 4 (poisonAddr s c g i pois)
      else
        let emp := lanesWith lanes fun l => emptySources s c g present l i != 0
        match lowestLane emp with
        | some l => .trap .emptyRead emp (emptySources s c g present l i) 0
        | none => .ok

/-- SAT on a lane combination whose operation, a constant of the word, is no sum: a decode cause (R230, R238, R426). -/
def satFails (i : Instr) : Bool :=
  match i with
  | .lreduce f | .lscan f => f.sat && decide (f.sb.toNat ≥ 0x100) && decide ((if f.sb = 0x1FF then f.lit.getD 0 else constVal .b64 0 f.sb.toNat).toNat % 8 ≠ 0)
  | _ => false

/-- A word names a register beyond the group's window: a decode cause, which fails it in every lane (R19, R65, R67). -/
def windowFails (g : Group) (i : Instr) : Bool := (partsOf i).any (outsideWindow g)

/-- The place of a verdict of one part of a word among those of the other: a wait, then the causes in R427's order. -/
def Verdict.rank : Verdict → Nat
  | .wait => 0
  | .trap .poison _ _ _ => 2
  | .trap .emptyRead _ _ _ => 3
  | .trap _ _ _ _ => 1
  | .ok => 4

/-- Two parts' verdicts: the earlier one, over the lanes of both where they agree in cause. -/
def Verdict.join (v u : Verdict) : Verdict :=
  if v.rank < u.rank then v
  else if u.rank < v.rank then u
  else match v, u with
    | .trap c m d a, .trap _ n _ _ => .trap c (m ||| n) d a
    | v, _ => v

/-- The verdict of a word of one or two parts. -/
def wordVerdict (s : State) (b : Batch) (g : Group) (present : Mask) (i : Instr) : Verdict :=
  if windowFails g i then .trap .illegalOperand present 0 0
  else (partsOf i).foldl (fun v j => v.join (baseVerdict s b g present j)) .ok

/-- The detail under which a verdict carries a trap of the matrix stream, with its stream and word offset (R272). -/
def msqDetail (sidx swoff : Nat) : Nat := (1 + sidx + swoff * 2 ^ 32) * 2 ^ 64

/-- The trap of a verdict, precise at the word (R426); one carried from the matrix stream says so (R272). -/
def preciseTrap (b : Batch) (g : Group) (cause : Cause) (lanes : Mask) (detail addr : Nat) : TrapInfo :=
  if detail < 2 ^ 64 then ⟨cause, 1, lanes, detail, addr, g.obj, b.seg, b.woff, 0, 0⟩
  else
    let n := detail / 2 ^ 64 - 1
    ⟨cause, 3, lanes, 0, 0, g.obj, b.seg, b.woff, n % 2 ^ 32, n / 2 ^ 32⟩

/-- A trap taken after the word (R426). -/
def afterTrap (b : Batch) (g : Group) (cause : Cause) (flags : Nat) (lanes : Mask) (detail addr : Nat) : TrapInfo :=
  ⟨cause, flags, lanes, detail, addr, g.obj, b.seg, b.woff, 0, 0⟩

/-- A word in flight of a group may complete: its context has not stopped, and its job runs or freezes, or it was issued in the step in
progress (R446, R472, R477). -/
def flightMay (s : State) (gid seq : Nat) : Bool :=
  match s.group? gid with
  | none => false
  | some g =>
    match s.context? g.ctx with
    | none => false
    | some c =>
      (c.run == .running || c.run == .stopping)
        && (s.jobState c.jobKey == .running || s.jobState c.jobKey == .freezing
            || (match s.stepping with | some st => st.gid == gid && decide (st.first ≤ seq) | none => false))

/-! ### A word issues -/

/-- A word's own test per group of the batch: the batch waits while it is false. -/
abbrev ReadyFn := State → Batch → Group → Mask → Bool
/-- A trap the word's values call for: cause, lanes, detail, address. -/
abbrev BarFn := State → Batch → Group → Mask → Option (Cause × Mask × Nat × Nat)
/-- A word's effect in a group, with the trap that follows it. -/
abbrev BodyFn := State → Batch → Group → Mask → State × Option TrapInfo

def alwaysReady : ReadyFn := fun _ _ _ _ => true
def noBar : BarFn := fun _ _ _ _ => none

/-- A queue word whose lanes have not all published, an RREL still waiting, or a transaction-barrier word that runs again: later memory
and engine words of its batch wait (R184, R186, R322, R372). -/
def Flight.publishing (fl : Flight) : Bool :=
  match fl.kind with
  | .qput | .enq | .rrel | .tbar => true
  | _ => false

/-- A word that releases issues once the earlier accesses of its lanes have performed and its batch's records are published (R144,
R184, R372). -/
def releaseReady (i : Instr) : ReadyFn := fun _ b g present =>
  !(g.flights.any fun fl =>
    ((fl.isMem || fl.kind == .wpget) && fl.standsIn (g.actors present (fieldsOfInstr i))) || (fl.holdsBack b.id present && fl.publishing))

/-- A word whose own test takes steps 2 to 4 of R105 (R133, R184, R186, R299, R318, R319). -/
def barSteps (i : Instr) : Bool :=
  match i with
  | .tbinit _ | .tbarr _ | .tbwait _ | .march _ | .prune _ | .qput _ | .rdraw _ | .sopen _ => true
  | _ => false

/-- A lane's sources that these bits of W govern can be read. -/
def readable (s : State) (c : SrcCtx) (g : Group) (present : Mask) (i : Instr) (ws : List Nat) (l : Nat) : Bool :=
  !((srcNeeds i).any fun p => ws.contains p.2 && srcAny emptyAt s c g present l i p)

/-- A cause of the word's own test that R427 puts before EMPTY_READ and poisoned data: steps 2 to 4 of R105. -/
def stepBar (i : Instr) (bar : BarFn) (s : State) (b : Batch) (g : Group) (present : Mask) : Option Verdict :=
  if !barSteps i then none
  else
    match bar s b g present with
    | some (c, l, d, a) => if stepRank c < 5 then some (.trap c l d a) else none
    | none => none

/-- An MMOVE of a block whose MSQ has faulted takes the fault, also while it waits for its registers (R272). -/
def takesMsqFault (i : Instr) (s : State) (g : Group) : Bool :=
  match i with
  | .mmove _ => (match (s.block? g.bid).bind Block.engine with | some e => e.state == 3 | none => false)
  | _ => false

/-- The whole verdict of a word in one group. A value that a word bars comes after EMPTY_READ and poison, which R427 does not say (DESIGN CHOICE,
log entry 218). -/
def fullVerdict (i : Instr) (ready : ReadyFn) (bar : BarFn) (s : State) (b : Batch) (g : Group) (present : Mask) : Verdict :=
  match wordVerdict s b g present i with
  | .ok =>
    if !ready s b g present then .wait
    else
      match bar s b g present with
      | some (c, l, d, a) => .trap c l d a
      | none => .ok
  | .wait =>
    if takesMsqFault i s g then (match bar s b g present with | some (c, l, d, a) => .trap c l d a | none => .wait) else .wait
  | v => if v.rank < 2 then v else (stepBar i bar s b g present).getD v

/-- The members of a batch that take part in a word: those with a present lane. -/
def wordMembers (b : Batch) (i : Instr) : List (Nat × Mask) :=
  (b.members.map fun m => (m.gid, m.present (isEnd i))).filter fun p => p.2 != 0

/-- One further word of a batch: the pending results of its lanes and of its groups come nearer (R83). A word that has issued and
waits does not count again. -/
def tickBatch (s : State) (b : Batch) : State :=
  if b.wait.isSome then s
  else
    b.members.foldl (fun s m => s.modGroup m.gid fun g =>
      { (lanesOf m.lanes).foldl (fun g l => g.modFibre l tickFibre) g with kpend := tickK b.id g.kpend }) s

/-- The word fails in every lane of the batch, its absent groups among them: its cause (R66, R67). -/
def batchFails (i : Instr) (s : State) (b : Batch) : Option Cause :=
  if satFails i then some .illegalField
  else if (wordMembers b i).any fun p => match s.group? p.1 with | some g => windowFails g i | none => false then some .illegalOperand
  else none

/-- What each group's lanes meet at the word. -/
def verdicts (i : Instr) (ready : ReadyFn) (bar : BarFn) (s : State) (b : Batch) : List (Nat × Mask × Verdict) :=
  match batchFails i s b with
  | some c => b.members.map fun m => (m.gid, m.present (isEnd i), .trap c (m.present (isEnd i)) 0 0)
  | none => (wordMembers b i).map fun p =>
    match s.group? p.1 with
    | some g => (p.1, p.2, fullVerdict i ready bar s b g p.2)
    | none => (p.1, p.2, .ok)

/-- Some group holds the batch back. A group that traps first does not wait. -/
def anyWait (vs : List (Nat × Mask × Verdict)) : Bool := vs.any fun v => v.2.2 == .wait

/-- The energy of a vector word in a lane, in units of 1/160 pJ (R347). -/
def wordUnits (i : Instr) : Nat :=
  let r := rowOf i
  let f := fieldsOfInstr i
  if r.vl && decide (0x20 ≤ r.op) && decide (r.op ≤ 0x7F) then 1920
  else if ((decide (0x50 ≤ r.op) && decide (r.op ≤ 0x7F) || decide (0x84 ≤ r.op) && decide (r.op ≤ 0x87)) && f.ty == 3)
      || (decide (0x6C ≤ r.op) && decide (r.op ≤ 0x79)) then 960
  else 480

/-- The charge of a word: every participating lane of each of its parts, and the lanes counted (R347, R482). -/
def chargeWord (s : State) (g : Group) (present : Mask) (i : Instr) : State :=
  let units := sumBy (fun j =>
    let lanes := if isUniform j then present else g.participants present (fieldsOfInstr j)
    (lanesOf lanes).length * wordUnits j) (partsOf i)
  countEvent (charge s g.ctx g.bid units) g.ctx 1 (lanesOf (partLanes g present i)).length

/-- The stop bit of a word. -/
def stopBit (i : Instr) : Bool :=
  match formOf i with
  | .full _ f => f.safe
  | .dual s _ _ => s
  | _ => false

/-! ### Profiling (R483) -/

/-- The groups of a batch with their lanes. -/
def batchGroups (s : State) (b : Batch) : List (Group × Mask) :=
  b.members.filterMap fun m => (s.group? m.gid).map fun g => (g, m.lanes)

/-- One step of the LFSR x^16 + x^14 + x^13 + x^11 + 1. -/
def lfsrStep (x : Nat) : Nat :=
  let b := (bitsN x 0 1 + bitsN x 2 1 + bitsN x 3 1 + bitsN x 5 1) % 2
  x / 2 + b * 2 ^ 15

def profKey (core sched : Nat) : Nat := 4 * core + sched

def profPiv (c : Context) : Nat := max 4 (field c.pmctl 36 4)

/-- Issued words of a traced group until the next tag. -/
def profSpacing (c : Context) (lfsr : Nat) : Nat := 2 ^ profPiv c + lfsr % 2 ^ profPiv c

/-- The first traced group under PROF for which a word issues, with its lanes; helpers alone make no record (R79). A safe point takes
TRACECTL as it stands (R478). -/
def profGroup (s : State) (i : Instr) (oks : List (Nat × Mask × Verdict)) : Option (Group × Mask × Context) :=
  oks.findSome? fun p =>
    match s.group? p.1 with
    | none => none
    | some g =>
      match s.context? g.ctx with
      | none => none
      | some c =>
        let g : Group := if stopBit i then { g with trace := c.tracectl } else g
        if trPROF g && traced s g && c.trbuf != 0 && p.2.1 &&& g.workers != 0 then some (g, p.2.1, c) else none

/-- The level that serves a word (R483): none for a word that accesses no memory, and open where more than one may. -/
def profLevel (s : State) (i : Instr) : Nat :=
  if !isAccess i then 0
  else
    match spaceOf i with
    | .scratch => 2
    | .remote => 3
    | .priv => 1
    | _ => nth [1, 4, 5, 6, 7] ((s.freeVal 8100).toNat % 5)

/-- The name of the word that a batch issues for lanes of a group: a safe point is its own (R90). -/
def issueName (s : State) (b : Batch) (g : Group) (lanes : Mask) (i : Instr) : Nat × Nat :=
  match stopBit i, (s.object? g.ctx b.obj).bind fun o => o.safeAt b.seg b.woff with
  | true, some p => (p.1, 0)
  | _, _ => placeName s g lanes b.seg b.woff

/-- A word of a traced group issues: its scheduler's register starts, or counts it, and tags it once the spacing has run out. -/
def profCount (s : State) (b : Batch) (i : Instr) (oks : List (Nat × Mask × Verdict)) : State :=
  match profGroup s i oks with
  | none => s
  | some (g, lanes, c) =>
    let k := profKey b.core b.sched
    let rest := s.prof.filter fun p => p.sched != k
    match s.prof.find? fun p => p.sched == k && p.ctx == g.ctx with
    | none =>
      let seed := (Config.lfsrSeed c.seed k).toNat
      { s with prof := ⟨k, g.ctx, seed, profSpacing c seed - 1, none⟩ :: rest }
    | some p =>
      if p.tag.isSome then s
      else if p.left ≤ 1 then
        let name := issueName s b g (lanes &&& g.liveMask) i
        { s with prof := { p with left := 0, tag := some ⟨g.gid, name.1, name.2, profLevel s i, s.nextId, b.id, b.woff⟩ } :: rest }
      else { s with prof := { p with left := p.left - 1 } :: rest }

/-- A safe point issues: SAFEORD takes its ordinal in each present lane, and a traced group's record is written, but not for helpers alone
(R79, R90, R481). -/
def passSafe (s : State) (b : Batch) (gid : Nat) (present : Mask) (i : Instr) : State :=
  if !stopBit i then s
  else
    match s.group? gid with
    | none => s
    | some g =>
      match s.object? g.ctx b.obj, s.context? g.ctx with
      | some o, some c =>
        match o.safeAt b.seg b.woff with
        | none => s
        | some (ord, _) =>
          let g : Group := { g with trace := c.tracectl }
          let s := s.modGroup gid fun g => (lanesOf present).foldl (fun g l => g.modFibre l fun x => { x with safeord := ord }) { g with trace := c.tracectl }
          if present &&& g.workers = 0 then s else traceSafe s g ord 0 present
      | _, _ => s

/-- The batch moves past a word, or to the next repeat of a REP (R99). -/
def advanceBatch (s : State) (id : Nat) (i : Instr) : State :=
  s.modBatch id fun b =>
    let b := { b with wait := none, waitSince := s.clock, bp := false }
    match b.rep with
    | some r =>
      match r.next with
      | some r => { b with rep := some r }
      | none => { b with rep := none, woff := b.woff + wordCount i }
    | none => { b with woff := b.woff + wordCount i }

/-- A group's part in a word that issues for it; the end of a wait is no second issue. -/
def issueGroup (i : Instr) (body : BodyFn) (b : Batch) (r : State × List (Nat × Mask × TrapInfo)) (p : Nat × Mask × Verdict) :
    State × List (Nat × Mask × TrapInfo) :=
  match r.1.group? p.1 with
  | none => r
  | some g =>
    let s := if b.wait.isSome then r.1 else passSafe (chargeWord r.1 g p.2.1 i) b p.1 p.2.1 i
    match s.group? p.1 with
    | none => (s, r.2)
    | some g =>
      match body s b g p.2.1 with
      | (s, none) => (s, r.2)
      | (s, some t) => (s, r.2 ++ [(p.1, p.2.1, t)])

/-- The lanes of a group in a batch. -/
def Batch.lanesIn (b : Batch) (gid : Nat) : Mask := match b.members.find? fun m => m.gid == gid with | some m => m.lanes | none => 0

/-- A group whose lanes call for a precise trap leaves the batch at the word (R428); the word has not issued for the lanes that are
absent either. -/
def trapGroup (b : Batch) (s : State) (p : Nat × Mask × Verdict) : State :=
  match p.2.2, s.group? p.1 with
  | .trap c l d a, some g =>
    let s := if p.2.1 = 0 ∧ b.wait = none then s.modGroup p.1 fun g => untickLanes g (b.lanesIn p.1) else s
    raiseTrap s p.1 (preciseTrap b g c l d a) p.2.1
  | _, _ => s

/-- A batch issues a word of its context (R482), which profiling counts too, but for a stuffed one (R483). -/
def countWord (s : State) (b : Batch) (i : Instr) (oks : List (Nat × Mask × Verdict)) : State :=
  match oks with
  | [] => s
  | p :: _ =>
    if b.wait.isSome then s
    else match s.group? p.1 with
      | some g => countEvent (if b.id = 0 then s else profCount s b i oks) g.ctx 0 1
      | none => s

/-- A batch whose word cannot issue gives the slot back, and is not tried again in this clock. -/
def State.blocked (s : State) (b : Batch) : State :=
  { s with issue := none, tried := b.id :: s.tried, issued := s.issued.filter fun p => p != (b.core, b.sched) }

/-- A word has issued: the batch's clock of issue, where names stood then, and what a DBG_STEP has seen of it (R272, R362, R477). -/
def noteIssue (start : Nat) (s : State) (b : Batch) (i : Instr) : State :=
  let s := s.modBatch b.id fun b => { b with last := some s.clock, lastFrom := start }
  match s.stepping with
  | none => s
  | some st =>
    match b.members.find? fun m => m.gid == st.gid with
    | none => s
    | some m =>
      { s with stepping := some { st with
          moved := st.moved ||| m.lanes, calm := none
          passed := if stopBit i then (m.lanes, b.seg, b.woff) :: st.passed else st.passed } }

/-- Run a word for the batch in the issue slot; `fin` moves the batch on. With nothing in the slot nothing happens. A batch that must
wait gives the slot back. -/
def runWordThen (i : Instr) (ready : ReadyFn) (bar : BarFn) (body : BodyFn) (fin : State → Nat → State) (s : State) : State :=
  match issuerBatch s with
  | none => s
  | some b =>
    let t := tickBatch s b
    let vs := verdicts i ready bar t b
    if anyWait vs then s.blocked b
    else
      let traps := vs.filter fun v => v.2.2 != .ok
      let oks := vs.filter fun v => v.2.2 == .ok
      let t := traps.foldl (trapGroup b) t
      let r := oks.foldl (issueGroup i body b) (countWord t b i oks, [])
      let t := fin (noteIssue s.nextId r.1 b i) b.id
      (r.2.foldl (fun s p => raiseTrap s p.1 p.2.2 p.2.1) t).unissue

/-- Run a word after which the batch goes on to the next. -/
def runWord (i : Instr) (ready : ReadyFn) (bar : BarFn) (body : BodyFn) (s : State) : State :=
  runWordThen i ready bar body (fun s id => advanceBatch s id i) s

/-- A word without conditions of its own. -/
def plainWord (i : Instr) (body : BodyFn) (s : State) : State := runWord i alwaysReady noBar body s

/-- The lanes of a member that are present at a word which fetch or decode refused: those at the place of the segment's end word, or
where every group of the batch is absent and has come to its end word, are all of them (R67, R89). -/
def refusedLanes (s : State) (b : Batch) (m : Member) : Mask :=
  let len (g : Group) : Nat := match s.object? g.ctx b.obj with | some o => (nth o.segs b.seg).len | none => 0
  let atEnd : Bool := match s.group? m.gid with | some g => decide (len g ≤ b.woff + 1) | none => false
  m.present (atEnd || b.members.all fun m => m.present false == 0)

/-- A word that fetch or decode refuses traps for every group of the batch, over its present lanes (R67, R118). -/
def trapBatch (s : State) (b : Batch) (cause : Cause) (addr : Nat) : State :=
  let ms := b.members.map fun m => (m.gid, refusedLanes s b m)
  (ms.foldl (fun s p => trapGroup b s (p.1, p.2, .trap cause p.2 0 addr)) (tickBatch s b)).unissue

/-- The word in the slot that fetch or decode refused (R67, R118, R426); a fetch that met a translation fault files it, in the word
or else in its literal, and counts as a miss (R396, R490). -/
def refusedWord (s : State) (b : Batch) (c : Cause) : State :=
  let ctx := match b.members with
    | m :: _ => (match s.group? m.gid with | some g => g.ctx | none => 0)
    | [] => 0
  if c = .ifetchFault then
    let va := wordAddr s b ctx
    trapBatch (countEvent (fileFetch s b.core ctx 0 [va, va + 8]) ctx 4 1) b c va
  else trapBatch s b c 0

/-! ### Lane results -/

/-- What one lane of a fixed-latency word leaves: its results (none for a predicate word), a predicate and flags. -/
structure LaneOut where
  regs : List Word
  pred : Option Bool
  flags : Flags
deriving DecidableEq, Repr, Inhabited

/-- What one lane of a word reads: its lane index, A, B, C, D, STATUS, and what its random bits are drawn from. -/
structure LaneIn where
  lane : Nat
  a : Word
  b : Word
  c : Word
  /-- the destination's contents, where the word reads them -/
  d : Word
  status : Word
  fibre : Nat
  rnd : RndCtx
deriving DecidableEq, Repr, Inhabited

/-- The position and counters stochastic rounding reads (R197). -/
def rndCtxOf (s : State) (b : Batch) (g : Group) : RndCtx :=
  let seed := match s.context? g.ctx with | some c => c.seed | none => 0
  let index := match s.object? g.ctx b.obj with | some o => o.offset b.seg b.woff | none => b.woff
  let loop := match b.members.find? fun m => m.gid == g.gid with
    | some m => (match m.loops with | l :: _ => l.count | [] => 0)
    | none => 0
  ⟨seed, index, (match b.rep with | some r => r.done | none => 0), loop⟩

/-- A lane's operands. A uniform word draws the random bits of lane 0's fibre (R197). -/
def laneIn (s : State) (b : Batch) (g : Group) (i : Instr) (l : Nat) : LaneIn :=
  let c := srcCtx s b g
  ⟨l, srcA s c g l i, srcB s c g l i, srcC s c g l i,
    if readsDst i then spanVal s c g l (fieldsOfInstr i).dst.toNat 0 else 0, (g.fibre l).status, fibreId c g (if isUniform i then 0 else l), rndCtxOf s b g⟩

/-- A lane's destinations take a result (R83, R21). -/
def putOut (g : Group) (r : Row) (f : Fields) (seq : Nat) (x : Fibre) (o : LaneOut) : Fibre :=
  let x := raiseFlags x o.flags
  let x := match o.pred with
    | some p => putPred x seq r.dist f.dst.toNat p
    | none => x
  (List.range o.regs.length).foldl (fun x j => putFixed g x seq r.dist (f.dst.toNat + j) (nth o.regs j) (j == 0)) x

/-- The trap of enabled flags raised by a fixed-latency word (R34, R426). -/
def flagTrap (b : Batch) (g : Group) (hits : List (Nat × Flags)) : Option TrapInfo :=
  match hits with
  | [] => none
  | _ => some (afterTrap b g .fpEnabled 0 (maskOf (hits.map (·.1))) (fpDetail (hits.foldl (fun a h => a ||| h.2) 0) b.woff b.seg) 0)

/-- Enabled flags among raised ones. -/
def flagHits (g : Group) (fl : List (Nat × Flags)) : List (Nat × Flags) :=
  (fl.map fun p => (p.1, enabledFlags (g.fibre p.1).status p.2)).filter fun p => p.2 != 0

/-- A fixed-latency word whose lanes each compute a result: guard-true lanes take it, guard-false ones enter l0 and l1 with what the
destination holds (R21, R23), a uniform word executes once for the group (R48). -/
def fixedBody (i : Instr) (fn : LaneIn → LaneOut) (s : State) (b : Batch) (g : Group) (present : Mask) : State × Option TrapInfo :=
  let r := rowOf i
  let f := fieldsOfInstr i
  let (seq, s) := s.fresh
  if uniformWord r f then
    match lowestLane present with
    | none => (s, none)
    | some l =>
      let o := fn (laneIn s b g i l)
      let s := s.modGroup g.gid fun g =>
        let g := (lanesOf present).foldl (fun g l => g.modFibre l fun x => raiseFlags x o.flags) g
        { g with kpend := g.kpend ++ (List.range o.regs.length).map fun j =>
            (⟨b.id, seq, f.dst.toNat - 0x80 + j, nth o.regs j, 3, false⟩ : KPend) }
      (s, flagTrap b g (flagHits g ((lanesOf present).map fun l => (l, o.flags))))
  else
    let lanes := g.participants present f
    let outs := (lanesOf lanes).map fun l => (l, fn (laneIn s b g i l))
    let s' := s.modGroup g.gid fun g0 =>
      let g1 := outs.foldl (fun g1 p => g1.modFibre p.1 fun x => putOut g r f seq x p.2) g0
      if (dstUse r f).isReg then
        (lanesOf (present &&& ~~~lanes)).foldl (fun g1 l =>
          g1.modFibre l fun x => putSkipped s g x l seq r.dist f.dst.toNat) g1
      else g1
    (s', flagTrap b g (flagHits g (outs.map fun p => (p.1, p.2.flags))))

/-- A fixed-latency word of one result function. -/
def fixedWord (i : Instr) (fn : LaneIn → LaneOut) (s : State) : State := plainWord i (fixedBody i fn) s

/-- A result without flags. -/
def outW (w : Word) : LaneOut := ⟨[w], none, 0⟩
def outWF (r : Word × Flags) : LaneOut := ⟨[r.1], none, r.2⟩
def outP (p : Bool) : LaneOut := ⟨[], some p, 0⟩

/-! ### Variable-latency words -/

/-- The destinations turn empty in the lanes that take part (R27). -/
def emptyDsts (g : Group) (i : Instr) (lanes : Mask) : Group :=
  let d := dstSpan i
  if isK d.1 then
    (List.range d.2).foldl (fun g j => { g with k := g.k.set (d.1 - 0x80 + j) { nth g.k (d.1 - 0x80 + j) with full := false } }) g
  else
    (lanesOf lanes).foldl (fun g l => g.modFibre l fun x =>
      (List.range d.2).foldl (fun x j =>
        match vIndex g (d.1 + j) with
        | some n => markEmpty x n
        | none => x) x) g

/-- The helper lanes whose access fails step 2 or 3 of R105: they return zero (R79, R155). -/
def voidLanes (s : State) (g : Group) (i : Instr) (ops : List LaneOp) : Mask :=
  if !isAccess i || isUniform i then 0
  else maskOf ((ops.filter fun o => (g.fibre o.lane).helper && helperVoid s g i o.a o.b).map LaneOp.lane)

/-- A word enters flight with its lanes' operations (R27). -/
def launchFlight (i : Instr) (kind : FlightKind) (ops : List LaneOp) (s : State) (b : Batch) (g : Group) : State × Nat :=
  let (seq, s) := s.fresh
  let lanes := maskOf (ops.map LaneOp.lane)
  if ops.isEmpty then (s, seq)
  else
    (s.modGroup g.gid fun g =>
      let g := if (dstSpan i).2 = 0 then g else emptyDsts g i lanes
      { g with flights := g.flights ++
          [⟨seq, i, kind, isUniform i, ops, lanes, 0, [], b.id, b.seg, b.woff, (match b.rep with | some r => r.done | none => 0),
            b.lanesIn g.gid, voidLanes s g i ops, []⟩] }, seq)

/-- A variable-latency word whose result is computed from what it reads at issue. -/
def lateBody (i : Instr) (fn : LaneIn → LaneOut) (s : State) (b : Batch) (g : Group) (present : Mask) : State × Option TrapInfo :=
  let lanes := partLanes g present i
  let outs := (lanesOf lanes).map fun l => let x := laneIn s b g i l; (x, fn x)
  let ops := outs.map fun p => (⟨p.1.lane, p.1.a, p.1.b, p.2.regs, 0, 0⟩ : LaneOp)
  let flags : List (Nat × Flags) :=
    if isUniform i then (lanesOf present).flatMap fun l => outs.map fun p => (l, p.2.flags) else outs.map fun p => (p.1.lane, p.2.flags)
  ((launchFlight i (.alu (flags.filter fun p => p.2 != 0)) ops s b g).1, none)

def lateWord (i : Instr) (fn : LaneIn → LaneOut) (s : State) : State := plainWord i (lateBody i fn) s

end Sys2Proof.Machine
end

