-- ==== Sys2Proof/Machine/Flow.lean ====
section
/-! DEFINITION. Opcodes 0x00 to 0x13: segment ends, FORK, QUIT, loops, repeats, block barriers, predicate words, YIELD, SLEEP and
LIVE (R93 to R103). -/

namespace Sys2Proof.Machine

open Host (Outcome)

/-! ### NOP and the segment ends (R93 to R95) -/

def execNop (f : Fields) (s : State) : Outcome State Fault Refusal :=
  .next (plainWord (.nop f) (fun s _ _ _ => (s, none)) s)

/-- Entries of the segment table a batch runs in. -/
def segCount (s : State) (b : Batch) (g : Group) : Nat :=
  match s.object? g.ctx b.obj with
  | some o => o.segs.length
  | none => 0

/-- Lanes whose successor lies beyond the segment table trap ILLEGAL_OPERAND (R95). -/
def succBar (succ : State → Batch → Group → Nat → Nat) : BarFn := fun s b g present =>
  let bad := lanesWith present fun l => decide (succ s b g l ≥ segCount s b g)
  if bad = 0 then none else some (.illegalOperand, bad, 0, 0)

/-- The present fibres end the segment: their results become visible, the uniform writes of the batch reach the group, and each
fibre goes to the sorter with its successor (R73, R77, R86, R94). -/
def endSegment (succ : State → Batch → Group → Nat → Nat) (s : State) (b : Batch) (g : Group) (present : Mask) : State :=
  let next := (lanesOf present).map fun l => (l, succ s b g l)
  let s := removeLanes (endSegLanes s g.gid present) g.gid present
  let s := s.modGroup g.gid fun g => settleK g b.id
  (bySucc next).foldl (fun s p => sendLanes s g.gid p.1 p.2) s

/-- NEXT's and CALL's successor. -/
def succImm (f : Fields) : State → Batch → Group → Nat → Nat := fun _ _ _ _ => (imm27 f).toNat % 2 ^ 18

/-- NEXTP's successor. -/
def succPred (f : Fields) : State → Batch → Group → Nat → Nat := fun _ b g l =>
  let i := (imm27 f).toNat
  if ((g.fibre l).pred (bitsN i 18 4)) != bitN i 22 then i % 2 ^ 18 else b.seg + 1

/-- NEXTX's and RET's successor. -/
def succReg (i : Instr) : State → Batch → Group → Nat → Nat := fun s b g l => field (srcA s (srcCtx s b g) g l i) 0 18

def execNext (f : Fields) (s : State) : Outcome State Fault Refusal :=
  .next (runWord (.next f) alwaysReady (succBar (succImm f)) (fun s b g p => (endSegment (succImm f) s b g p, none)) s)

def execNextp (f : Fields) (s : State) : Outcome State Fault Refusal :=
  .next (runWord (.nextp f) alwaysReady (succBar (succPred f)) (fun s b g p => (endSegment (succPred f) s b g p, none)) s)

def execNextx (f : Fields) (s : State) : Outcome State Fault Refusal :=
  .next (runWord (.nextx f) alwaysReady (succBar (succReg (.nextx f)))
    (fun s b g p => (endSegment (succReg (.nextx f)) s b g p, none)) s)

/-- CALL's link: c + 1 in each present fibre. -/
def callLink (f : Fields) (s : State) (b : Batch) (g : Group) (present : Mask) : State :=
  (fixedBody (.call f) (fun _ => outW (w64 (b.seg + 1))) s b g present).1

def execCall (f : Fields) (s : State) : Outcome State Fault Refusal :=
  .next (runWord (.call f) alwaysReady (succBar (succImm f))
    (fun s b g p => (endSegment (succImm f) (callLink f s b g p) b g p, none)) s)

def execRet (f : Fields) (s : State) : Outcome State Fault Refusal :=
  .next (runWord (.ret f) alwaysReady (succBar (succReg (.ret f)))
    (fun s b g p => (endSegment (succReg (.ret f)) (traceRet s g (placeName s g p b.seg b.woff) p) b g p, none)) s)

/-- A handler whose every live fibre has issued RFT is left (R442). -/
def tryReturn (s : State) (gid : Nat) : State :=
  match s.group? gid with
  | none => s
  | some g => if g.privileged && g.rft != 0 && g.liveMask &&& ~~~g.rft == 0 then returnFromTrap s gid else s

/-- QUIT: the present fibres end (R97). -/
def quitBody (s : State) (b : Batch) (g : Group) (present : Mask) : State × Option TrapInfo :=
  (tryReturn (quitLanes (s.modGroup g.gid fun g => settleK g b.id) g.gid present) g.gid, none)

def execQuit (f : Fields) (s : State) : Outcome State Fault Refusal := .next (plainWord (.quit f) quitBody s)

/-! ### FORK (R96) -/

/-- A result of a lane's last fibre has not been written: a word in flight with a destination there (R97). -/
def resultDue (fls : List Flight) (l : Nat) : Bool :=
  fls.any fun e => !e.uniform && inMask e.pending l && !(e.noResult && e.kind != .enq) && e.kind != .qput

/-- A lane whose window entries are in use: a fibre lives on it, or a result of its last fibre is pending (R97, R342). -/
def laneUsed (g : Group) (l : Nat) : Bool := (g.fibre l).live || resultDue (g.flights ++ g.aside.map Prod.snd) l

/-- A group's window entries in use: scheduler, issue lanes, base and size (R342). -/
structure Occ where
  sched : Nat
  lanes : List Nat
  base : Nat
  win : Nat
deriving DecidableEq, Repr, Inhabited

def occOf (g : Group) : Occ := ⟨g.sched, ((List.range g.wg).filter (laneUsed g)).map (4 * g.slot + ·), g.base, g.win⟩

def coreOcc (s : State) (core : Nat) : List Occ := (s.groups.filter fun g => g.core == core).map occOf

def schedFibres (occ : List Occ) (sched : Nat) : Nat := sumBy (fun o : Occ => if o.sched == sched then o.lanes.length else 0) occ

/-- The fibres that the scheduler of a group can still take (R13, R14). -/
def forkRoom (s : State) (g : Group) : Nat := 512 - schedFibres (coreOcc s g.core) g.sched

/-- Another group holds window entries of a lane's own: they were free, and it was admitted onto them (R342). -/
def entriesTaken (s : State) (g : Group) (l : Nat) : Bool :=
  s.groups.any fun h => h.gid != g.gid && h.core == g.core && h.sched == g.sched && overlap g.base g.win h.base h.win
    && (occOf h).lanes.contains (4 * g.slot + l)

/-- Lanes of the group on which no fibre lives and for which no result is pending, while their window entries are free and the scheduler has
room (R13, R96, R342; log entry 196). -/
def freeLanes (s : State) (g : Group) : List Nat :=
  if forkRoom s g = 0 then [] else (List.range g.wg).filter fun l => !laneUsed g l && !entriesTaken s g l

/-- For each forking lane the lane of its child, if any, taken in increasing lane index. -/
def forkPlan (s : State) (g : Group) (helper : Bool) (lanes : List Nat) : List (Nat × Option Nat) :=
  (lanes.foldl (fun (acc : List (Nat × Option Nat) × List Nat) l =>
    let pick := if helper then acc.2.find? fun n => n / 4 == l / 4
      else if (g.fibre l).helper then none else acc.2.head?
    let done := acc.1 ++ [(l, pick)]
    (done, match pick with
      | some n => if (done.filterMap Prod.snd).length < forkRoom s g then acc.2.filter fun x => x != n else []
      | none => acc.2)) ([], freeLanes s g)).1

/-- A child fibre (R96). SAFEORD starts at its segment's first safe point. v0 to v7 come with their poison marks, of which R96 says nothing
(DESIGN CHOICE, log entry 208). -/
def childFibre (win : Nat) (p : Fibre) (helper : Bool) (ord : Nat) : Fibre :=
  { live := true
    v := (List.range win).map fun n => if n < 8 then { nth p.v n with full := true } else Reg.zero
    o := List.replicate 8 0, oset := 0
    status := statusReset ||| (p.status &&& 0x3EE00000#64) ||| (if helper then 0x1000000#64 else 0)
    safeord := ord, pend := [], hist := [], q := List.replicate 8 Stream.closed }

def forkSeg (f : Fields) : Nat := (imm27 f).toNat % 2 ^ 18
def forkHelper (f : Fields) : Bool := bitN (imm27 f).toNat 22
def forkPred (f : Fields) : Nat := bitsN (imm27 f).toNat 18 4

/-- A lane that will make a child waits for its v0 to v7. -/
def forkReady (f : Fields) : ReadyFn := fun s _ g present =>
  (forkPlan s g (forkHelper f) (lanesOf (g.participants present f))).all fun p =>
    p.2.isNone || (List.range 8).all fun n => !emptyAt g p.1 n

def forkBar (f : Fields) : BarFn := fun s b g present =>
  let lanes := g.participants present f
  if lanes ≠ 0 ∧ forkSeg f ≥ segCount s b g then some (.illegalOperand, lanes, 0, 0) else none

def forkBody (f : Fields) (s : State) (b : Batch) (g : Group) (present : Mask) : State × Option TrapInfo :=
  let (seq, s) := s.fresh
  let plan := forkPlan s g (forkHelper f) (lanesOf (g.participants present f))
  let ord := match s.object? g.ctx b.obj with | some o => (nth o.segs (forkSeg f)).safeord | none => 0
  let s := s.modGroup g.gid fun g1 =>
    plan.foldl (fun g1 p =>
      let g1 := match p.2 with
        | some n => g1.modFibre n fun _ => childFibre g.win (g.fibre p.1) (forkHelper f) ord
        | none => g1
      g1.modFibre p.1 fun x => putPred x seq 2 (forkPred f) p.2.isSome) g1
  (sendLanes s g.gid (forkSeg f) (maskOf (plan.filterMap Prod.snd)), none)

def execFork (f : Fields) (s : State) : Outcome State Fault Refusal :=
  .next (runWord (.fork f) (forkReady f) (forkBar f) (forkBody f) s)

/-! ### LOOP and REP (R98, R99) -/

/-- Words of a batch's segment. -/
def segLen (s : State) (b : Batch) (ctx : Nat) : Nat :=
  match s.object? ctx b.obj with
  | some o => (nth o.segs b.seg).len
  | none => 0

/-- The body that a LOOP names: first word and length. -/
def loopBody (i : Instr) (f : Fields) (b : Batch) : Nat × Nat := (b.woff + wordCount i, (imm18 f).toNat % 1024 + 1)

def loopBar (f : Fields) : BarFn := fun s b g present =>
  let loops := match b.members.find? fun m => m.gid == g.gid with | some m => m.loops | none => []
  let body := loopBody (.loop f) f b
  if loops.length ≥ 4 then some (.loopDepth, present, 0, 0)
  else if body.1 + body.2 > segLen s b g.ctx ∨ (loops.any fun l => decide (body.1 + body.2 > l.last)) then
    some (.illegalField, present, 0, 0)
  else none

/-- Where the batch goes on when no lane is present at its innermost level: after the body, or to the end word it holds (R89). -/
def skipSpent (s : State) (id : Nat) : State :=
  match s.batch? id with
  | none => s
  | some b =>
    match b.members with
    | [] => s
    | m :: _ =>
      match m.loops, s.group? m.gid with
      | l :: _, some g =>
        if b.members.all fun m => m.present false == 0 then
          match s.object? g.ctx b.obj with
          | some o =>
            let n := (nth o.segs b.seg).len
            let w := if l.last ≥ n then endOffset s b.core o b.seg n l.first else l.last
            s.modBatch id fun b => { b with woff := w }
          | none => s
        else s
      | _, _ => s

/-- Every member takes a level: the count of a group with a lane present, zero for one that is absent (R89, R98). -/
def loopFin (f : Fields) (s : State) (id : Nat) : State :=
  match s.batch? id with
  | none => s
  | some b =>
    let body := loopBody (.loop f) f b
    let push (m : Member) : Member :=
      let count := match s.group? m.gid, lowestLane (m.present false) with
        | some g, some l => (srcA s (srcCtx s b g) g l (.loop f)).toNat
        | _, _ => 0
      { m with loops := ⟨count, body.1, body.2⟩ :: m.loops }
    let s := s.modBatch id fun b => { b with members := b.members.map push }
    skipSpent (advanceBatch s id (.loop f)) id

def execLoop (f : Fields) (s : State) : Outcome State Fault Refusal :=
  .next (runWordThen (.loop f) alwaysReady (loopBar f) (fun s _ _ _ => (s, none)) (loopFin f) s)

/-- LOOP_PASS_END: the counts fall; the body starts again while any group has passes left, otherwise the level is popped (R98). -/
def passEnd (s : State) (id : Nat) : State :=
  match s.batch? id with
  | none => s
  | some b =>
    if !b.atPassEnd then s
    else
      let fall (m : Member) : Member :=
        match m.loops with
        | l :: rest => { m with loops := { l with count := l.count - 1 } :: rest }
        | [] => m
      let more := b.members.any fun m => match m.loops with | l :: _ => decide (l.count ≥ 2) | [] => false
      s.modBatch id fun b =>
        if more then
          { b with members := b.members.map fall,
                   woff := match b.members with | m :: _ => (match m.loops with | l :: _ => l.first | [] => b.woff) | [] => b.woff }
        else { b with members := b.members.map fun m => { m with loops := m.loops.tail } }

def execLoopPassEnd (batch : Nat) (s : State) : Outcome State Fault Refusal := .next (skipSpent (passEnd s batch) batch)

/-- REP's repeats and step codes. -/
def repCount (f : Fields) : Nat := (imm18 f).toNat % 64 + 1
def repStep (f : Fields) (j : Nat) : Nat := repStepOf (bitsN (imm18 f).toNat (6 + 2 * j) 2)

/-- A field that a step may move: it holds an operand code of a v or k register. -/
def steppable (op : Bool) (c : Nat) : Bool := op && (isV c || isK c)

/-- What REP bars in its target (R99). -/
def repTargetBad (f : Fields) (i : Instr) : Bool :=
  match formOf i with
  | .full r t =>
    decide (r.op < 0x14) || t.safe
    || (repStep f 0 != 0 && !steppable ((dstUse r t).isReg) t.dst.toNat)
    || (repStep f 1 != 0 && !steppable (r.lay != .J && (useA r t).isOpnd) t.sa.toNat)
    || (repStep f 2 != 0 && !steppable ((r.lay == .F || r.lay == .M) && (useB r t).isOpnd) t.sb.toNat)
    || (repStep f 3 != 0 && !steppable ((r.lay == .F || r.lay == .M) && (useC r t).isOpnd) t.sc.toNat)
  | _ => true

/-- The instruction after the word at a batch's position. -/
def nextInstr (s : State) (b : Batch) (ctx : Nat) : Option Instr :=
  match s.object? ctx b.obj with
  | some o =>
    match (fetchDecode s b.core o b.seg (b.woff + 1)).2 with
    | .ok i => some i
    | .error _ => none
  | none => none

def repBar (f : Fields) : BarFn := fun s b g present =>
  let loops := match b.members.find? fun m => m.gid == g.gid with | some m => m.loops | none => []
  let bad : Bool :=
    decide (b.woff + 1 ≥ segLen s b g.ctx) || (match loops with | l :: _ => decide (b.woff + 1 ≥ l.last) | [] => false)
    || (match nextInstr s b g.ctx with | some i => repTargetBad f i | none => false)
  if bad then some (.illegalField, present, 0, 0) else none

def repFin (f : Fields) (s : State) (id : Nat) : State :=
  let s := advanceBatch s id (.rep f)
  match s.batch? id with
  | none => s
  | some b =>
    match b.members with
    | [] => s
    | m :: _ =>
      let t : Fields := match s.group? m.gid with
        | some g =>
          (match s.object? g.ctx b.obj with
          | some o => (match (fetchDecode s b.core o b.seg b.woff).2 with | .ok i => fieldsOfInstr i | .error _ => default)
          | none => default)
        | none => default
      s.modBatch id fun b =>
        { b with rep := some ⟨repCount f, 0, repStep f 0, repStep f 1, repStep f 2, repStep f 3,
                              t.dst.toNat, t.sa.toNat, t.sb.toNat, t.sc.toNat⟩ }

def execRep (f : Fields) (s : State) : Outcome State Fault Refusal :=
  .next (runWordThen (.rep f) alwaysReady (repBar f) (fun s _ _ _ => (s, none)) (repFin f) s)

/-- A group's lanes leave the batch that is issuing and wait in the sorter at its word, which has not issued for them (R275). -/
def leaveBatch (s : State) (b : Batch) (gid : Nat) : State :=
  match s.group? gid, b.members.find? fun m => m.gid == gid with
  | some g, some m =>
    let g := untickLanes g m.lanes
    let rs := (lanesOf m.lanes).map fun l => (⟨l, b.seg, b.woff, m.loops, none, none, (g.fibre l).oset, (g.fibre l).hist, false, b.bp⟩ : Resume)
    let s := s.modGroup gid fun _ => { g with entries := g.entries ++ entriesOf s rs }
    let rest (x : Batch) : Batch := if x.id == b.id then { x with members := x.members.filter fun y => y.gid != gid } else x
    { s with batches := (s.batches.map rest).filter fun x => !x.members.isEmpty }
  | _, _ => s

/-! ### Block barriers (R100) -/

/-- An arrival record of a group, or a fresh one. -/
def arriveOf (as : List Arrive) (idx : Nat) : Arrive := (lookupBy Arrive.idx idx as).getD ⟨idx, 0, none, none⟩

def putArrive (as : List Arrive) (a : Arrive) : List Arrive := a :: dropBy Arrive.idx a.idx as

/-- The expected count an arriving lane gives: none is the zero code. -/
def barCount (i : Instr) (s : State) (b : Batch) (g : Group) (l : Nat) : Option Nat :=
  if (fieldsOfInstr i).sa = 0x0CA then none else some (srcA s (srcCtx s b g) g l i).toNat

/-- The index in SC[3:0]. -/
def barIdx (i : Instr) : Nat := (fieldsOfInstr i).sc.toNat % 16

/-- The count of a phase as its first arriving word sets it, for comparison. -/
def barSet (x : Barrier) : Option (Option Nat) :=
  if x.zero then some none else x.expected.map some

/-- The count that an arriving word sets for the barriers of a block: that of its lowest participating issue lane there (R72, R100). -/
def firstCount (i : Instr) (s : State) (b : Batch) (bid : Nat) : Option Nat :=
  let first (m : Member) : Option (Nat × Option Nat) :=
    match s.group? m.gid with
    | some g =>
      if g.bid = bid then (lowestLane (g.actors (m.present false) (fieldsOfInstr i))).map fun l => (4 * g.slot + l, barCount i s b g l) else none
    | none => none
  ((minBy (fun (p : Nat × Option Nat) => p.1) (b.members.filterMap first)).map Prod.snd).getD none

/-- Lanes whose count differs from the phase's, or is outside 1 to 32 (R100). A batch that waits is judged already. -/
def arriveBar (i : Instr) : BarFn := fun s b g present =>
  let lanes := g.actors present (fieldsOfInstr i)
  if b.wait.isSome then none
  else
    match lowestLane lanes, s.block? g.bid with
    | some _, some blk =>
      let want := (barSet (nth blk.bars (barIdx i))).getD (firstCount i s b g.bid)
      let bad := lanesWith lanes fun l =>
        barCount i s b g l != want || (match barCount i s b g l with | some n => decide (n < 1) || decide (n > 32) | none => false)
      if bad = 0 then none else some (.illegalOperand, bad, 0, 0)
    | _, _ => none

/-- One group's fibres arrive (R100): the phase's count is set by the first arriving word; the group arrives with its last live
non-helper fibre, and the phase turns when the arrivals reach the count. An arriving word that a fibre issues again before its group has
arrived counts no second arrival, which the spec does not say (DESIGN CHOICE, log entry 220). -/
def arriveBlock (i : Instr) (s : State) (b : Batch) (g : Group) (present : Mask) : State :=
  let lanes := g.actors present (fieldsOfInstr i)
  match lowestLane lanes, s.block? g.bid with
  | some l0, some blk =>
    let idx := barIdx i
    let x := nth blk.bars idx
    let x : Barrier := if (barSet x).isSome then x
      else match barCount i s b g l0 with
        | some n => { x with expected := some n, zero := false }
        | none => { x with expected := some 32, zero := true }
    let a := arriveOf g.bars idx
    let joined := a.lanes ||| lanes
    let s := (lanesOf lanes).foldl (fun s l => releaseAt s g.core g.ctx g.gid l .block) s
    let full := g.workers &&& ~~~joined == 0
    let a : Arrive := if full then { a with lanes := 0, phase := some x.phase } else { a with lanes := joined }
    let s := s.modGroup g.gid fun g =>
      { g with bars := putArrive g.bars a }.publishK
    let x : Barrier := if full then { x with arrived := x.arrived + 1 } else x
    let s := s.modBlock g.bid fun blk => { blk with bars := blk.bars.set idx x }
    recountBarriers s g.bid
  | _, _ => s

/-- The phase a waiting batch of a group waits out: the one latched for the group, else that of the group's arrival. -/
def waitPhase (phases : List (Nat × Nat)) (a : Arrive) (gid : Nat) : Option Nat :=
  match phases.find? fun p => p.1 == gid with
  | some p => some p.2
  | none => a.phase

/-- The wait of a group at a block barrier is over. -/
def barDone (idx : Nat) (phases : List (Nat × Nat)) (s : State) (g : Group) (present : Mask) : Bool :=
  let a := arriveOf g.bars idx
  let cur := (nth ((s.block? g.bid).getD default).bars idx).phase
  (phases.any (fun p => p.1 == g.gid) || (a.lanes &&& present) == 0) &&
    (match waitPhase phases a g.gid with | some p => decide (cur > p) | none => false)

/-- The end of a wait in its acting lanes: an acquire at block scope, and the completion is observed; helpers alone have waited for nothing
(R79, R100). -/
def endBarWait (idx : Nat) (seen : Arrive → Option Nat) (s : State) (g : Group) (lanes : Mask) : State :=
  if lanes = 0 then s
  else
    let a := arriveOf g.bars idx
    let s := (lanesOf lanes).foldl (fun s l => acquireAt s g.core g.ctx g.gid l .block) s
    s.modGroup g.gid fun g => { g with bars := putArrive g.bars { a with observed := seen a } }

/-- The batch's wait at a block barrier, if it stands in one. -/
def Batch.barWait (b : Batch) : Option (List (Nat × Nat)) :=
  match b.wait with
  | some (.bar _ ps) => some ps
  | _ => none

/-- Stay at the word and wait, or go on when a wait has just ended. -/
def barFin (i : Instr) (phases : State → Batch → List (Nat × Nat)) (b0 : Option Batch) (s : State) (id : Nat) : State :=
  match b0 with
  | some b =>
    if b.barWait.isSome then advanceBatch s id i
    else s.modBatch id fun x => { x with wait := some (.bar (barIdx i) (phases s x)), waitSince := s.clock }
  | none => s

/-- BAR and BARW: a wait lasts until it is over in every group; a helper alone waits for nothing. BAR cannot issue in fibres that have
arrived while their group's arrival is incomplete (R100). -/
def barReady (i : Instr) : ReadyFn := fun s b g present =>
  let lanes := g.actors present (fieldsOfInstr i)
  match b.barWait with
  | some ps => lanes == 0 || barDone (barIdx i) ps s g lanes
  | none => releaseReady i s b g present && (lanes == 0 || lanes &&& ~~~(arriveOf g.bars (barIdx i)).lanes != 0)

def barBody (i : Instr) (s : State) (b : Batch) (g : Group) (present : Mask) : State × Option TrapInfo :=
  match b.barWait with
  | some ps => (endBarWait (barIdx i) (fun a => waitPhase ps a g.gid) s g (g.actors present (fieldsOfInstr i)), none)
  | none => (arriveBlock i s b g present, none)

def execBar (f : Fields) (s : State) : Outcome State Fault Refusal :=
  .next (runWordThen (.bar f) (barReady (.bar f)) (arriveBar (.bar f)) (barBody (.bar f))
    (barFin (.bar f) (fun _ _ => []) (issuerBatch s)) s)

def execBara (f : Fields) (s : State) : Outcome State Fault Refusal :=
  .next (runWord (.bara f) (releaseReady (.bara f)) (arriveBar (.bara f)) (fun s b g p => (arriveBlock (.bara f) s b g p, none)) s)

/-- BARW cannot start its wait while the group's own arrival is incomplete (R100). -/
def barwReady (i : Instr) : ReadyFn := fun s b g present =>
  match b.barWait with
  | some _ => barReady i s b g present
  | none => g.actors present (fieldsOfInstr i) == 0 || (arriveOf g.bars (barIdx i)).lanes == 0

/-- The phase each group of a BARW waits out: that of its latest arrival while it has not observed it, else the current one. -/
def barwPhases (i : Instr) (s : State) (b : Batch) : List (Nat × Nat) :=
  b.members.filterMap fun m =>
    match s.group? m.gid with
    | none => none
    | some g =>
      let a := arriveOf g.bars (barIdx i)
      let cur := (nth ((s.block? g.bid).getD default).bars (barIdx i)).phase
      match a.phase with
      | some p => some (g.gid, if a.observed = some p then cur else p)
      | none => some (g.gid, cur)

def barwBody (i : Instr) (s : State) (b : Batch) (g : Group) (present : Mask) : State × Option TrapInfo :=
  match b.barWait with
  | some ps =>
    (endBarWait (barIdx i) (fun a => if waitPhase ps a g.gid = a.phase then a.phase else a.observed) s g (g.actors present (fieldsOfInstr i)), none)
  | none => (s, none)

def execBarw (f : Fields) (s : State) : Outcome State Fault Refusal :=
  .next (runWordThen (.barw f) (barwReady (.barw f)) noBar (barwBody (.barw f))
    (barFin (.barw f) (barwPhases (.barw f)) (issuerBatch s)) s)

/-! ### Predicates as wholes (R101) -/

/-- Every guard-true lane of a group writes a predicate; others keep theirs. -/
def predBody (i : Instr) (fn : Group → Mask → Nat → Bool) (s : State) (_ : Batch) (g : Group) (present : Mask) :
    State × Option TrapInfo :=
  let f := fieldsOfInstr i
  let (seq, s) := s.fresh
  let lanes := g.participants present f
  let cands := g.actors present f
  (s.modGroup g.gid fun g1 =>
    (lanesOf lanes).foldl (fun g1 l => g1.modFibre l fun x => putPred x seq 2 f.dst.toNat (fn g cands l)) g1, none)

def execElect (f : Fields) (s : State) : Outcome State Fault Refusal :=
  .next (plainWord (.elect f) (predBody (.elect f) fun _ cands l => lowestLane cands == some l) s)

/-- The candidates with a predicate true. -/
def votesFor (g : Group) (cands : Mask) (p : Nat) : Mask := g.filterLanes cands fun x => x.pred p

/-- VOTE writes in its candidates only. For l0 and l1 a ballot counts in every other present lane with the destination's unchanged contents, in
helpers with a true guard too, for which R21 does not say it (DESIGN CHOICE, log entry 221). -/
def voteBody (f : Fields) (s : State) (_ : Batch) (g : Group) (present : Mask) : State × Option TrapInfo :=
  let cands := g.actors present f
  let yes := votesFor g cands (f.sa.toNat % 16)
  let (seq, s) := s.fresh
  if f.sc.toNat % 4 = 2 then
    let s' := s.modGroup g.gid fun g1 =>
      let g1 := (lanesOf cands).foldl (fun g1 l => g1.modFibre l fun x => putFixed g x seq 2 f.dst.toNat (w64 yes.toNat) true) g1
      (lanesOf (present &&& ~~~cands)).foldl (fun g1 l => g1.modFibre l fun x => putSkipped s g x l seq 2 f.dst.toNat) g1
    (s', none)
  else
    let r := if f.sc.toNat % 4 = 0 then yes == cands else yes != 0
    (s.modGroup g.gid fun g1 => (lanesOf cands).foldl (fun g1 l => g1.modFibre l fun x => putPred x seq 2 f.dst.toNat r) g1, none)

def execVote (f : Fields) (s : State) : Outcome State Fault Refusal := .next (plainWord (.vote f) (voteBody f) s)

/-- PLOP's truth table over three predicates of a fibre. -/
def plopBit (f : Fields) (x : Fibre) : Bool :=
  let i := (imm18 f).toNat
  let b2n (p : Bool) (n : Nat) : Nat := if p then n else 0
  bitN (i / 256) (b2n (x.pred (f.sa.toNat % 16)) 4 + b2n (x.pred (i % 16)) 2 + b2n (x.pred (i / 16 % 16)) 1)

def execPlop (f : Fields) (s : State) : Outcome State Fault Refusal :=
  .next (plainWord (.plop f) (predBody (.plop f) fun g _ l => plopBit f (g.fibre l)) s)

/-- PMOV from a register: the predicates a mask picks. -/
def pmovWrite (x : Fibre) (seq : Nat) (val mask : Word) : Fibre :=
  (List.range 16).foldl (fun x n => if n ≠ 0 ∧ mask.getLsbD n then putPred x seq 2 n (val.getLsbD n) else x) x

def pmovBody (f : Fields) (s : State) (b : Batch) (g : Group) (present : Mask) : State × Option TrapInfo :=
  if f.sc.getLsbD 0 then
    let (seq, s) := s.fresh
    let c := srcCtx s b g
    (s.modGroup g.gid fun g1 =>
      (lanesOf (g.participants present f)).foldl (fun g1 l =>
        g1.modFibre l fun x => pmovWrite x seq (srcA s c g l (.pmov f)) (srcB s c g l (.pmov f))) g1, none)
  else fixedBody (.pmov f) (fun x => outW ((x.status &&& 0xFFFF#64) ||| 1#64)) s b g present

def execPmov (f : Fields) (s : State) : Outcome State Fault Refusal := .next (plainWord (.pmov f) (pmovBody f) s)

/-! ### YIELD, SLEEP, LIVE (R102, R103) -/

def execYield (f : Fields) (s : State) : Outcome State Fault Refusal :=
  .next (runWordThen (.yield f) alwaysReady noBar (fun s _ _ _ => (s, none))
    (fun s id => (advanceBatch s id (.yield f)).modBatch id fun b => { b with time := s.clock }) s)

/-- The clocks SLEEP lasts: from n to n + 64, which of them is left open (R102). -/
def sleepClocks (s : State) (n : Nat) : Nat := if n = 0 then 0 else n + (s.freeVal 20).toNat % 65

def execSleep (f : Fields) (s : State) : Outcome State Fault Refusal :=
  .next (runWordThen (.sleep f) alwaysReady noBar (fun s _ _ _ => (s, none))
    (fun s id => (advanceBatch s id (.sleep f)).modBatch id fun b =>
      let n := sleepClocks s ((imm18 f).toNat % 2 ^ 16)
      { b with sleepUntil := if n = 0 then 0 else s.clock + n }) s)

/-- SLEEP_END: the time has run out and the batch may issue again. -/
def execSleepEnd (batch : Nat) (s : State) : Outcome State Fault Refusal :=
  .next (s.modBatch batch fun b => if b.sleepUntil ≤ s.clock then { b with sleepUntil := 0 } else b)

/-- The live masks of a group (R103). -/
def liveWord (g : Group) : Word := w64 (g.workers.toNat + g.helpers.toNat * 2 ^ 32)

def execLive (f : Fields) (s : State) : Outcome State Fault Refusal :=
  .next (plainWord (.live f) (fun s b g p => fixedBody (.live f) (fun _ => outW (liveWord g)) s b g p) s)

end Sys2Proof.Machine
end

