-- ==== Sys2Proof/Machine/Suspend.lean ====
section
/-! DEFINITION. Suspending a group into a continuation record (R365, R366, R375), and what a memory word does when its lanes are
parked at a page fault (R397). -/

namespace Sys2Proof.Machine

/-- The v and k registers of a live map, as operand codes (R408). -/
def mapRegs (m : Nat) : List Nat := (List.range 192).filter (bitN m)

/-- A task launch: one group per block, SCR = 0 and FLAGS[1] clear (R365). -/
def Launch.isTask (l : Launch) : Bool := l.gpb == 1 && l.scr == 0 && !bitN l.flags 1

/-- The lowest free record of a context's continuation pool. -/
def Context.freeRecord (c : Context) : Option Nat := (List.range c.ccount).find? fun n => !c.contUsed.contains n

/-- The record a group that stands in a segment may suspend into with a successor, where R365 holds. -/
def suspendRecord (s : State) (g : Group) (seg succ : Nat) : Option Nat :=
  match s.launch? g.lid, s.object? g.ctx g.obj, s.context? g.ctx with
  | some l, some o, some c =>
    if l.isTask && (nth o.segs seg).asm == 2 && decide (succ < o.segs.length)
        && decide ((mapRegs (o.liveMap succ)).length ≤ 16) then c.freeRecord
    else none
  | _, _, _ => none

/-- Every register that the successor's live map names is full, and every write the group has issued has performed (R366). -/
def suspendReady (s : State) (g : Group) (succ : Nat) : Bool :=
  match s.object? g.ctx g.obj with
  | some o =>
    (mapRegs (o.liveMap succ)).all (fun c => (lanesOf g.liveMask).all fun l => !emptyAt g l c)
      && g.flights.all (fun fl => !fl.writes)
  | none => false

/-- The wait descriptor's meaning (R375); none where it is malformed. -/
def contWait (w : Word) : Option ContWait :=
  let v := w.toNat
  match field w 62 2 with
  | 0 => if v = 0 then some .ready else none
  | 1 => if field w 48 14 = 0 ∧ field w 0 16 ≠ 0xFFFF then some (.event (field w 0 16) (field w 16 32)) else none
  | 2 =>
    if field w 6 10 = 0 ∧ field w 22 40 = 0 ∧ 1 ≤ field w 16 6 ∧ field w 16 6 ≤ 32 then some (.room (field w 0 6) (field w 16 6)) else none
  | _ => none

/-- The descriptor words that ENQ and EVWAIT make (R372, R374). -/
def waitRoom (q need : Nat) : Word := w64 (2 * 2 ^ 62 + need * 2 ^ 16 + q)
def waitEvent (name target : Nat) : Word := w64 (2 ^ 62 + target * 2 ^ 16 + name)

/-- A continuation record's parts by offset (R366). The group's fixed-latency results are visible. -/
def contParts (s : State) (g : Group) (l : Launch) (o : CodeObj) (succ : Nat) (wait : Word) : List (Nat × List Byte) :=
  let regs := mapRegs (o.liveMap succ)
  let lanes := lanesOf g.liveMask
  [(0, toBytes g.obj 8 ++ toBytes succ 4 ++ toBytes l.stage 2 ++ toBytes g.wg 1 ++ toBytes g.cprio 1
      ++ toBytes ((s.block? g.bid).getD default).linear 4 ++ toBytes l.index 4 ++ toBytes (liveWord g).toNat 8 ++ toBytes wait.toNat 8),
   (48, (List.range 16).flatMap fun j => toBytes ((regs[j]?).getD 0xFFFF) 2)]
  ++ lanes.map (fun n => (128 + 4 * n, toBytes (field (g.fibre n).status 0 32) 4))
  ++ (List.range regs.length).flatMap (fun j =>
      let c := nth regs j
      if isK c then [(256 + 256 * j, toBytes (nth g.k (c - 0x80)).val.toNat 8)]
      else lanes.map fun n => (256 + 256 * j + 8 * n, toBytes (nth (g.fibre n).v c).val.toNat 8))
  ++ [(4352, lanes.map fun n =>
      if (g.fibre n).q.any Stream.opened then Config.partByte ((g.fibre n).q.map Stream.coordNow) n else 0)]

def Context.recordAddr (c : Context) (n : Nat) : Nat := c.cpool + 8192 * n

/-- Lay parts over zeros. -/
def layParts (size : Nat) (ps : List (Nat × List Byte)) : List Byte :=
  ps.foldl (fun bs p => bs.take p.1 ++ p.2 ++ bs.drop (p.1 + p.2.length)) (List.replicate size 0)

/-- Write a group's continuation record and end its fibres; its launch stays incomplete (R365, R366). None where the pool's page
takes no write. -/
def suspendGroup (s : State) (gid succ : Nat) (wait : Word) (record : Nat) : Option State :=
  match s.group? gid with
  | none => none
  | some g0 =>
    let s := endSegLanes s gid g0.liveMask
    let s := s.modGroup gid fun g => (g.kpend.map KPend.batch).eraseDups.foldl settleK g
    match s.group? gid, s.launch? g0.lid, s.object? g0.ctx g0.obj, s.context? g0.ctx with
    | some g, some l, some o, some c =>
      let s := (lanesOf g.liveMask).foldl (fun s n => releaseAt s g.core g.ctx gid n .device) s
      match engineWrite s g.core g.ctx (c.recordAddr record) (layParts 8192 (contParts s g l o succ wait)) with
      | (_, .error _) => none
      | (s, .ok ()) =>
        let saved := (lanesOf g.liveMask).map fun n => (n, (g.fibre n).q)
        let s := s.modContext g.ctx fun c => { c with contUsed := record :: c.contUsed }
        let s := { s with conts := s.conts ++ [⟨g.ctx, record, (contWait wait).getD .ready, g.lid, saved⟩] }
        some (endGroup (moveUsers (commitBlock s g.bid) gid (contKey g.ctx record)) gid)
    | _, _, _, _ => none

/-- Suspend where R365 and R366 let the group, else leave it. -/
def trySuspend (s : State) (g : Group) (seg succ : Nat) (wait : Word) : Option State :=
  match suspendRecord s g seg succ with
  | some n => if suspendReady s g succ then suspendGroup s g.gid succ wait n else none
  | none => none

/-! ### Page faults of fibres (R397) -/

/-- What a word's access to global memory asks of its page (R108, R184). -/
def accessOf (i : Instr) : Access :=
  match flightKind i with
  | some (.store _) => .write
  | some (.atomic _) => if opOf i = 0xA7 then .reduce else .atomic
  | _ => match i with | .qput _ => .atomic | .enq _ => .write | _ => .read

/-- The page, NP and access of a translation fault. -/
def PortErr.fault? {α : Type} (acc : Access) : Except PortErr α → Option (Nat × Bool × Access)
  | .error (.page va np) => some (va, np, acc)
  | _ => none

/-- The first translation that an access of a lane meets, without performing it: the fault it would park at. -/
def lanePark (s : State) (g : Group) (i : Instr) (va : Nat) : Option (Nat × Bool × Access) :=
  PortErr.fault? (accessOf i) (portXl s g va (accessOf i) 0 []).2

/-- What a lane's access would park at, tried without performing it. -/
abbrev Probe := Nat → Option (Nat × Bool × Access)

/-- The lanes of a word that a page would park, each with its address, under fault policy 1 and at the segment's first word (log entry 156). -/
def parkHits (s : State) (b : Batch) (g : Group) (lanes : Mask) (probe : Probe) : List (Nat × Nat × Bool × Access) :=
  if (s.context? g.ctx).all (fun c => c.fpol != 1) || b.woff != 0 || b.rep.isSome then []
  else (lanesOf lanes).filterMap fun l => if (g.fibre l).helper then none else (probe l).map fun h => (l, h)

/-- Where R365 holds with the word's segment as successor, its group suspends before any lane performs: the faults are filed and the word
runs again when the record resumes (R397). -/
def parkSuspend (i : Instr) (s : State) (b : Batch) (g : Group) (lanes : Mask) (probe : Probe) : Option State :=
  let hits := parkHits s b g lanes probe
  let agent := if opOf i = 0xAE ∨ opOf i = 0xAF then 2 else 0
  if hits.isEmpty then none
  else trySuspend (hits.foldl (fun s h => fibreFault s g h.1 b.seg b.woff h.2.1 agent h.2.2.2 h.2.2.1) s) g b.seg b.seg 0

/-- Such a word first waits until its group may suspend (R366, R397). -/
def parkWaits (s : State) (b : Batch) (g : Group) (lanes : Mask) (probe : Probe) : Bool :=
  !(parkHits s b g lanes probe).isEmpty && (suspendRecord s g b.seg b.seg).isSome && !suspendReady s g b.seg

end Sys2Proof.Machine
end

