-- ==== Sys2Proof/Machine/Access.lean ====
section
/-! DEFINITION. The memory instructions: plain loads and stores of every space, the atomics, FETCH and FETCH3 (R105 to R125, R130,
R131), with the watchpoints they meet (R467). -/

namespace Sys2Proof.Machine

open Host (Outcome)

/-- The lanes of a memory word: stores and reductions of helpers do nothing (R79); a uniform word is one access (R48). -/
def memLanes (i : Instr) (g : Group) (present : Mask) : Mask :=
  if isUniform i then partLanes g present i
  else
    match flightKind i with
    | some (.store _) => g.actors present (fieldsOfInstr i)
    | _ => if opOf i = 0xA7 then g.actors present (fieldsOfInstr i) else g.participants present (fieldsOfInstr i)

/-- The registers a memory word captures at issue: the data of a store or an atomic, FETCH3's coordinates (R120, R122, R124, R131). -/
def memData (i : Instr) (s : State) (c : SrcCtx) (g : Group) (l : Nat) : List Word :=
  let r := rowOf i
  let f := fieldsOfInstr i
  match i with
  | .fetch3 _ => (List.range 3).map fun j => spanVal s c g l f.sb.toNat j
  | _ => if (dstUse r f).readsData then (List.range (dstCount r f)).map fun j => spanVal s c g l f.dst.toNat j else []

/-- A lane's access as captured at issue. -/
def memOp (i : Instr) (s : State) (c : SrcCtx) (g : Group) (l : Nat) : LaneOp :=
  let a := srcA s c g l i
  let b := srcB s c g l i
  ⟨l, a, b, memData i s c g l, eaOf i a b, (targetBlock s g i b).getD 0⟩

/-- A ray job of the group waits for an entry of the range-lock table (R158). -/
def rayStalls (s : State) (g : Group) : Bool := ((s.core? g.core).getD default).rays.any fun j => j.gid == g.gid && !j.named

/-- A batch issues no later memory word while lanes of an earlier one of its fibres are parked, records are unpublished or ranges unregistered
(R158, R184, R372, R397). -/
def memReady : ReadyFn := fun s b g present =>
  !rayStalls s g && !(g.flights.any fun fl => fl.holdsBack b.id present && ((!fl.held.isEmpty && fl.kind != .march && fl.kind != .prune) || fl.publishing))

/-- FETCH3 of a lane with its reads through `rd` (R131). -/
def fetch3Try (rd : Rd) (s : State) (op : LaneOp) : State × Except PortErr (List Word) :=
  fetch3Words rd op.ea (field (nth op.data 0) 0 32) (field (nth op.data 1) 0 32) (field (nth op.data 2) 0 32) s

/-- The page that a lane of a word would park at (R397). -/
def memProbe (i : Instr) (s : State) (b : Batch) (g : Group) : Probe := fun l =>
  let op := memOp i s (srcCtx s b g) g l
  match i with
  | .fetch3 _ => PortErr.fault? .read (fetch3Try (fun s a n => grinderRead s g.core g.ctx a n 0) s op).2
  | _ => lanePark s g i op.ea

/-- A word that accesses memory issues: as above, and a group that is to suspend at it may do so. -/
def accessReady (i : Instr) : ReadyFn := fun s b g present =>
  memReady s b g present && !(spaceOf i == .global && parkWaits s b g (memLanes i g present) (memProbe i s b g))

/-! ### Watchpoints (R467) -/

/-- One kind of access of a word, for watchpoints: the space as WP_SET codes it, whether it reads and writes, and whether a lane's reaches a byte
of a range. -/
structure WatchAcc where
  space : Nat
  reads : Bool
  writes : Bool
  touches : LaneOp → Nat → Nat → Bool

/-- An access of so many bytes at the lane's address. -/
def touchAt (size : Nat) (o : LaneOp) (base len : Nat) : Bool := overlap o.ea size base len

/-- Reads that end where they would reach a byte of a range, and the mark they end with. -/
def watchMark : PortErr := .held (2 ^ 64)
def watchRd (rd : Rd) (base len : Nat) : Rd := fun s a n => if overlap a n base len then (s, .error watchMark) else rd s a n

/-- A read was about to reach the range. -/
def marked {α : Type} : Except PortErr α → Bool
  | .error e => e == watchMark
  | .ok _ => false

def watchAcc (i : Instr) (s : State) (g : Group) : WatchAcc :=
  { space := match spaceOf i with | .scratch | .remote => 1 | .priv => 2 | _ => 0
    reads := match flightKind i with | some (.store _) => false | _ => true
    writes := instrWrites i
    touches := match i with
      | .fetch3 _ => fun o base len => marked (fetch3Try (watchRd (fun s a n => grinderRead s g.core g.ctx a n 0) base len) s o).2
      | _ => touchAt (accessSize i) }

/-- An entry matches a lane's access. -/
def watchHit (s : State) (g : Group) (a : WatchAcc) (w : WatchPt) (o : LaneOp) : Bool :=
  w.ctx == g.ctx && decide (w.len > 0) && bitsN w.kinds 12 2 == a.space
    && ((bitN w.kinds 14 && a.writes) || (bitN w.kinds 15 && a.reads))
    && (a.space != 1 || bitsN w.kinds 17 9 == ((s.block? o.tgt).getD default).core)
    && a.touches o w.addr w.len

/-- The lowest entry that a word's lanes match, with those lanes. Helpers match none. -/
def watchFind (s : State) (g : Group) (uniform : Bool) (as : List WatchAcc) (ops : List LaneOp) : Option (Nat × WatchPt × Mask) :=
  ((List.range s.wps.length).zip s.wps).findSome? fun p =>
    match p.2 with
    | none => none
    | some w =>
      let m := maskOf ((ops.filter fun o => (uniform || !(g.fibre o.lane).helper) && as.any fun a => watchHit s g a w o).map LaneOp.lane)
      if m = 0 then none else some (p.1, w, m)

/-- What an entry with ACT 0 does: a trigger, or while the job is not running a cause that is held in the group, in a step or behind a stuffed
word (R462, R467, R470). -/
def watchWave (s : State) (b : Batch) (g : Group) (m : Mask) (n : Nat) : State × Option TrapInfo :=
  let t := afterTrap b g .watch (4 + watchFlag) m n 0
  if jobRuns s g.ctx then (trigger s g.ctx 2 (groupTrig s g m 0x10 b.seg b.woff n), none)
  else if !bitN ((s.context? g.ctx).getD default).trig 2 then (s, none)
  else if b.id = 0 then (s.modGroup g.gid fun g => { g with held := g.held ++ [⟨s.nextId, t, b.lanesIn g.gid⟩] }, none)
  else (s, some t)

/-- What a watchpoint does at the boundary after the word; `s0` is the state in which its accesses are judged. -/
def watchEnd (s0 s : State) (b : Batch) (g : Group) (uniform : Bool) (as : List WatchAcc) (ops : List LaneOp) : State × Option TrapInfo :=
  match watchFind s0 g uniform as ops with
  | none => (s, none)
  | some (n, w, m) => if bitN w.kinds 16 then (s, some (afterTrap b g .watch 4 m n 0)) else watchWave s b g m n

/-! ### The words -/

/-- A memory word issues: its lanes' accesses enter flight; what has no result performs as soon as it may. -/
def memBody (i : Instr) (s : State) (b : Batch) (g : Group) (present : Mask) : State × Option TrapInfo :=
  let kind := (flightKind i).getD (.load .global)
  let ops := (lanesOf (memLanes i g present)).map (memOp i s (srcCtx s b g) g)
  match (if spaceOf i = .global then parkSuspend i s b g (memLanes i g present) (memProbe i s b g) else none) with
  | some s => (s, none)
  | none => watchEnd s (drainStores (launchFlight i kind ops s b g).1 g.gid) b g (isUniform i) [watchAcc i s g] ops

/-- After a memory word the batch goes on; parked lanes of what performed at once may trap its groups (R426). -/
def memFin (i : Instr) (b0 : Option Batch) (s : State) (id : Nat) : State :=
  let s := advanceBatch s id i
  ((b0.getD default).members.map Member.gid).foldl raiseHeld s

def memWord (i : Instr) (s : State) : State := runWordThen i (accessReady i) noBar (memBody i) (memFin i (issuerBatch s)) s

def execLd (f : Fields) (s : State) : Outcome State Fault Refusal := .next (memWord (.ld f) s)
def execSt (f : Fields) (s : State) : Outcome State Fault Refusal := .next (memWord (.st f) s)
def execLds (f : Fields) (s : State) : Outcome State Fault Refusal := .next (memWord (.lds f) s)
def execSts (f : Fields) (s : State) : Outcome State Fault Refusal := .next (memWord (.sts f) s)
def execLdp (f : Fields) (s : State) : Outcome State Fault Refusal := .next (memWord (.ldp f) s)
def execStp (f : Fields) (s : State) : Outcome State Fault Refusal := .next (memWord (.stp f) s)
def execLdrs (f : Fields) (s : State) : Outcome State Fault Refusal := .next (memWord (.ldrs f) s)
def execStrs (f : Fields) (s : State) : Outcome State Fault Refusal := .next (memWord (.strs f) s)
def execAtom (f : Fields) (s : State) : Outcome State Fault Refusal := .next (memWord (.atom f) s)
def execRed (f : Fields) (s : State) : Outcome State Fault Refusal := .next (memWord (.red f) s)
def execSatom (f : Fields) (s : State) : Outcome State Fault Refusal := .next (memWord (.satom f) s)
def execCas (f : Fields) (s : State) : Outcome State Fault Refusal := .next (memWord (.cas f) s)
def execFetch (f : Fields) (s : State) : Outcome State Fault Refusal := .next (memWord (.fetch f) s)
def execFetch3 (f : Fields) (s : State) : Outcome State Fault Refusal := .next (memWord (.fetch3 f) s)

end Sys2Proof.Machine
end

