-- ==== Sys2Proof/Machine/Fence.lean ====
section
/-! DEFINITION. Fences, prefetches and the instruction cache (R118, R126 to R129, R144 to R148, R151). -/

namespace Sys2Proof.Machine

open Host (Outcome)

/-! ### FENCE and FENCERO -/

/-- FENCE's kind: 0 acq, 1 rel, 2 acqrel, 3 seq (R56); FENCERO waits as an acquire does. -/
def fenceKind (i : Instr) : Nat :=
  match i with
  | .fence f => f.sc.toNat / 8 % 4
  | _ => 0

def fenceScope (i : Instr) : Scope :=
  match i with
  | .fence f => Scope.ofCode (f.sc.toNat % 8)
  | _ => .device

/-- An earlier access that a fence of this kind orders: the reads for an acquire, every access for the other kinds. -/
def fenceWaits (kind : Nat) (fl : Flight) : Bool := fl.kind == .wpget || if kind = 0 then fl.reads else fl.isMem

/-- A stream register of the fibre is still being settled: its reads have not all taken their values (R133). -/
def Fibre.streaming (x : Fibre) : Bool := x.q.any fun q => q.op.isSome && q.fault.isNone

/-- The fence issues once the accesses it orders have taken their values or performed, the reads of the stream registers among them
(R145, R151). -/
def fenceReady (i : Instr) : ReadyFn := fun s b g present =>
  let lanes := g.actors present (fieldsOfInstr i)
  memReady s b g present && !(g.flights.any fun fl => fenceWaits (fenceKind i) fl && fl.standsIn lanes)
    && !((lanesOf lanes).any fun l => (g.fibre l).streaming)

/-- A fibre's fence: its release, then its acquire. -/
def fenceLane (kind : Nat) (sc : Scope) (g : Group) (s : State) (l : Nat) : State :=
  let s := if kind ≠ 0 then releaseAt s g.core g.ctx g.gid l sc else s
  if kind ≠ 1 then acquireAt s g.core g.ctx g.gid l sc else s

def fenceBody (i : Instr) (s : State) (_ : Batch) (g : Group) (present : Mask) : State × Option TrapInfo :=
  ((lanesOf (g.actors present (fieldsOfInstr i))).foldl (fenceLane (fenceKind i) (fenceScope i) g) s, none)

def execFence (f : Fields) (s : State) : Outcome State Fault Refusal :=
  .next (runWord (.fence f) (fenceReady (.fence f)) noBar (fenceBody (.fence f)) s)

def fenceroBody (f : Fields) (s : State) (b : Batch) (g : Group) (present : Mask) : State × Option TrapInfo :=
  if g.actors present f = 0 then (s, none) else fenceBody (.fencero f) (grinderDrop s g.core g.ctx) b g present

def execFencero (f : Fields) (s : State) : Outcome State Fault Refusal :=
  .next (runWord (.fencero f) (fenceReady (.fencero f)) noBar (fenceroBody f) s)

/-! ### PREF -/

/-- The 128-byte line of a page as its core would fill it, from the line's own target. -/
def fillLine (s : State) (core ctx line rm : Nat) (t : Target) : CacheLine :=
  ⟨ctx, line, (corePend s core ctx).foldl (fun bs w => overlay (line * 128) bs w.va w.bytes) (readTarget s t 128).1, homeBad s t, rm⟩

/-- One line that a prefetch asks for: brought into the LLC, and into L1 but under .nl1; one that does not translate is dropped (R128). -/
def prefLine (rm : Nat) (g : Group) (lane : Nat) (s : State) (line : Nat) : State :=
  if line * 128 ≥ 2 ^ 57 || (rm != 2 && l1Holds s g (line * 128)) then s
  else
    match portXl s g (line * 128) .read 128 [] with
    | (s, .error _) => s
    | (s, .ok t) =>
      let s := serveBlock (if rm = 2 then s else countEvent s g.ctx 2 1) g.ctx g.bid (7310 + 2 * lane + line % 2) t 128 rm
      if rm = 2 then s else s.modCore g.core fun c => { c with l1 := l1Put s c (fillLine s g.core g.ctx line rm t) c.l1 }

/-- A prefetch of a lane: dropped, or the lines that cover its access are asked for; no address makes it trap (R128). -/
def prefLane (f : Fields) (g : Group) (s : State) (l va : Nat) : State :=
  if (s.freeVal (7300 + l)).getLsbD 0 then (lines va (sizeBytes f.ty.toNat)).foldl (prefLine f.rm.toNat g l) s else s

def prefBody (f : Fields) (s : State) (b : Batch) (g : Group) (present : Mask) : State × Option TrapInfo :=
  let c := srcCtx s b g
  let i := Instr.pref f
  ((lanesOf (partLanes g present i)).foldl (fun s l =>
    prefLane f g s l (eaM f (sizeBytes f.ty.toNat) (srcA s c g l i) (srcB s c g l i))) s, none)

def execPref (f : Fields) (s : State) : Outcome State Fault Refusal := .next (plainWord (.pref f) (prefBody f) s)

/-! ### IPREF and the instruction cache -/

def iprefSeg (f : Fields) : Nat := (imm27 f).toNat % 2 ^ 18

def iprefBar (f : Fields) : BarFn := fun s b g present =>
  let lanes := g.participants present f
  if lanes ≠ 0 ∧ iprefSeg f ≥ segCount s b g then some (.illegalOperand, lanes, 0, 0) else none

/-- The instruction-cache lines of a segment. -/
def segLines (o : CodeObj) (seg : Nat) : List Nat := lines (o.addr seg 0) (8 * (nth o.segs seg).len)

/-- IPREF asks for at most 64 lines that the core does not hold. -/
def iprefBody (f : Fields) (s : State) (b : Batch) (g : Group) (present : Mask) : State × Option TrapInfo :=
  match s.object? g.ctx b.obj with
  | none => (s, none)
  | some o =>
    if g.participants present f = 0 then (s, none) else
    let ls := ((segLines o (iprefSeg f)).take 64).map fun n => (g.ctx, n)
    (s.modCore g.core fun c => { c with iwant := c.iwant ++ ls.filter fun x => !c.icache.contains x && !c.iwant.contains x }, none)

def execIpref (f : Fields) (s : State) : Outcome State Fault Refusal :=
  .next (runWord (.ipref f) alwaysReady (iprefBar f) (iprefBody f) s)

/-- The instruction cache holds a line. -/
def inIcache (s : State) (core : Nat) (x : Nat × Nat) : Bool :=
  match s.core? core with
  | some c => c.icache.contains x
  | none => false

/-- The lines of a batch's next word and of the literal that follows it in the next line, which shows once the word is held (R51, R118);
none for the loader object, whose words the part holds itself. -/
def wantLines (s : State) (b : Batch) : List (Nat × Nat) :=
  match b.members with
  | [] => []
  | m :: _ =>
    match s.group? m.gid with
    | none => []
    | some g =>
      match s.object? g.ctx b.obj with
      | some o =>
        let va := o.addr b.seg b.woff
        if o.loader then []
        else if va % 128 = 120 ∧ inIcache s b.core (g.ctx, va / 128) = true then
          match (fetchVa s b.core g.ctx va).2 with
          | some w => if (decode false w 0).toOption.any hasLiteral then [(g.ctx, va / 128), (g.ctx, va / 128 + 1)] else [(g.ctx, va / 128)]
          | none => [(g.ctx, va / 128)]
        else [(g.ctx, va / 128)]
      | none => []

/-- A fetch from the line would perform (R118). -/
def lineMapped (s : State) (core : Nat) (x : Nat × Nat) : Bool :=
  match (fetchVa s core x.1 (x.2 * 128)).2 with
  | some _ => true
  | none => false

/-- The line that a batch's next fetch still lacks and can have (R118). -/
def wantLine (s : State) (b : Batch) : Option (Nat × Nat) :=
  (wantLines s b).find? fun x => !inIcache s b.core x && lineMapped s b.core x

/-- The batch's next word can be fetched now: its lines are held, or cannot be fetched at all, so that the fetch traps (R118). -/
def fetchable (s : State) (b : Batch) : Bool := (wantLine s b).isNone

/-- The matrix stream a running MSQ stands in, and the address of its next word (R269). -/
def streamSec (s : State) (blk : Block) (e : Engine) : Option (CodeObj × StreamSec) :=
  match s.launch? blk.lid with
  | none => none
  | some l =>
    match s.object? blk.ctx l.code with
    | none => none
    | some o => (o.streams[e.sidx]?).map fun x => (o, x)

def streamVa (o : CodeObj) (x : StreamSec) (woff : Nat) : Nat := o.exec + x.off + 8 * woff

/-- The line the MSQ of a block fetches from; none where it stands at its stream's end or in no stream. -/
def msqLine (s : State) (blk : Block) : Option (Nat × Nat) :=
  match blk.engine with
  | none => none
  | some e =>
    if e.state ≠ 1 then none
    else
      match streamSec s blk e with
      | some (o, x) => if e.woff < x.len then some (blk.ctx, streamVa o x e.woff / 128) else none
      | none => none

/-- A line that a core's MSQ or one of its batches is in need of and can fetch. -/
def lineAwaited (s : State) (core : Nat) (x : Nat × Nat) : Bool := !inIcache s core x && lineMapped s core x

/-- Demand lines of a core's batches and MSQ, then the lines IPREF asked for. A demand for one of those makes no request of its own (R490). -/
def wanted (s : State) (core : Nat) : List (Bool × Nat × Nat) :=
  let asked := ((s.core? core).getD default).iwant
  (((s.batches.filter fun b => b.core == core && !fetchable s b).filterMap (wantLine s)
    ++ ((s.blocks.filter fun b => b.core == core).filterMap (msqLine s)).filter (lineAwaited s core)).filter fun x => !asked.contains x).map (fun x => (true, x))
    ++ asked.map fun x => (false, x)

/-- A set holds four lines, the latest filled first; which of them a fill replaces the spec does not say, and the one filled longest ago
goes (R118; log entry 198). -/
def icachePut (ls : List (Nat × Nat)) (x : Nat × Nat) : List (Nat × Nat) :=
  let same := ls.filter fun y => y.2 % 64 == x.2 % 64 && y != x
  x :: ls.filter fun y => y.2 % 64 != x.2 % 64 || (same.take 3).contains y

/-- ICACHE_FILL: one wanted line is filled; a line in an unmapped or forbidden page is dropped. -/
def icacheFill (s : State) (core : Nat) : State :=
  match wanted s core with
  | [] => s
  | (demand, x) :: _ =>
    let ok := lineMapped s core x
    let s := match portParts s core x.1 (x.2 * 128) 128 .fetch [] with
      | (s, .ok parts) => chargeHome s x.1 7630 0 parts
      | (_, .error _) => s
    let s := s.modCore core fun c =>
      { c with iwant := c.iwant.filter fun y => y != x, icache := if ok then icachePut c.icache x else c.icache }
    if demand && ok then countEvent s x.1 4 1 else s

def execIcacheFill (core : Nat) (s : State) : Outcome State Fault Refusal := .next (icacheFill s core)

end Sys2Proof.Machine
end

