-- ==== Sys2Proof/Machine/Streams.lean ====
section
/-! DEFINITION. The stream words and the Grinder's settling of a stream register (R132 to R135). -/

namespace Sys2Proof.Machine

open Host (Outcome)

/-- The stream registers a word names. -/
def streamRegs (i : Instr) : List Nat :=
  let f := fieldsOfInstr i
  match i with
  | .sopen _ | .sadv _ | .sclose _ => [f.dst.toNat % 8]
  | .stest _ | .sget _ => [f.sa.toNat % 8]
  | .sisect _ => [f.dst.toNat % 8, f.sa.toNat % 8]
  | .smerge _ => [f.sa.toNat % 8, f.sb.toNat % 8]
  | _ => []

/-- A stream word waits while a register it names is busy in one of its lanes (R133). -/
def streamReady (i : Instr) : ReadyFn := fun s b g present =>
  memReady s b g present &&
    !((lanesOf (g.participants present (fieldsOfInstr i))).any fun l => (streamRegs i).any fun n => (nth (g.fibre l).q n).busy)

/-- The faults held in the registers a lane names, lowest register first as the word names them. -/
def laneStreamFault (i : Instr) (g : Group) (l : Nat) : Option (Cause × Nat) :=
  (streamRegs i).findSome? fun n => (nth (g.fibre l).q n).fault

/-- A held fault is raised first, precise; then a closed register is barred (R133, R135). Helpers never trap here. -/
def streamBar (i : Instr) : BarFn := fun s _ g present =>
  let lanes := g.participants present (fieldsOfInstr i)
  let faulty := (lanesOf lanes).filterMap fun l =>
    if (g.fibre l).helper then none else (laneStreamFault i g l).map fun e => (l, e)
  match faulty with
  | (l, e) :: rest => some (e.1, maskOf ((((l, e) :: rest).filter fun p => p.2.1 == e.1).map Prod.fst), if e.1 = .poison then poisonCodeAt s g true e.2 8 else 0, e.2)
  | [] =>
    let shut := lanesWith lanes fun l => (streamRegs i).any fun n => !(nth (g.fibre l).q n).opened
    if shut = 0 then none else some (.illegalOperand, shut, 0, 0)

/-- The faults that a word has just raised run again after the handler (R133). -/
def markRaised (i : Instr) (s : State) (gid : Nat) (lanes : Mask) : State :=
  s.modGroup gid fun g => (lanesOf lanes).foldl (fun g l => g.modFibre l fun x =>
    (streamRegs i).foldl (fun x n =>
      let q := nth x.q n
      if q.fault.isSome then putStream x n { q with raised := true } else x) x) g

/-- The lanes of each group whose registers hold faults that the word raises. -/
def raisedLanes (i : Instr) (s : State) : List (Nat × Mask) :=
  match issuerBatch s with
  | none => []
  | some b => b.members.filterMap fun m =>
    (s.group? m.gid).map fun g =>
      (m.gid, lanesWith (g.participants (m.present false) (fieldsOfInstr i)) fun l => (laneStreamFault i g l).isSome)

/-- A group has trapped since an earlier state. -/
def trappedSince (s t : State) (gid : Nat) : Bool :=
  match s.group? gid, t.group? gid with
  | some g, some h => (h.trap.isSome && g.trap.isNone) || (h.frame.isSome && g.frame.isNone)
  | _, _ => false

/-- A stream word: the faults that a group's trap has raised are marked. -/
def streamWord (i : Instr) (bar : BarFn) (body : BodyFn) (s : State) : State :=
  let t := runWord i (streamReady i) bar body s
  (raisedLanes i s).foldl (fun t p => if trappedSince s t p.1 then markRaised i t p.1 p.2 else t) t

/-- The watchpoints that the reads of a stream word meet, as they stand when it issues (R467; log entry 130). -/
def streamWatch (i : Instr) (s : State) (b : Batch) (g : Group) (present : Mask) : State × Option TrapInfo :=
  let n := (fieldsOfInstr i).dst.toNat % 8
  let x (l : Nat) : Fibre := ((s.group? g.gid).getD g).fibre l
  let a : WatchAcc := ⟨0, true, false, fun o base len => marked (streamRun (watchRd (streamRd g) base len) (x o.lane) n s).2⟩
  watchEnd s s b g false [a] ((lanesOf (g.participants present (fieldsOfInstr i))).map fun l => ⟨l, 0, 0, [], 0, 0⟩)

/-- Change the named register of every participating lane. -/
def streamBody (i : Instr) (fn : State → SrcCtx → Group → Nat → Stream → Stream) (s : State) (b : Batch) (g : Group) (present : Mask) :
    State × Option TrapInfo :=
  let c := srcCtx s b g
  let n := (fieldsOfInstr i).dst.toNat % 8
  let (seq, t) := s.fresh
  streamWatch i (t.modGroup g.gid fun g1 =>
    (lanesOf (g.participants present (fieldsOfInstr i))).foldl (fun g1 l =>
      g1.modFibre l fun x => putStream x n { fn s c g l (nth x.q n) with since := seq, seg := b.seg, woff := b.woff }) g1) b g present

/-! ### SOPEN, SADV, SCLOSE, SISECT -/

/-- SOPEN's descriptor must be a multiple of 32 (R134). -/
def sopenBar (i : Instr) : BarFn := fun s b g present =>
  let c := srcCtx s b g
  let bad := lanesWith (g.participants present (fieldsOfInstr i)) fun l =>
    !(g.fibre l).helper && readable s c g present i [0] l && (srcA s c g l i).toNat % 32 != 0
  match lowestLane bad with
  | some l => some (.align, bad, 0, (srcA s c g l i).toNat)
  | none => none

/-- SOPEN: the register is busy with the descriptor; a helper's misaligned one ends at once (R79). It keeps its state until
the new one is settled (R133). -/
def sopenNew (i : Instr) (s : State) (c : SrcCtx) (g : Group) (l : Nat) (q : Stream) : Stream :=
  let a := (srcA s c g l i).toNat
  if (g.fibre l).helper && a % 32 != 0 then { Stream.closed with opened := true, ended := true }
  else { q with op := some (.sopen a), fault := none, raised := false }

def execSopen (f : Fields) (s : State) : Outcome State Fault Refusal :=
  .next (runWord (.sopen f) (streamReady (.sopen f)) (sopenBar (.sopen f)) (streamBody (.sopen f) (sopenNew (.sopen f))) s)

/-- SADV: the next element, or a gallop. -/
def sadvNew (f : Fields) (s : State) (c : SrcCtx) (g : Group) (l : Nat) (q : Stream) : Stream :=
  { q with op := some (if f.sa = 0x0CA then .next else .gallop (field (srcA s c g l (.sadv f)) 0 32)) }

def execSadv (f : Fields) (s : State) : Outcome State Fault Refusal :=
  .next (streamWord (.sadv f) (streamBar (.sadv f)) (streamBody (.sadv f) (sadvNew f)) s)

def execSclose (f : Fields) (s : State) : Outcome State Fault Refusal :=
  .next (runWord (.sclose f) (streamReady (.sclose f)) noBar (streamBody (.sclose f) fun _ _ _ _ _ => Stream.closed) s)

/-- SISECT: both registers are busy with one operation; naming one register twice stops at once. -/
def sisectBody (f : Fields) (s : State) (b : Batch) (g : Group) (present : Mask) : State × Option TrapInfo :=
  let m := f.dst.toNat % 8
  let n := f.sa.toNat % 8
  if m = n then (s, none)
  else
    let (seq, s) := s.fresh
    let put (x : Fibre) (m n : Nat) : Fibre := putStream x m { nth x.q m with op := some (.isect n), since := seq, seg := b.seg, woff := b.woff }
    streamWatch (.sisect f) (s.modGroup g.gid fun g1 =>
      (lanesOf (g.participants present f)).foldl (fun g1 l => g1.modFibre l fun x => put (put x m n) n m) g1) b g present

def execSisect (f : Fields) (s : State) : Outcome State Fault Refusal :=
  .next (streamWord (.sisect f) (streamBar (.sisect f)) (sisectBody f) s)

/-! ### STEST, SMERGE, SGET -/

def stestBody (f : Fields) : BodyFn := fun s b g p =>
  fixedBody (.stest f) (fun x => outP (nth (g.fibre x.lane).q (f.sa.toNat % 8)).ended) s b g p

def execStest (f : Fields) (s : State) : Outcome State Fault Refusal :=
  .next (streamWord (.stest f) (streamBar (.stest f)) (stestBody f) s)

/-- SMERGE's word (R134). -/
def mergeWord (a b : Stream) : Word :=
  let m := min a.coordNow b.coordNow
  w64 (m * 2 ^ 32 + (if a.coordNow = m ∧ a.ended = false then 1 else 0) + (if b.coordNow = m ∧ b.ended = false then 2 else 0))

def smergeBody (f : Fields) : BodyFn := fun s b g p =>
  fixedBody (.smerge f) (fun x =>
    outW (mergeWord (nth (g.fibre x.lane).q (f.sa.toNat % 8)) (nth (g.fibre x.lane).q (f.sb.toNat % 8)))) s b g p

def execSmerge (f : Fields) (s : State) : Outcome State Fault Refusal :=
  .next (streamWord (.smerge f) (streamBar (.smerge f)) (smergeBody f) s)

/-- SGET's two registers: the coordinate and the value, 0 when ended. -/
def sgetWords (q : Stream) : List Word := [w64 q.coordNow, w64 (if q.ended then 0 else q.curVal)]

def sgetBody (f : Fields) : BodyFn := fun s b g p =>
  lateBody (.sget f) (fun x => ⟨sgetWords (nth (g.fibre x.lane).q (f.sa.toNat % 8)), none, 0⟩) s b g p

def execSget (f : Fields) (s : State) : Outcome State Fault Refusal :=
  .next (streamWord (.sget f) (streamBar (.sget f)) (sgetBody f) s)

/-! ### STREAM_SETTLE -/

def execStreamSettle (gid lane q : Nat) (s : State) : Outcome State Fault Refusal :=
  .next (if flightMay s gid (2 ^ 256) then drainStores (settleStream s gid lane q) gid else s)

end Sys2Proof.Machine
end

