-- ==== Sys2Proof/Machine/Complete.lean ====
section
/-! DEFINITION. Variable-latency results arriving, writes reaching their homes, private lines written back (R27, R112, R137 to R144). -/

namespace Sys2Proof.Machine

open Host (Outcome)

/-- Lanes whose page-fault record has closed walk again; a lane still parked stays (R398). The lanes of a VARIABLE_LATENCY_RESULT then
complete, and what they find wrong traps at the group's boundary (R426). -/
def lateResult (s : State) (gid seq : Nat) (lanes : Mask) : State :=
  let r := completeLanes s gid seq lanes
  let lanes := ((s.group? gid).bind fun g => (g.flights.find? fun fl => fl.seq == seq).map Flight.lanes).getD 0
  let s := match r.2 with
    | some t => if ((s.group? gid).getD default).trap.isSome then holdTrap r.1 gid ⟨seq, t, lanes⟩ else raiseTrap r.1 gid t lanes
    | none => r.1
  reapGroup (raiseHeld s gid) gid

/-- The memory of a group's context may change through what its fibres have begun: its job is not frozen (R475). -/
def memoryMay (s : State) (ctx : Nat) : Bool :=
  match s.context? ctx with
  | some c => s.jobState c.jobKey == .running || s.jobState c.jobKey == .freezing
  | none => true

/-- WRITE_PERFORMED_AT_SCOPE: a waiting write of a core, with the older ones that overlap it, performs at its home (R137, R139). While its job
is frozen it waits (R475). -/
def execWritePerformedAtScope (core id : Nat) (s : State) : Outcome State Fault Refusal :=
  .next (performSome s core fun w => w.id == id && memoryMay s w.ctx)

/-! ### Private lines (R111, R112) -/

/-- Every private line of a group leaves L1 (R447). -/
def writebackAll (s : State) (gid : Nat) : State :=
  match s.group? gid with
  | none => s
  | some g => (((g.privDirty ++ g.privHome).map (· / 4)).eraseDups).foldl (fun s n => writebackLine s gid n) s

/-- PRIVATE_LINE_WRITEBACK (R112); none while the group's job is frozen (R475). -/
def execPrivateLineWriteback (gid line : Nat) (s : State) : Outcome State Fault Refusal :=
  .next (match s.group? gid with
    | some g => if memoryMay s g.ctx then writebackLine s gid line else s
    | none => s)

end Sys2Proof.Machine
end

