-- ==== Sys2Proof/Machine/Records.lean ====
section
/-! DEFINITION. Events (R368, R369), records of asynchronous errors (R451), and the agents that stand for the engines outside the
cores. -/

namespace Sys2Proof.Machine

/-- The agent numbers under which the copy engine of a cluster, the task scheduler and the PCL translate: no core bears them. -/
def cpeAgent (clu : Nat) : Nat := 512 + clu
def tscAgent : Nat := 576
def pclAgent : Nat := 577
/-- The number under which the task scheduler's writes to pipeline tables park. -/
def tableAgent : Nat := 580

/-- An engine of a context may begin a unit: the context runs, or has not yet taken that engine's stop, and its job runs (R446, R471). -/
def engineRuns (s : State) (ctx : Nat) (e : EngineId) : Bool :=
  match s.context? ctx with
  | none => false
  | some c => (c.run == .running || (c.run == .stopping && !c.acks.contains e)) && jobRuns s ctx

/-- An engine may begin a unit: its context and job run, or the unit belongs to a DBG_STEP in progress (R477). -/
def engineMay (s : State) (ctx : Nat) (e : EngineId) (mine : StepSt → Bool) : Bool :=
  engineRuns s ctx e || match s.stepping with
    | some st => st.ctx == ctx && mine st
    | none => false

/-- The context's job freezes: what has begun completes, nothing further begins (R470, R472). -/
def freezes (s : State) (ctx : Nat) : Bool :=
  match s.context? ctx with
  | none => false
  | some c => (c.run == .running || c.run == .stopping) && s.jobState c.jobKey == .freezing

/-! ### Events -/

/-- The count of an event of a context. -/
def eventCount (s : State) (ctx name : Nat) : Nat :=
  match s.context? ctx with
  | none => 0
  | some c => (match c.events.find? fun e => e.1 == name with | some e => e.2 | none => 0)

/-- Add to an event's count, modulo 2^32 (R368). -/
def signalEvent (s : State) (ctx name n : Nat) : State :=
  let v := (eventCount s ctx name + n) % 2 ^ 32
  s.modContext ctx fun c => { c with events := (name, v) :: c.events.filter fun e => e.1 != name }

/-- A wait for a target is met (R368). -/
def eventMet (s : State) (ctx name target : Nat) : Bool :=
  decide ((eventCount s ctx name + 2 ^ 32 - target % 2 ^ 32) % 2 ^ 32 < 2 ^ 31)

/-! ### Error records -/

/-- A record's 32 bytes (R451). -/
def errorBytes (s : State) (kind code agent unit addr detail : Nat) : List Byte :=
  toBytes kind 1 ++ toBytes code 1 ++ toBytes agent 1 ++ toBytes 0 1 ++ toBytes unit 4 ++ toBytes addr 8 ++ toBytes s.gts 8
    ++ toBytes detail 8

/-- A record that found no place is counted and told to the host (R451). -/
def dropRecord (s : State) (ctx kind code addr : Nat) : State := { s with errlog := s.errlog ++ [⟨2, ctx, code, kind, addr⟩] }

/-- The record page takes no access: its translation fault is filed under the record's agent, and the record is lost as one that finds no
room is (R396, R451; log entry 223). -/
def recordFault (s : State) (ctx agent : Nat) (acc : Access) : PortErr → State
  | .page va np => fileFault s ctx va agent acc np
  | _ => s

/-- Write an error record into the context's record page and signal event 0xFFFE, or count it as lost (R451). -/
def errorRecord (s : State) (ctx kind code agent unit addr detail : Nat) : State :=
  match s.context? ctx with
  | none => s
  | some c =>
    if c.tfBASE = 0 then dropRecord s ctx kind code addr
    else
      match engineRead s pclAgent ctx c.tfBASE 12 with
      | (s, .error e) => dropRecord (recordFault s ctx agent .read e) ctx kind code addr
      | (s, .ok hd) =>
        let head := byteField hd 0 4 % 2046
        let tail := byteField hd 4 4 % 2046
        if (tail + 1) % 2046 = head then
          let s := (engineWrite s pclAgent ctx (c.tfBASE + 8) (toBytes (byteField hd 8 4 + 1) 4)).1
          dropRecord s ctx kind code addr
        else
          match engineWrite s pclAgent ctx (c.tfBASE + 64 + 32 * tail) (errorBytes s kind code agent unit addr detail) with
          | (s, .error e) => dropRecord (recordFault s ctx agent .write e) ctx kind code addr
          | (s, .ok ()) => signalEvent (engineWrite s pclAgent ctx (c.tfBASE + 4) (toBytes ((tail + 1) % 2046) 4)).1 ctx 0xFFFE 1

end Sys2Proof.Machine
end

