-- ==== Sys2Proof/Machine/Queue.lean ====
section
/-! DEFINITION. User-mode queues and packet status (R164 to R168, R176). -/

namespace Sys2Proof.Machine

/-- The agent's access of a context to a range that is parked. -/
def parkOf (s : State) (agent ctx va n : Nat) : Option Park :=
  s.parks.find? fun p => p.agent == agent && p.ctx == ctx && (pageParts va n).any fun r => r.1 / 65536 == p.page

/-- The access's fault is filed and it parks (R396, R397). -/
def parkAt (s : State) (agent code ctx va : Nat) (acc : Access) (np : Bool) : State :=
  fileFault { s with parks := ⟨agent, ctx, va / 65536, false⟩ :: s.parks } ctx va code acc np

/-- A read of an engine that parks on a page fault: filed once, and nothing more happens until the page's record is resumed; where it
was failed the read ends as an access fault (R396 to R398). -/
def parkRead (s : State) (agent code ctx va n : Nat) : State × Except PortErr (List Byte) :=
  match parkOf s agent ctx va n with
  | some p => if p.failed then ({ s with parks := s.parks.erase p }, .error (.access va)) else (s, .error (.page va true))
  | none =>
    match engineRead s agent ctx va n with
    | (s, .error (.page a np)) => (parkAt s agent code ctx a .read np, .error (.page a np))
    | r => r

/-- A write likewise. -/
def parkWrite (s : State) (agent code ctx va : Nat) (bs : List Byte) : State × Except PortErr Unit :=
  match parkOf s agent ctx va bs.length with
  | some p => if p.failed then ({ s with parks := s.parks.erase p }, .error (.access va)) else (s, .error (.page va true))
  | none =>
    match engineWrite s agent ctx va bs with
    | (s, .error (.page a np)) => (parkAt s agent code ctx a .write np, .error (.page a np))
    | r => r

/-- The agent that consumes a queue (R164). -/
def QueueReg.agent (q : QueueReg) : Nat := if q.cls = 0 then cpeAgent q.clu else tscAgent

def QueueReg.slot (q : QueueReg) (i : Nat) : Nat := q.base + 64 * (i % 2 ^ q.log2c)

/-- PH of an index (R165). -/
def QueueReg.phase (q : QueueReg) (i : Nat) : Nat := (i / 2 ^ q.log2c + 1) % 2

def State.queue? (s : State) (ctx header : Nat) : Option QueueReg := s.queues.find? fun q => q.ctx == ctx && q.header == header

def State.modQueue (s : State) (ctx header : Nat) (f : QueueReg → QueueReg) : State :=
  { s with queues := s.queues.map fun q => if q.ctx == ctx && q.header == header then f q else q }

/-- The status word (R168). -/
def statusWord (ph state err rsec : Nat) : Nat := ph + state * 2 + err * 16 + rsec % 2 ^ 24 * 2 ^ 8

/-- The lowest index whose packet has not ended (R164). -/
def QueueReg.ridx (q : QueueReg) : Nat := (minBy id q.openIdx).getD q.next

/-- A page that an engine must write can be written, or the engine parks there (R397). Nothing is asked of a peer yet. -/
def canWrite (s : State) (agent code ctx va n : Nat) : State × Bool :=
  match parkOf s agent ctx va n with
  | some p => (s, p.failed)
  | none =>
    match (portParts s agent ctx va n .write []).2 with
    | .error (.page a np) => (parkAt s agent code ctx a .write np, false)
    | .error (.held _) => (s, false)
    | _ => (s, true)

/-- The consumer can write an index's status and RIDX. -/
def canEnd (s : State) (q : QueueReg) (i : Nat) : State × Bool :=
  match canWrite s q.agent 1 q.ctx (q.slot i + 60) 4 with
  | (s, false) => (s, false)
  | (s, true) => canWrite s q.agent 1 q.ctx (q.header + 128) 8

/-- Write a packet's status (R168). -/
def setStatus (s : State) (q : QueueReg) (i state err rsec : Nat) : State :=
  (parkWrite s q.agent 1 q.ctx (q.slot i + 60) (toBytes (statusWord (q.phase i) state err rsec) 4)).1

/-- End a packet: its status, then RIDX (R168, R176). -/
def endPacket (s : State) (ctx header i state err rsec : Nat) : State :=
  match s.queue? ctx header with
  | none => s
  | some q =>
    let s := setStatus s q i state err rsec
    let q' := { q with openIdx := q.openIdx.filter fun x => x != i, puts := q.puts.filter fun p => p.1 != i }
    let s := s.modQueue ctx header fun _ => q'
    (parkWrite s q.agent 1 ctx (header + 128) (toBytes q'.ridx 8)).1

/-- The packet at a queue's next index, once it is published (R166); none before that. The read of PH is an acquire. -/
def nextPacket (s : State) (q : QueueReg) : State × Option (List Byte) :=
  match parkRead s q.agent 1 q.ctx (q.slot q.next) 64 with
  | (s, .error _) => (s, none)
  | (s1, .ok bs) => if byteField bs 60 1 % 2 = q.phase q.next then (s1, some bs) else (s, none)

/-- The consumer takes an index. -/
def takeIndex (s : State) (q : QueueReg) : State :=
  s.modQueue q.ctx q.header fun q => { q with next := q.next + 1, openIdx := q.next :: q.openIdx }

end Sys2Proof.Machine
end

