-- ==== Sys2Proof/Machine/Accept.lean ====
section
/-! DEFINITION. Launch packets and their acceptance (R180, R332 to R335), with the pipeline table that a stage launch names (R354 to
R358). -/

namespace Sys2Proof.Machine

open Host (Outcome)

/-! ### The launch packet (R180) -/


/-- A launch from its packet. -/
def launchOf (bs : List Byte) : Launch :=
  let f := byteField bs
  { lid := 0, ctx := 0, queue := none, flags := f 1 1, wg := 8 * 2 ^ (f 2 1 % 4), carve := f 2 1 / 4 % 8, prio := f 3 1 % 128,
    code := f 4 8, entry := f 12 4 % 2 ^ 18, gx := f 16 4, gy := f 20 4, gz := f 24 4, gpb := f 28 1 % 32 + 1,
    win := 8 * (f 29 1 % 16 + 1), stage := f 30 2, priv := f 32 4, scr := f 36 4, accn := f 40 4, mstr := f 44 4, args := f 48 8,
    evt := f 56 2, accepted := 0, next := 0, cores := [], rho := 64, again := [], pipe := none, task := false, index := 0 }

/-- A block of G groups of this width and window fits an empty core (R334). -/
def fitsEmpty (l : Launch) : Bool := decide (l.gpb ≤ 4 * (32 / l.wg) * (512 / l.win))

/-- Zero and reserved fields, the shape and the grid (R333, second row). -/
def packetFieldsBad (bs : List Byte) : Bool :=
  let f := byteField bs
  let l := launchOf bs
  decide (f 1 1 ≥ 8) || decide (f 2 1 ≥ 32) || f 2 1 % 4 == 3 || decide (f 2 1 / 4 > 4) || decide (f 3 1 ≥ 128)
    || decide (f 12 4 ≥ 2 ^ 18) || decide (f 28 1 ≥ 32) || decide (f 29 1 ≥ 16) || f 58 2 != 0
    || l.gx == 0 || l.gy == 0 || l.gz == 0 || decide (l.gx * l.gy * l.gz > 2 ^ 32) || l.priv % 8 != 0

/-- The matrix-stream fields (R333, fifth row). -/
def packetMatrixBad (l : Launch) (o : CodeObj) : Bool :=
  if bitN l.flags 1 then
    !(decide (l.mstr < o.streams.length) || l.mstr == 0xFFFFFFFF) || l.accn % 1024 != 0 || decide (l.accn < 1024) || decide (l.accn > 65536)
  else l.accn != 0 || l.mstr != 0

/-- The shape a launch of the loader must have; its ARGS can be the address of a publish request (R412, R413). -/
def loaderShape (l : Launch) : Bool :=
  l.args != 0 && l.args % 64 == 0 && decide (l.args < 2 ^ 57) &&
  l.wg == 8 && l.gpb == 1 && l.win == 8 && l.gx == 1 && l.gy == 1 && l.gz == 1 && l.entry == 0 && l.priv == 0 && l.scr == 0 && l.accn == 0

/-- The first row of R333 that a packet fails, as its ERR, given the objects it may name; 0 when it passes. -/
def packetErrFor (named : Nat → Option CodeObj) (clsOk : Bool) (bs : List Byte) : Nat :=
  let l := launchOf bs
  if byteField bs 0 1 ≠ 0x10 ∨ clsOk = false then 1
  else if packetFieldsBad bs then 2
  else
    match named l.code with
    | none => 2
    | some o =>
      if l.entry ≥ o.segs.length ∨ l.scr % 16 ≠ 0 ∨ l.scr > carveScratch l.carve ∨ packetMatrixBad l o ∨ fitsEmpty l = false
          ∨ (o.loader ∧ loaderShape l = false) ∨ (l.args ≠ 0 ∧ (o.preload.any fun p => p.1 == 63) = true) then 2
      else if bitN l.flags 2 ∧ l.evt = 0xFFFF then 8
      else 0

/-- A new packet of a context names a loaded object (R333). -/
def packetErr (s : State) (ctx : Nat) (clsOk : Bool) (bs : List Byte) : Nat := packetErrFor (s.loaded? ctx) clsOk bs

/-! ### The pipeline table (R354 to R358) -/

/-- A queue entry's own fields obey R356. -/
def queueEntryOk (nst : Nat) (e : List Byte) : Bool :=
  let f := byteField e
  let hwm := if f 16 1 = 0 then 75 else f 16 1
  let lwm := if f 17 1 = 0 then 25 else f 17 1
  f 0 8 % 128 == 0 && decide (16 ≤ f 8 2) && decide (f 8 2 ≤ 256) && f 8 2 % 16 == 0 && decide (f 10 1 < nst) && decide (f 11 1 < nst)
    && decide (32 ≤ f 12 4) && decide (f 8 2 * f 12 4 ≤ 2 ^ 20) && decide (hwm ≤ 100) && decide (lwm < hwm) && f 18 2 == 0 && f 28 4 == 0

def queueOfEntry (n : Nat) (e : List Byte) : StageQueue :=
  let f := byteField e
  { index := n, src := f 10 1, dst := f 11 1, nrec := f 12 4, rsz := f 8 2, base := f 0 8,
    hwm := if f 16 1 = 0 then 75 else f 16 1, lwm := if f 17 1 = 0 then 25 else f 17 1,
    head := 0, tail := 0, unpublished := [], copying := [], high := false }

/-- A stage entry's own fields obey R355. -/
def stageEntryOk (e : List Byte) : Bool :=
  let f := byteField e
  decide (f 0 1 ≤ 127) && decide (1 ≤ f 2 2) && f 7 8 == 0 && f 15 1 == 0

/-- One round of longest paths over the queues that are no self-loops. -/
def deepen (qs : List StageQueue) (ds : List Nat) : List Nat :=
  (List.range ds.length).map fun t =>
    ((qs.filter fun q => q.dst == t && q.src != t).map fun q => nth ds q.src + 1).foldl Nat.max 0

/-- The longest path from a root stage to each stage; none where there is a cycle (R355, R357). -/
def depths (nst : Nat) (qs : List StageQueue) : Option (List Nat) :=
  let ds := (List.range nst).foldl (fun ds _ => deepen qs ds) (List.replicate nst 0)
  if deepen qs ds = ds then some ds else none

/-- A pipeline from its table, if the table passes R357. Its cores are still to be claimed. -/
def pipeOf (ctx addr code : Nat) (bs : List Byte) : Option Pipe :=
  let f := byteField bs
  let nst := f 0 1
  let nq := f 1 1
  let pool := f 2 2
  let se (i : Nat) : List Byte := (bs.drop (64 + 16 * i)).take 16
  let qe (i : Nat) : List Byte := (bs.drop (1088 + 32 * i)).take 32
  if nst < 1 ∨ nst > 64 ∨ nq > 64 ∨ pool < 1 ∨ pool > 512 ∨ f 4 4 ≠ 0 ∨ f 8 8 ≠ code ∨ f 16 48 ≠ 0 then none
  else if !((List.range nst).all fun i => stageEntryOk (se i)) || !((List.range nq).all fun i => queueEntryOk nst (qe i)) then none
  else
    let qs := (List.range nq).map fun i => queueOfEntry i (qe i)
    match depths nst qs with
    | none => none
    | some ds =>
      let minc (i : Nat) : Nat := byteField (se i) 2 2
      if !((List.range nst).all fun i => decide ((qs.filter fun q => q.dst == i).length ≤ 4))
          || decide (sumBy minc (List.range nst) > pool) then none
      else
        some ⟨0, ctx, addr, code, [],
          (List.range nst).map fun i =>
            ⟨i, byteField (se i) 0 1, minc i, minc i, nth ds i, [], none, (qs.all fun q => q.dst != i), false⟩, qs, pool⟩

/-- Live fibres on a core. -/
def coreFibres (s : State) (core : Nat) : Nat :=
  sumBy (fun g : Group => (lanesOf g.liveMask).length) (s.groups.filter fun g => g.core == core)

/-- Take the `n` elements with the smallest measures, in order. -/
def takeMin (f : Nat → Nat) : Nat → List Nat → List Nat
  | 0, _ => []
  | n + 1, xs =>
    match minBy f xs with
    | none => []
    | some x => x :: takeMin f n (xs.filter fun y => y != x)

/-- The cores a new pipeline claims: the fewest resident fibres first, then the lowest number (R358). -/
def claimPool (s : State) (n : Nat) : List Nat :=
  takeMin (fun c => coreFibres s c * coreCount + c) n
    ((List.range coreCount).filter fun c => !(s.pipes.any fun p => p.pool.contains c))

/-- Hand out a list of cores: each stage its minimum, the rest one at a time to the stages of depth 0 (R358). -/
def firstAllot (cores : List Nat) (stages : List Stage) : List Stage :=
  let base := stages.foldl (fun (r : List Stage × List Nat) st =>
    (r.1 ++ [{ st with cores := r.2.take st.minc }], r.2.drop st.minc)) ([], cores)
  let roots := (base.1.filter fun st => st.depth == 0).map Stage.index
  let extra := (List.range base.2.length).map fun j => (nth roots (j % roots.length), nth base.2 j)
  base.1.map fun st =>
    let cs := st.cores ++ (extra.filter fun p => p.1 == st.index).map Prod.snd
    { st with cores := cs, allot := cs.length }

/-- STATE of a stage entry (R355). -/
def Stage.code (st : Stage) : Nat := if st.ended then 2 else if st.lid.isSome then 1 else 0

/-- A write of the TSC to a table. A translation fault is filed and parks it: once the page's record is resumed the table is written again,
and where it is failed the write is lost (R396 to R398). -/
def tableWrite (s : State) (ctx va : Nat) (bs : List Byte) : State :=
  match parkOf s tableAgent ctx va bs.length with
  | some p => if p.failed then { s with parks := s.parks.erase p } else s
  | none =>
    match engineWrite s tscAgent ctx va bs with
    | (s, .error (.page a np)) => parkAt s tableAgent 1 ctx a .write np
    | (s, _) => s

/-- Write what the TSC keeps in a table: each stage's STATE, ALLOT and DEPTH, each queue's HEAD and TAIL (R355, R356). -/
def writeTable (s : State) (p : Pipe) : State :=
  let s := p.stages.foldl (fun s st =>
    let a := p.addr + 64 + 16 * st.index
    tableWrite (tableWrite s p.ctx (a + 1) (toBytes st.code 1)) p.ctx (a + 4) (toBytes st.allot 2 ++ toBytes st.depth 1)) s
  p.queues.foldl (fun s q =>
    tableWrite s p.ctx (p.addr + 1088 + 32 * q.index + 20) (toBytes (q.head % 2 ^ 32) 4 ++ toBytes (q.tail % 2 ^ 32) 4)) s

def State.pipe? (s : State) (pid : Nat) : Option Pipe := lookupBy Pipe.pid pid s.pipes
def State.modPipe (s : State) (pid : Nat) (f : Pipe → Pipe) : State := { s with pipes := updateBy Pipe.pid pid f s.pipes }
def Pipe.modStage (p : Pipe) (n : Nat) (f : Stage → Stage) : Pipe := { p with stages := updateBy Stage.index n f p.stages }
def Pipe.modQueue (p : Pipe) (n : Nat) (f : StageQueue → StageQueue) : Pipe := { p with queues := updateBy StageQueue.index n f p.queues }

/-- Pipelines that have not claimed their cores do, the one accepted first before the others, once POOL cores that no pipeline has claimed are
there (R358; log entry 150). -/
def claimPools (s : State) : State :=
  (s.pipes.map Pipe.pid).foldl (fun s pid =>
    match s.pipe? pid with
    | none => s
    | some p =>
      let cores := claimPool s p.want
      if !p.pool.isEmpty || decide (cores.length < p.want) || s.pipes.any (fun x => x.pool.isEmpty && decide (x.pid < pid)) then s
      else
        let p : Pipe := { p with pool := cores, stages := firstAllot cores p.stages }
        writeTable (s.modPipe pid fun _ => p) p) s

/-- The stage of a launch takes it (R357): the pipeline of its table starts with its first launch. The answer is the pipeline, or ERR 2;
none while the table cannot be read. -/
def stageAccept (s : State) (l : Launch) : State × Option (Except Nat Nat) :=
  match s.pipes.find? fun p => p.ctx == l.ctx && p.addr == l.args with
  | some p =>
    match p.stages[l.stage]? with
    | some st =>
      if st.lid.isSome || st.ended || p.code != l.code then (s, some (.error 2))
      else
        let p := p.modStage l.stage fun st => { st with lid := some l.lid }
        (writeTable (s.modPipe p.pid fun _ => p) p, some (.ok p.pid))
    | none => (s, some (.error 2))
  | none =>
    if l.args % 4096 ≠ 0 then (s, some (.error 2))
    else
      match parkRead s tscAgent 1 l.ctx l.args 4096 with
      | (s, .error (.page _ _)) | (s, .error (.held _)) => (s, none)
      | (s, .error _) => (s, some (.error 2))
      | (s, .ok bs) =>
        match pipeOf l.ctx l.args l.code bs with
        | none => (s, some (.error 2))
        | some p =>
          if l.stage ≥ p.stages.length then (s, some (.error 2))
          else
            let (pid, s) := s.fresh
            let p := { p with pid := pid }.modStage l.stage fun st => { st with lid := some l.lid }
            (claimPools (writeTable { s with pipes := s.pipes ++ [p] } p), some (.ok pid))

/-! ### Acceptance -/

/-- Entries of the launch table (R332). -/
def launchTable : Nat := 1024

/-- The lowest entry that no accepted launch holds; which one a launch takes is not stated (log entry 197). -/
def freeLaunch (s : State) : Nat := ((List.range launchTable).find? fun n => s.launches.all fun l => l.index != n).getD 0

/-- Take a launch packet in: its launch with an acceptance time, or its ERR; none while its pipeline table cannot be read. `task` marks a
gated one and says whether its handle was valid at its SPAWN: such a task may name an object retired since (R419). -/
def acceptPacket (s : State) (ctx : Nat) (queue : Option (Nat × Nat)) (clsOk : Bool) (bs : List Byte) (time : Nat) (task : Option Bool) :
    State × Option (Except Nat Nat) :=
  let err := if task = some true then packetErrFor (s.object? ctx) clsOk bs else packetErr s ctx clsOk bs
  if err ≠ 0 then (s, some (.error err))
  else
    let (lid, s1) := s.fresh
    let l : Launch := { launchOf bs with lid := lid, ctx := ctx, queue := queue, accepted := time, task := task.isSome, index := freeLaunch s }
    if l.stage = 0xFFFF then ({ s1 with launches := s1.launches ++ [l] }, some (.ok lid))
    else
      match stageAccept s1 l with
      | (s2, some (.ok pid)) => ({ s2 with launches := s2.launches ++ [{ l with pipe := some pid }] }, some (.ok lid))
      | (s2, some (.error e)) => ({ s2 with nextId := s.nextId }, some (.error e))
      | (s2, none) => ({ s2 with nextId := s.nextId }, none)

/-- A launch queue's packet in hand is refused or accepted (R332, R333, R335). -/
def launchAccept (s : State) (ctx header : Nat) : State :=
  match s.queue? ctx header with
  | none => s
  | some q =>
    if q.cls ≠ 1 ∨ q.closing ∨ s.launches.length ≥ launchTable ∨ (s.context? ctx).any (fun c => c.run != .running) ∨ !jobRuns s ctx then s
    else
      match nextPacket s q with
      | (s, none) => s
      | (s, some bs) =>
        match canEnd s q q.next with
        | (s, false) => s
        | (s, true) =>
          match acceptPacket s ctx (some (header, q.next)) true bs s.clock none with
          | (s, none) => s
          | (s, some (.error e)) => endPacket (takeIndex s q) ctx header q.next 4 e 0
          | (s, some (.ok _)) => setStatus (takeIndex s q) q q.next 1 0 0

def execLaunchAccept (ctx header : Nat) (s : State) : Outcome State Fault Refusal := .next (launchAccept s ctx header)

/-! ### Dependence counters (R370) -/

def State.counter? (s : State) (ctx name : Nat) : Option Counter :=
  s.counters.find? fun c => c.ctx == ctx && c.name == name && c.fired.isNone

/-- The gated task enters: accepted, or its error told to the handler. It waits where the launch table is full. -/
def enterTask (s : State) (c : Counter) (time : Nat) : State :=
  if s.launches.length ≥ launchTable then s
  else
    match acceptPacket s c.ctx none true c.packet time (some c.named) with
    | (s, none) => s
    | (s, some r) =>
      let s := { s with counters := s.counters.erase c }
      match r with
      | .ok _ => s
      | .error e => errorRecord s c.ctx 3 e 0 0 0 c.name

/-- Tasks whose counters have fired and that still wait for a launch-table entry. -/
def enterFired (s : State) : State :=
  (s.counters.filter fun c => c.fired.isSome).foldl (fun s c => enterTask s c (c.fired.getD 0)) s

/-- A counter fires: its task is treated as published at this clock. -/
def fireCounter (s : State) (ctx name : Nat) : State :=
  let s := { s with counters := s.counters.map fun c =>
    if c.ctx == ctx && c.name == name && c.fired.isNone then { c with count := 0, fired := some s.clock } else c }
  match s.counters.find? fun c => c.ctx == ctx && c.name == name && c.fired == some s.clock with
  | some c => enterTask s c s.clock
  | none => s

/-- A decrement: of a name that is not live it is discarded. -/
def decCounter (s : State) (ctx name n : Nat) : State :=
  match s.counter? ctx name with
  | none => s
  | some c =>
    if c.count ≤ n then fireCounter s ctx name
    else { s with counters := s.counters.map fun x =>
        if x.ctx == ctx && x.name == name && x.fired.isNone then { x with count := x.count - n } else x }

end Sys2Proof.Machine
end

