-- ==== Sys2Proof/Machine/Locks.lean ====
section
/-! DEFINITION. Range locks of the engines (R153 to R158) and the storage of a matrix engine that copies write (R263 to R267). -/

namespace Sys2Proof.Machine

/-- What an engine operation registers in one table: destination or source, engine, space, base and length in bytes. A buffer or slot
(space 2) stands at its code × 2^20, buffers under codes 0 to 3 and slots under 4 to 7. -/
structure LockReq where
  dest : Bool
  engine : Nat
  space : Nat
  base : Nat
  len : Nat
deriving DecidableEq, Repr, Inhabited

def bufCode (n : Nat) : Nat := n * 2 ^ 20
def slotCode (n : Nat) : Nat := (4 + n) * 2 ^ 20
def bufBytes : Nat := 65536
def slotBytes : Nat := 196608

/-- Free entries of a core's table (R154). -/
def freeLocks (s : State) (core : Nat) : Nat :=
  (((s.core? core).getD default).rlt.filter Option.isNone).length

/-- Put an entry into the first free place: which index an entry takes the spec does not say (DESIGN CHOICE, log entry 211). -/
def putLock (rlt : List (Option RltEntry)) (e : RltEntry) : List (Option RltEntry) :=
  match rlt with
  | [] => []
  | none :: rest => some e :: rest
  | x :: rest => x :: putLock rest e

/-- Register ranges of an operation in a core's table (R153). `share` jobs hold the entry. -/
def addLocks (s : State) (core ctx owner share : Nat) (rs : List LockReq) : State :=
  rs.foldl (fun s r =>
    let (n, s) := s.fresh
    let q := sectorRange r.base r.len
    s.modCore core fun c => { c with rlt := putLock c.rlt ⟨r.dest, r.engine, r.space, ctx, q.1, q.2, owner, n, share⟩ }) s

/-- Two entries lie over one another. -/
def RltEntry.meets (a b : RltEntry) : Bool := a.space == b.space && a.ctx == b.ctx && overlap a.base (32 * a.len) b.base (32 * b.len)

/-- An operation waits: an earlier entry meets one of its own, and one of the two is a destination (R156). -/
def lockWaits (s : State) (core owner : Nat) (pick : RltEntry → Bool) : Bool :=
  let es := (rltEntries s core).map Prod.snd
  let mine := es.filter fun e => e.owner == owner && pick e
  mine.any fun e => es.any fun f => f.owner != owner && decide (f.order < e.order) && f.meets e && (f.dest || e.dest)

/-- The destination entry of a copy shrinks from its low end as its pointer advances (R157). -/
def shrinkLock (s : State) (core owner ptr : Nat) : State :=
  s.modCore core fun c => { c with rlt := c.rlt.map fun e =>
    match e with
    | some x =>
      if x.owner == owner && x.dest then
        let k := min (ptr / 32 - x.base / 32) x.len
        some { x with base := x.base + 32 * k, len := x.len - k }
      else some x
    | none => none }

/-- A cluster's cores. -/
def clusterCores (clu : Nat) : List Nat := (List.range 8).map (8 * clu + ·)

/-- The cores whose tables hold entries of an operation: those that R153 names, until its block has come back on another (R449). -/
def ownerCores (s : State) (owner : Nat) : List Nat :=
  (s.cores.filter fun c => c.rlt.any fun e => e.any fun x => x.owner == owner).map Core.core

def dropLocksAll (s : State) (owner : Nat) : State := (ownerCores s owner).foldl (fun s c => dropLocks s c owner) s

/-! ### Engine storage -/

def State.modEngine (s : State) (bid : Nat) (f : Engine → Engine) : State :=
  s.modBlock bid fun b => { b with engine := b.engine.map f }

def State.engine? (s : State) (bid : Nat) : Option Engine := (s.block? bid).bind Block.engine

/-- Bytes written into an operand buffer; a byte written is no longer poisoned. -/
def Engine.writeBuf (e : Engine) (n off : Nat) (bs : List Byte) : Engine :=
  let b := nth e.bufs n
  let b' : OpBuf := ⟨Memory.write b.mem off bs, b.poison.filter fun p => !(decide (off ≤ p) && decide (p < off + bs.length))⟩
  { e with bufs := e.bufs.set n b' }

/-- A load of another format clears a slot before it writes (R266). -/
def Engine.slotFmt (e : Engine) (n fmt : Nat) : Engine :=
  if (nth e.slots n).fmt = fmt then e else { e with slots := e.slots.set n (⟨[], fmt, []⟩ : BSlot) }

/-- Bytes written into a slot's image (R265). -/
def Engine.writeSlot (e : Engine) (n off : Nat) (bs : List Byte) : Engine :=
  let b := nth e.slots n
  let b' : BSlot := ⟨Memory.write b.mem off bs, b.fmt, b.poison.filter fun p => !(decide (off ≤ p) && decide (p < off + bs.length))⟩
  { e with slots := e.slots.set n b' }

/-- A copy's bytes reach a slot, and also the contents that a word taken back would give it again (R266, R271). -/
def Engine.copySlot (e : Engine) (n fmt off : Nat) (bs : List Byte) : Engine :=
  let put (e : Engine) : Engine := (e.slotFmt n fmt).writeSlot n off bs
  let kept (p : Nat × BSlot) : Nat × BSlot := if p.1 == n then (n, nth (put { e with slots := e.slots.set n p.2 }).slots n) else p
  { put e with undo := e.undo.map fun u => { u with slot := u.slot.map kept } }

end Sys2Proof.Machine
end

