-- ==== Sys2Proof/Machine/Copy.lean ====
section
/-! DEFINITION. Copies: packets, tiles, channels, delivery and completion, and transaction barriers (R167 to R182). -/

namespace Sys2Proof.Machine

open Host (Outcome)

/-! ### The copy packet (R169) -/

def pkTensor (bs : List Byte) : Bool := byteField bs 0 1 == 2
def pkDsp (bs : List Byte) : Nat := byteField bs 1 1 % 4
def pkTB (bs : List Byte) : Bool := bitN (byteField bs 1 1) 2
def pkChan (bs : List Byte) : Nat := byteField bs 2 1 % 16
def pkDst (bs : List Byte) : Nat := byteField bs 12 8
def pkTdesc (bs : List Byte) : Nat := byteField bs 20 8
def pkShape (bs : List Byte) (j : Nat) : Nat := byteField bs (40 + 2 * j) 2
def pkOrg (bs : List Byte) (j : Nat) : Int := sextN (byteField bs (28 + 4 * j) 4) 32
def pkFill (bs : List Byte) : Nat := byteField bs 46 2
def pkSig (bs : List Byte) : Nat := byteField bs 56 4

/-- The address or offset part of DST. -/
def pkBase (bs : List Byte) : Nat :=
  match pkDsp bs with
  | 0 => pkDst bs
  | 1 => pkDst bs % 2 ^ 19
  | _ => bitsN (pkDst bs) 16 24

/-- The core in the cluster that DST names. -/
def pkCore (bs : List Byte) : Nat := if pkDsp bs = 1 then bitsN (pkDst bs) 19 3 else bitsN (pkDst bs) 3 3

/-- The buffer or slot. -/
def pkUnit (bs : List Byte) : Nat := pkDst bs % 4

/-- The slot format that BFMT gives (R266). -/
def pkFmt (bs : List Byte) : Nat :=
  match bitsN (byteField bs 3 1) 5 2 with
  | 1 => 30
  | 2 => 31
  | _ => byteField bs 3 1 % 32

def pkFmtBad (bs : List Byte) : Bool :=
  let f := byteField bs 3 1
  if pkDsp bs = 3 then decide (f ≥ 128) || f / 32 % 4 == 3 || (f / 32 % 4 == 0 && decide (f % 32 ≥ 30)) else f != 0

def pkDstBad (bs : List Byte) : Bool :=
  let d := pkDst bs
  match pkDsp bs with
  | 0 => decide (d ≥ 2 ^ 57)
  | 1 => decide (d ≥ 2 ^ 22)
  | _ => decide (d ≥ 2 ^ 40) || bitN d 2 || bitsN d 6 10 != 0 || pkBase bs % 32 != 0

/-- A FILL code of R171. -/
def fillOk (c : Nat) : Bool := decide (c ≤ 2) || (decide (0x100 ≤ c) && decide (c ≤ 0x1FF))

/-- Fields that end the packet with ERR 1 or 2 (R167, R168), apart from the descriptor's own. -/
def pkErr (bs : List Byte) : Nat :=
  if byteField bs 0 1 ≠ 1 ∧ byteField bs 0 1 ≠ 2 then 1
  else if byteField bs 1 1 ≥ 8 ∨ byteField bs 2 1 ≥ 16 ∨ pkFmtBad bs ∨ pkDstBad bs
      ∨ byteField bs 48 4 ≥ 2 ^ 22 ∨ bitsN (pkSig bs) 16 14 ≠ 0 then 2
  else if pkTensor bs then
    if byteField bs 4 8 ≠ 0 ∨ pkTdesc bs % 64 ≠ 0 ∨ pkShape bs 0 = 0 ∨ pkShape bs 1 = 0 ∨ pkShape bs 2 = 0 ∨ fillOk (pkFill bs) = false
    then 2 else 0
  else if pkTdesc bs ≠ 0 ∨ byteField bs 32 16 ≠ 0 ∨ byteField bs 28 4 = 0 then 2
  else 0

/-! ### Tensor descriptors and tiles (R170 to R173) -/

def tdBase (td : List Byte) : Nat := byteField td 0 8
def tdSize (td : List Byte) : Nat := 2 ^ byteField td 9 1
def tdExt (td : List Byte) (d : Nat) : Nat := if d < byteField td 8 1 then byteField td (12 + 4 * d) 4 else 1
def tdStride (td : List Byte) (d : Nat) : Int := if d = 0 then (tdSize td : Int) else sextN (byteField td (24 + 8 * d) 8) 64

def tdBad (td : List Byte) : Bool :=
  byteField td 8 1 == 0 || decide (byteField td 8 1 > 5) || decide (byteField td 9 1 > 3) || byteField td 10 2 != 0
    || tdBase td % tdSize td != 0 || (List.range 4).any fun j => (tdStride td (j + 1)) % (tdSize td : Int) != 0

/-- The destination's size (R172). -/
def copySize (bs td : List Byte) : Nat :=
  if pkTensor bs then pkShape bs 0 * pkShape bs 1 * pkShape bs 2 * tdSize td else byteField bs 28 4

/-- The address of a tensor element by its first three indices. -/
def tileAddr (td : List Byte) (i0 i1 i2 : Int) : Int :=
  (tdBase td : Int) + i0 * tdStride td 0 + i1 * tdStride td 1 + i2 * tdStride td 2

/-- The canonical NaN of an element size (R171). -/
def fillNaN (size : Nat) : Nat :=
  match size with
  | 1 => 0x80 | 2 => 0x7E00 | 4 => 0x7FC00000 | _ => 0x7FF8000000000000

/-- Byte `j` of a filled element. -/
def fillByte (code size j : Nat) : Byte :=
  match code with
  | 0 => 0
  | 1 => 0xFF#8
  | 2 => nth (toBytes (fillNaN size) size) j
  | c => BitVec.ofNat 8 c

/-- Where destination byte `p` of a copy comes from: a source address, or a fill byte (R172, R173). -/
def copyByte (bs td : List Byte) (p : Nat) : Nat ⊕ Byte :=
  if pkTensor bs then
    let es := tdSize td
    let n := p / es
    let j0 := n % pkShape bs 0
    let j1 := n / pkShape bs 0 % pkShape bs 1
    let j2 := n / pkShape bs 0 / pkShape bs 1
    let i0 := pkOrg bs 0 + j0
    let i1 := pkOrg bs 1 + j1
    let i2 := pkOrg bs 2 + j2
    let inside (i : Int) (d : Nat) : Bool := decide (0 ≤ i) && decide (i < (tdExt td d : Int))
    if inside i0 0 && inside i1 1 && inside i2 2 && inside 0 3 && inside 0 4 then .inl (wrapN (tileAddr td i0 i1 i2) 64 + p % es)
    else .inr (fillByte (pkFill bs) es (p % es))
  else .inl (byteField bs 4 8 + p)

/-- The source bytes as one range (R153): for a tile, from the lowest to the highest element it reads; none where it reads none. -/
def copySource (bs td : List Byte) : Option (Nat × Nat) :=
  if pkTensor bs then
    let lo (d : Nat) : Int := if pkOrg bs d < 0 then 0 else pkOrg bs d
    let hi (d : Nat) : Int :=
      let a := pkOrg bs d + (pkShape bs d : Nat)
      (if a < (tdExt td d : Int) then a else (tdExt td d : Int)) - 1
    if lo 0 > hi 0 ∨ lo 1 > hi 1 ∨ lo 2 > hi 2 ∨ tdExt td 3 = 0 ∨ tdExt td 4 = 0 then none
    else
      let as := [lo 0, hi 0].flatMap fun x => [lo 1, hi 1].flatMap fun y => [lo 2, hi 2].map fun z => wrapN (tileAddr td x y z) 64
      match minBy id as with
      | some a => some (a, as.foldl Nat.max 0 + tdSize td - a)
      | none => none
  else some (byteField bs 4 8, byteField bs 28 4)

/-! ### Targets (R169, R174) -/

/-- The block of a launch on a core of a cluster: the appending fibre's own where it stands there, else any of those that do, which the
spec does not tell apart (R110, R169; log entry 12). -/
def copyTarget (s : State) (clu core : Nat) (lid own : Option Nat) : Option Nat :=
  let here (b : Block) : Bool := b.core == 8 * clu + core && lid == some b.lid
  let bs := (s.blocks.filter here).map Block.bid
  match own with
  | some b => if bs.contains b then some b else if bs.length ≤ 1 then bs.head? else bs[(s.freeVal 8).toNat % bs.length]?
  | none => if bs.length ≤ 1 then bs.head? else bs[(s.freeVal 8).toNat % bs.length]?

/-- The barrier a packet names: offset and core (R169). -/
def pkBar (bs : List Byte) : Nat × Nat := (byteField bs 48 4 % 2 ^ 19, bitsN (byteField bs 48 4) 19 3)

/-- SIG names nothing valid (R168, R169). -/
def pkSigBad (bs : List Byte) : Bool :=
  let g := pkSig bs
  g / 2 ^ 30 == 3 || (g / 2 ^ 30 != 0 && g % 65536 == 0xFFFF)

/-- What ends a packet whose fields hold: ERR 3, 4, 6, 7 or 8, the lowest first; 0 for none (R168). An odd number of bytes for a slot of a 16-bit
format counts as a breach of the slot's geometry, for which the spec gives the image's size and layout alone (R174, R265, R266; DESIGN CHOICE,
log entry 224). -/
def copyErr (s : State) (clu : Nat) (lid own : Option Nat) (bs td : List Byte) : Nat :=
  let dsp := pkDsp bs
  let n := copySize bs td
  let tgt := copyTarget s clu (pkCore bs) lid own
  let blk := (tgt.bind s.block?).getD default
  let bar := (copyTarget s clu (pkBar bs).2 lid own).bind s.block?
  if dsp ≠ 0 ∧ (tgt.isNone ∨ (dsp ≥ 2 ∧ blk.engine.isNone)) then 3
  else if dsp = 1 ∧ pkBase bs + n > blk.scr then 4
  else if dsp = 2 ∧ pkBase bs + n > bufBytes then 6
  else if dsp = 3 ∧ (pkBase bs + n > slotBytes ∨ (pkFmt bs ≥ 30 ∧ n % 2 ≠ 0)) then 6
  else if n > 2 ^ 29 then 7
  else if pkTB bs && ((pkBar bs).1 % 16 != 0 || (match bar with
      | some b => decide ((pkBar bs).1 + 16 > b.scr) | none => true)) then 8
  else if pkSigBad bs then 8
  else 0

/-! ### Range locks of a copy (R153) -/

/-- The owner's name of a packet's locks. -/
def copyOwner (ctx header index : Nat) : Nat := 2 ^ 200 + (header * 2 ^ 64 + index) * 4096 + ctx

/-- The destination's request. -/
def copyDest (bs td : List Byte) : LockReq :=
  let n := copySize bs td
  match pkDsp bs with
  | 0 => ⟨true, 0, 0, pkBase bs, n⟩
  | 1 => ⟨true, 0, 1, pkBase bs, n⟩
  | 2 => ⟨true, 0, 2, bufCode (pkUnit bs) + pkBase bs, n⟩
  | _ => ⟨true, 0, 2, slotCode (pkUnit bs) + pkBase bs, n⟩

/-- What a copy registers, by core: everything on the issuing core for a local append, else its destination in a core alone. -/
def copyLocks (issuer : Option Nat) (clu : Nat) (bs td : List Byte) : List (Nat × LockReq) :=
  let dst : List (Nat × LockReq) :=
    if pkDsp bs = 0 then (match issuer with | some c => [(c, copyDest bs td)] | none => []) else [(8 * clu + pkCore bs, copyDest bs td)]
  match issuer, copySource bs td with
  | some c, some r => (c, ⟨false, 0, 0, r.1, r.2⟩) :: dst
  | _, _ => dst

/-- The tables have room for requests (R158). -/
def locksFit (s : State) (rs : List (Nat × LockReq)) : Bool :=
  rs.all fun r => decide ((rs.filter fun x => x.1 == r.1).length ≤ freeLocks s r.1)

def takeLocks (s : State) (ctx owner : Nat) (rs : List (Nat × LockReq)) : State :=
  rs.foldl (fun s r => addLocks s r.1 ctx owner 1 [r.2]) s

/-! ### Channels (R175) -/

def State.channel? (s : State) (ctx clu chan : Nat) : Option Channel :=
  s.channels.find? fun c => c.ctx == ctx && c.cluster == clu && c.chan == chan

def State.modChannel (s : State) (ctx clu chan : Nat) (f : Channel → Channel) : State :=
  { s with channels := s.channels.map fun c => if c.ctx == ctx && c.cluster == clu && c.chan == chan then f c else c }

/-- Queue a job on its channel. -/
def pushJob (s : State) (ctx clu chan : Nat) (j : CopyJob) : State :=
  match s.channel? ctx clu chan with
  | some _ => s.modChannel ctx clu chan fun c => { c with waiting := c.waiting ++ [j] }
  | none => { s with channels := s.channels ++ [⟨ctx, clu, chan, 0, 0, none, [j]⟩] }

/-- End a packet in error: its locks go, nothing is posted, and a record reaches the handler (R178). -/
def failPacket (s : State) (ctx clu header index chan err rsec : Nat) : State :=
  match s.queue? ctx header with
  | none => s
  | some q =>
    let s := dropLocksAll s (copyOwner ctx header index)
    let s := endPacket s ctx header index 4 err rsec
    errorRecord s ctx 1 err 1 (clu + chan * 256) (q.slot index) rsec

/-- A tensor copy's descriptor; an empty one for a linear copy. -/
def readTdesc (s : State) (clu ctx : Nat) (bs : List Byte) : State × Except PortErr (List Byte) :=
  if pkTensor bs then engineRead s (cpeAgent clu) ctx (pkTdesc bs) 64 else (s, .ok [])

/-- The ERR of an access that fails (R178). -/
def PortErr.code : PortErr → Nat
  | .poison _ => 5
  | _ => 4

/-- The blocks of a packet's destination and of the barrier its TBA names (R169). -/
def copyBlocks (s : State) (clu : Nat) (lid own : Option Nat) (bs : List Byte) : Option Nat × Option Nat :=
  (if pkDsp bs = 0 then none else copyTarget s clu (pkCore bs) lid own,
   if pkTB bs then copyTarget s clu (pkBar bs).2 lid own else none)

/-- The launch that the host's copies of a queue target (R169, R401). -/
def boundLid (s : State) (q : QueueReg) : Option Nat :=
  q.bound.bind fun b => (s.launches.find? fun l => l.ctx == q.ctx && l.queue == some b).map Launch.lid

/-- A packet that a DBG_STEP in progress claimed (R477). -/
def stepPacket (s : State) (ctx header index : Nat) (st : StepSt) : Bool :=
  !st.puts.contains (header, index) && ((s.queue? ctx header).getD default).puts.any fun p => p.1 == index

/-- A channel's packet may move on. -/
def jobMay (s : State) (ctx : Nat) (j : CopyJob) : Bool := engineMay s ctx .copy (stepPacket s ctx j.header j.index)

/-- The CPE takes in the packet at its queue's next index (R153, R166 to R170). -/
def cpeAccept (s : State) (ctx header : Nat) : State :=
  match s.queue? ctx header with
  | none => s
  | some q =>
    if q.cls ≠ 0 ∨ q.closing ∨ !engineMay s ctx .copy (stepPacket s ctx header q.next) then s
    else
      match nextPacket s q with
      | (s, none) => s
      | (s, some bs) =>
        match canEnd s q q.next with
        | (s, false) => s
        | (s, true) =>
          let put := q.puts.find? fun p => p.1 == q.next
          let lid := match put with | some p => some p.2.1 | none => boundLid s q
          let own := put.map fun p => p.2.2
          let chan := pkChan bs
          let fail (s : State) (e : Nat) : State := failPacket (takeIndex s q) ctx q.clu header q.next chan e 0
          if pkErr bs ≠ 0 then fail s (pkErr bs)
          else
            let owner := copyOwner ctx header q.next
            let locked := s.cores.any fun c => c.rlt.any fun e => e.any fun e => e.owner == owner
            let job (td : List Byte) (known locked : Bool) : CopyJob :=
              { owner := owner, header := header, index := q.next, lid := lid, own := own, packet := bs, tdesc := td, known := known,
                locked := locked, size := if known then copySize bs td else 0, rsec := 0,
                bid := (copyBlocks s q.clu lid own bs).1, tbid := (copyBlocks s q.clu lid own bs).2, fault := none, failed := false }
            match readTdesc s q.clu ctx bs with
            | (s, .error (.page _ _)) | (s, .error (.held _)) => pushJob (setStatus (takeIndex s q) q q.next 1 0 0) ctx q.clu chan (job [] false locked)
            | (s, .error e) => fail s e.code
            | (s, .ok td) =>
              if pkTensor bs && tdBad td then fail s 2
              else if copyErr s q.clu lid own bs td ≠ 0 then fail s (copyErr s q.clu lid own bs td)
              else
                let rs := if locked then [] else copyLocks none q.clu bs td
                if !locksFit s rs then s
                else pushJob (setStatus (takeIndex (takeLocks s ctx owner rs) q) q q.next 1 0 0) ctx q.clu chan (job td true true)

def execCpePacketAccept (ctx header : Nat) (s : State) : Outcome State Fault Refusal := .next (cpeAccept s ctx header)

/-- CHANNEL_PACKET_START: the next packet of a channel becomes its running one; S rises and P takes its destination (R175). -/
def channelStart (s : State) (ctx clu chan : Nat) : State :=
  s.modChannel ctx clu chan fun c =>
      match c.running, c.waiting with
      | none, j :: rest => if !jobMay s ctx j then c else { c with seq := c.seq + 1, ptr := w64 (pkDst j.packet), running := some j, waiting := rest }
      | _, _ => c

def execChannelPacketStart (ctx cluster chan : Nat) (s : State) : Outcome State Fault Refusal := .next (channelStart s ctx cluster chan)

/-! ### Delivery (R175 to R178) -/

/-- Destination sectors of a copy: 32 bytes each, counted from the destination's first byte, so that the largest holds 2^24 of them (R168;
log entry 135). -/
def CopyJob.total (j : CopyJob) : Nat := (j.size + 31) / 32

/-- Bytes delivered after `n` sectors. -/
def CopyJob.done (j : CopyJob) (n : Nat) : Nat := min j.size (32 * n)

/-- The bytes of a span of destination positions. -/
def copyBytes (clu ctx : Nat) (bs td : List Byte) : List Nat → State → State × Except PortErr (List Byte)
  | [], s => (s, .ok [])
  | p :: ps, s =>
    let one : State × Except PortErr (List Byte) :=
      match copyByte bs td p with
      | .inr b => (s, .ok [b])
      | .inl a => engineRead s (cpeAgent clu) ctx a 1
    match one with
    | (s, .error e) => (s, .error e)
    | (s, .ok b) =>
      match copyBytes clu ctx bs td ps s with
      | (s, .error e) => (s, .error e)
      | (s, .ok rest) => (s, .ok (b ++ rest))

/-- Write delivered bytes at their destination. -/
def copyStore (s : State) (clu ctx : Nat) (j : CopyJob) (off : Nat) (bs : List Byte) : State × Except PortErr Unit :=
  let n := pkUnit j.packet
  match pkDsp j.packet, j.bid with
  | 0, _ => engineWrite s (cpeAgent clu) ctx off bs
  | 1, some b => (scratchStore s b off bs, .ok ())
  | 2, some b => (s.modEngine b fun e => e.writeBuf n off bs, .ok ())
  | 3, some b => (s.modEngine b fun e => e.copySlot n (pkFmt j.packet) off bs, .ok ())
  | _, _ => (s, .ok ())

/-- The charge of a sector beside that of its bytes at their homes: those that a scratchpad, buffer or slot takes (R347, R482). -/
def copyCharge (s : State) (ctx : Nat) (dsp n : Nat) : State :=
  countEvent (if dsp = 0 then s else chargeCtx s ctx (n * uL1)) ctx 8 n

/-- The pointer after a number of delivered bytes (R175). -/
def copyPtr (bs : List Byte) (n : Nat) : Word := w64 (pkDst bs + if pkDsp bs ≥ 2 then n * 2 ^ 16 else n)

/-- The running job of a channel, changed. -/
def putJob (s : State) (ctx clu chan : Nat) (j : CopyJob) : State :=
  s.modChannel ctx clu chan fun c => { c with running := some j }

/-- A page fault is filed and parks the channel: STATE 3, RSEC at the stop (R177). -/
def parkJob (s : State) (ctx clu chan : Nat) (j : CopyJob) (va : Nat) (acc : Access) (np : Bool) : State :=
  match s.queue? ctx j.header with
  | none => s
  | some q => putJob (setStatus (fileFault s ctx va 1 acc np) q j.index 3 0 j.rsec) ctx clu chan { j with fault := some va }

/-- An ERR ends the running packet; the channel moves on (R178). -/
def failJob (s : State) (ctx clu chan : Nat) (j : CopyJob) (err : Nat) : State :=
  match s.queue? ctx j.header with
  | none => s.modChannel ctx clu chan fun c => { c with running := none }
  | some q =>
    match canEnd s q j.index with
    | (s, false) => s
    | (s, true) =>
      (failPacket s ctx clu j.header j.index chan err j.rsec).modChannel ctx clu chan fun c => { c with running := none }

/-- A job whose descriptor could not be read when it was taken in: read it now, check it and take its locks. -/
def knowJob (s : State) (ctx clu chan : Nat) (j : CopyJob) : State :=
  match readTdesc s clu ctx j.packet with
  | (s, .error (.page va np)) => parkJob s ctx clu chan j va .read np
  | (s, .error (.held _)) => s
  | (s, .error e) => failJob s ctx clu chan j e.code
  | (s, .ok td) =>
    if tdBad td then failJob s ctx clu chan j 2
    else if copyErr s clu j.lid j.own j.packet td ≠ 0 then failJob s ctx clu chan j (copyErr s clu j.lid j.own j.packet td)
    else
      let rs := if j.locked then [] else copyLocks none clu j.packet td
      if !locksFit s rs then s
      else
        let b := copyBlocks s clu j.lid j.own j.packet
        putJob (takeLocks s ctx j.owner rs) ctx clu chan
          { j with tdesc := td, known := true, locked := true, size := copySize j.packet td, bid := b.1, tbid := b.2 }

/-- The next sector of a job; RSEC of the status counts it (R168). -/
def sectorJob (s : State) (ctx clu chan : Nat) (j : CopyJob) : State :=
  let lo := j.done j.rsec
  let hi := j.done (j.rsec + 1)
  match copyBytes clu ctx j.packet j.tdesc ((List.range (hi - lo)).map (lo + ·)) s with
  | (s, .error (.page va np)) => parkJob s ctx clu chan j va .read np
  | (s, .error (.held _)) => s
  | (s, .error e) => failJob s ctx clu chan j e.code
  | (s, .ok bs) =>
    match copyStore s clu ctx j (pkBase j.packet + lo) bs with
    | (s, .error (.page va np)) => parkJob s ctx clu chan j va .write np
    | (s, .error (.held _)) => s
    | (s, .error e) => failJob s ctx clu chan j e.code
    | (s, .ok ()) =>
      let s := copyCharge s ctx (pkDsp j.packet) (hi - lo)
      let s := (match s.queue? ctx j.header with | some q => setStatus s q j.index 1 0 (j.rsec + 1) | none => s)
      let s := putJob s ctx clu chan { j with rsec := j.rsec + 1 }
      if hi < j.size then
        let s := (ownerCores s j.owner).foldl (fun s c => shrinkLock s c j.owner ((copyDest j.packet j.tdesc).base + hi)) s
        s.modChannel ctx clu chan fun c => { c with ptr := copyPtr j.packet hi }
      else s

/-- COPY_SECTOR_DELIVER (R175, R177): one sector of a channel's running packet, unless it is parked, waits for an earlier lock (R156)
or is delivered whole. -/
def copyDeliver (s : State) (ctx clu chan : Nat) : State :=
  match (s.channel? ctx clu chan).bind Channel.running with
    | none => s
    | some j =>
      if !jobMay s ctx j then s
      else if j.failed then failJob s ctx clu chan j 4
      else
        match j.fault with
        | some va =>
          if s.faults.any (sameFault ctx va) then s
          else
            match s.queue? ctx j.header with
            | some q => putJob (setStatus s q j.index 1 0 j.rsec) ctx clu chan { j with fault := none }
            | none => s
        | none =>
          if !j.known then knowJob s ctx clu chan j
          else if (ownerCores s j.owner).any fun c => lockWaits s c j.owner fun _ => true then s
          else if j.rsec ≥ j.total then s
          else sectorJob s ctx clu chan j

def execCopySectorDeliver (ctx cluster chan : Nat) (s : State) : Outcome State Fault Refusal := .next (copyDeliver s ctx cluster chan)

/-- What a completed copy posts: its barrier and its event or counter (R176). -/
def copyPost (s : State) (ctx : Nat) (j : CopyJob) : State :=
  let bs := j.packet
  let n := if byteField bs 52 4 = 0 then j.size else byteField bs 52 4
  let s := if pkTB bs then
      (match j.tbid with
       | some b => tbChange s b (pkBar bs).1 (-(n : Int)) false
       | none => s)
    else s
  match pkSig bs / 2 ^ 30 with
  | 1 => signalEvent s ctx (pkSig bs % 65536) 1
  | 2 => decCounter s ctx (pkSig bs % 65536) 1
  | _ => s

/-- COPY_COMPLETE (R176), in its order. -/
def copyComplete (s : State) (ctx clu chan : Nat) : State :=
  match (s.channel? ctx clu chan).bind Channel.running with
  | none => s
  | some j =>
    match s.queue? ctx j.header with
    | none => s
    | some q =>
      if !jobMay s ctx j || !j.known || decide (j.rsec < j.total) then s
      else
        match canEnd s q j.index with
        | (s, false) => s
        | (s, true) =>
          let s := dropLocksAll s j.owner
          let s := s.modChannel ctx clu chan fun c => { c with ptr := copyPtr j.packet j.size, running := none }
          endPacket (copyPost s ctx j) ctx j.header j.index 2 0 j.rsec

def execCopyComplete (ctx cluster chan : Nat) (s : State) : Outcome State Fault Refusal := .next (copyComplete s ctx cluster chan)

end Sys2Proof.Machine
end

