-- ==== Sys2Proof/Machine/Integer.lean ====
section
/-! DEFINITION. The integer, bit and address instructions, opcodes 0x20 to 0x46 (R210 to R229): each lane's result from its
operands, and the meaning of each row. -/

namespace Sys2Proof.Machine

open Host (Outcome)

/-- The type of a word, and its element shape; the x8 forms take theirs from SC (R53, R211). -/
def tyOf (f : Fields) : Ty := Ty.ofCode f.ty.toNat
def shOf (f : Fields) : Shape := shapeOf (tyOf f) (f.sc.toNat % 32)

/-- A result of one register from A and B; from A, B and C. -/
def out1 (fn : Word → Word) (x : LaneIn) : LaneOut := outW (fn x.a)
def out2 (fn : Word → Word → Word) (x : LaneIn) : LaneOut := outW (fn x.a x.b)
def out3 (fn : Word → Word → Word → Word) (x : LaneIn) : LaneOut := outW (fn x.a x.b x.c)

def resIadd (f : Fields) : LaneIn → LaneOut := out2 (iaddW (shOf f) f.sat)
def resIsub (f : Fields) : LaneIn → LaneOut := out2 (isubW (shOf f) f.sat)
def resImul (f : Fields) : LaneIn → LaneOut := out2 (imulW (shOf f) f.sat)
def resImulh (f : Fields) : LaneIn → LaneOut := out2 (imulhW (shOf f))
def resImad (f : Fields) : LaneIn → LaneOut := out3 (imadW (shOf f) f.sat)
def resImadw (f : Fields) : LaneIn → LaneOut := out3 (imadwW (tyOf f).signed f.sat)
def resIabs (f : Fields) : LaneIn → LaneOut := out1 (iabsW (shOf f) f.sat)
def resImin (f : Fields) : LaneIn → LaneOut := out2 (iminW (shOf f))
def resImax (f : Fields) : LaneIn → LaneOut := out2 (imaxW (shOf f))
/-- IADDC writes the sum and the carry (R213). -/
def resIaddc (f : Fields) (x : LaneIn) : LaneOut :=
  let r := iaddcW (tyOf f).width x.a x.b x.c
  ⟨[r.1, r.2], none, 0⟩
def resIdiv (f : Fields) : LaneIn → LaneOut := out2 (idivW (shOf f) f.sat)
def resIrem (f : Fields) : LaneIn → LaneOut := out2 (iremW (shOf f))
def resIcmp (f : Fields) (x : LaneIn) : LaneOut := outP (icmpW (shOf f) (f.sc.toNat % 16) x.a x.b)
def resSel (f : Fields) : LaneIn → LaneOut := out3 (selW (tyOf f))
def resAnd (f : Fields) : LaneIn → LaneOut := out2 fun a b => bitW (tyOf f) (a &&& b)
def resOr (f : Fields) : LaneIn → LaneOut := out2 fun a b => bitW (tyOf f) (a ||| b)
def resXor (f : Fields) : LaneIn → LaneOut := out2 fun a b => bitW (tyOf f) (a ^^^ b)
def resAndn (f : Fields) : LaneIn → LaneOut := out2 fun a b => bitW (tyOf f) (a &&& ~~~b)
/-- TERN's table: t[7:4] in TY, t[3:1] in RM, t[0] in FI (R64, R217). -/
def ternTable (f : Fields) : Nat := f.ty.toNat * 16 + f.rm.toNat * 2 + (if f.fi then 1 else 0)
def resTern (f : Fields) : LaneIn → LaneOut := out3 (ternW (ternTable f))
def resShl (f : Fields) : LaneIn → LaneOut := out2 (map2 (shOf f) (shlElem (shOf f).w))
def resShr (f : Fields) : LaneIn → LaneOut := out2 (map2 (shOf f) (shrElem (shOf f).w))
def resSar (f : Fields) : LaneIn → LaneOut := out2 (map2 (shOf f) (sarElem (shOf f).w))
def resRot (f : Fields) : LaneIn → LaneOut := out2 (map2 (shOf f) fun x n => rotlN x n (shOf f).w)
def resFunnel (f : Fields) : LaneIn → LaneOut := out3 (map3 (shOf f) (funnelElem (shOf f).w))
def resBfe (f : Fields) : LaneIn → LaneOut := out3 (map3 (shOf f) (bfeElem (shOf f)))
def resBfi (f : Fields) : LaneIn → LaneOut := out3 (map3 (shOf f) (bfiElem (shOf f).w))
def resBrev (f : Fields) : LaneIn → LaneOut := out1 (map1 (shOf f) fun x => revN x (shOf f).w)
def resPopc (f : Fields) : LaneIn → LaneOut := out1 (map1 (shOf f) fun x => popN x (shOf f).w)
def resClz (f : Fields) : LaneIn → LaneOut := out1 (map1 (shOf f) fun x => clzN x (shOf f).w)
def resCtz (f : Fields) : LaneIn → LaneOut := out1 (map1 (shOf f) fun x => ctzN x (shOf f).w)
def resBperm : LaneIn → LaneOut := out3 bpermW
/-- The accumulator of ISAD and IDOT: D itself under x8 (R223). -/
def accOf (f : Fields) (x : LaneIn) : Word := if f.ty = 14 then x.d else x.c
def resIsad (f : Fields) (x : LaneIn) : LaneOut := outW (isadW (shOf f) (accOf f x) x.a x.b)
def resIdot (f : Fields) (x : LaneIn) : LaneOut := outW (idotW (shOf f) f.sat (accOf f x) x.a x.b)
def resPack (f : Fields) : LaneIn → LaneOut := out2 (packW (tyOf f) (Ty.ofCode (f.sc.toNat % 16)) f.sat)
def resUnpack (f : Fields) : LaneIn → LaneOut := out2 (unpackW (tyOf f) (Ty.ofCode (f.sc.toNat % 16)))
def resMov (f : Fields) : LaneIn → LaneOut := out1 (movW (tyOf f))
def resMovi (f : Fields) (_ : LaneIn) : LaneOut := outW ((imm27 f).signExtend 64)
def resLea (f : Fields) : LaneIn → LaneOut := out2 fun a b => w64 (eaM f (sizeBytes f.ty.toNat) a b)
def resHrand : LaneIn → LaneOut := out3 hrandW

def execIadd (f : Fields) (s : State) : Outcome State Fault Refusal := .next (fixedWord (.iadd f) (resIadd f) s)
def execIsub (f : Fields) (s : State) : Outcome State Fault Refusal := .next (fixedWord (.isub f) (resIsub f) s)
def execIaddc (f : Fields) (s : State) : Outcome State Fault Refusal := .next (fixedWord (.iaddc f) (resIaddc f) s)
def execImul (f : Fields) (s : State) : Outcome State Fault Refusal := .next (fixedWord (.imul f) (resImul f) s)
def execImulh (f : Fields) (s : State) : Outcome State Fault Refusal := .next (fixedWord (.imulh f) (resImulh f) s)
def execImad (f : Fields) (s : State) : Outcome State Fault Refusal := .next (fixedWord (.imad f) (resImad f) s)
def execImadw (f : Fields) (s : State) : Outcome State Fault Refusal := .next (fixedWord (.imadw f) (resImadw f) s)
def execIabs (f : Fields) (s : State) : Outcome State Fault Refusal := .next (fixedWord (.iabs f) (resIabs f) s)
def execImin (f : Fields) (s : State) : Outcome State Fault Refusal := .next (fixedWord (.imin f) (resImin f) s)
def execImax (f : Fields) (s : State) : Outcome State Fault Refusal := .next (fixedWord (.imax f) (resImax f) s)
def execIdiv (f : Fields) (s : State) : Outcome State Fault Refusal := .next (lateWord (.idiv f) (resIdiv f) s)
def execIrem (f : Fields) (s : State) : Outcome State Fault Refusal := .next (lateWord (.irem f) (resIrem f) s)
def execIcmp (f : Fields) (s : State) : Outcome State Fault Refusal := .next (fixedWord (.icmp f) (resIcmp f) s)
def execSel (f : Fields) (s : State) : Outcome State Fault Refusal := .next (fixedWord (.sel f) (resSel f) s)
def execAnd (f : Fields) (s : State) : Outcome State Fault Refusal := .next (fixedWord (.and f) (resAnd f) s)
def execOr (f : Fields) (s : State) : Outcome State Fault Refusal := .next (fixedWord (.or f) (resOr f) s)
def execXor (f : Fields) (s : State) : Outcome State Fault Refusal := .next (fixedWord (.xor f) (resXor f) s)
def execAndn (f : Fields) (s : State) : Outcome State Fault Refusal := .next (fixedWord (.andn f) (resAndn f) s)
def execTern (f : Fields) (s : State) : Outcome State Fault Refusal := .next (fixedWord (.tern f) (resTern f) s)
def execShl (f : Fields) (s : State) : Outcome State Fault Refusal := .next (fixedWord (.shl f) (resShl f) s)
def execShr (f : Fields) (s : State) : Outcome State Fault Refusal := .next (fixedWord (.shr f) (resShr f) s)
def execSar (f : Fields) (s : State) : Outcome State Fault Refusal := .next (fixedWord (.sar f) (resSar f) s)
def execRot (f : Fields) (s : State) : Outcome State Fault Refusal := .next (fixedWord (.rot f) (resRot f) s)
def execFunnel (f : Fields) (s : State) : Outcome State Fault Refusal := .next (fixedWord (.funnel f) (resFunnel f) s)
def execBfe (f : Fields) (s : State) : Outcome State Fault Refusal := .next (fixedWord (.bfe f) (resBfe f) s)
def execBfi (f : Fields) (s : State) : Outcome State Fault Refusal := .next (fixedWord (.bfi f) (resBfi f) s)
def execBrev (f : Fields) (s : State) : Outcome State Fault Refusal := .next (fixedWord (.brev f) (resBrev f) s)
def execPopc (f : Fields) (s : State) : Outcome State Fault Refusal := .next (fixedWord (.popc f) (resPopc f) s)
def execClz (f : Fields) (s : State) : Outcome State Fault Refusal := .next (fixedWord (.clz f) (resClz f) s)
def execCtz (f : Fields) (s : State) : Outcome State Fault Refusal := .next (fixedWord (.ctz f) (resCtz f) s)
def execBperm (f : Fields) (s : State) : Outcome State Fault Refusal := .next (fixedWord (.bperm f) resBperm s)
def execIsad (f : Fields) (s : State) : Outcome State Fault Refusal := .next (fixedWord (.isad f) (resIsad f) s)
def execIdot (f : Fields) (s : State) : Outcome State Fault Refusal := .next (fixedWord (.idot f) (resIdot f) s)
def execPack (f : Fields) (s : State) : Outcome State Fault Refusal := .next (fixedWord (.pack f) (resPack f) s)
def execUnpack (f : Fields) (s : State) : Outcome State Fault Refusal := .next (fixedWord (.unpack f) (resUnpack f) s)
def execMov (f : Fields) (s : State) : Outcome State Fault Refusal := .next (fixedWord (.mov f) (resMov f) s)
def execMovi (f : Fields) (s : State) : Outcome State Fault Refusal := .next (fixedWord (.movi f) (resMovi f) s)
def execLea (f : Fields) (s : State) : Outcome State Fault Refusal := .next (fixedWord (.lea f) (resLea f) s)
def execHrand (f : Fields) (s : State) : Outcome State Fault Refusal := .next (fixedWord (.hrand f) resHrand s)

end Sys2Proof.Machine
end

