-- ==== Sys2Proof/Machine/Lane.lean ====
section
/-! DEFINITION. The lane and quad instructions, opcodes 0x80 to 0x8A (R230 to R238). -/

namespace Sys2Proof.Machine

open Host (Outcome)

/-- The mode, random bits and flags-out options of one sub-element of a lane's word (R195, R197, R199, R240). -/
def rctx (f : Fields) (x : LaneIn) (sat : Bool) (sub : Nat) : RCtx := ⟨modeOf f.rm.toNat x.status, rndBits x.rnd x.fibre sub, sat, f.fo⟩

/-! ### Exchanges (R232, R233) -/

/-- The register an exchange writes in a lane. -/
def exchWord (i : Instr) (s : State) (c : SrcCtx) (g : Group) (l : Nat) (b : Word) : Word :=
  let f := fieldsOfInstr i
  let n := laneElems f
  pack (laneWidth f) ((List.range n).map fun j =>
    let e := exchIndex i n (g.wg * n) b (l * n + j)
    elem (laneWidth f) (e % n) (crossVal s c g i (e / n)))

def exchBody (i : Instr) : BodyFn := fun s b g p =>
  fixedBody i (fun x => outW (exchWord i s (srcCtx s b g) g x.lane x.b)) s b g p

def execLxch (f : Fields) (s : State) : Outcome State Fault Refusal := .next (plainWord (.lxch f) (exchBody (.lxch f)) s)
def execLxor (f : Fields) (s : State) : Outcome State Fault Refusal := .next (plainWord (.lxor f) (exchBody (.lxor f)) s)
def execLbcast (f : Fields) (s : State) : Outcome State Fault Refusal := .next (plainWord (.lbcast f) (exchBody (.lbcast f)) s)

/-- The lane at a position of a lane's quad. -/
def quadLane (l pos : Nat) : Nat := l / 4 * 4 + pos

def qxchBody (i : Instr) : BodyFn := fun s b g p =>
  fixedBody i (fun x => outW (crossVal s (srcCtx s b g) g i (quadLane x.lane (field x.b 0 2)))) s b g p

def execQxch (f : Fields) (s : State) : Outcome State Fault Refusal := .next (plainWord (.qxch f) (qxchBody (.qxch f)) s)

/-! ### Derivatives (R234) -/

/-- `round_rm(p − q)` of each element: FSUB. -/
def subElems (f : Fields) (x : LaneIn) (p q : Word) : Word × Flags :=
  let t := tyOf f
  let fm := fmtOfTy t
  let rs := (List.range t.count).map fun j =>
    let d (w : Word) : FV := fm.flushIn f.fi (fm.decode (elem t.width j w))
    fvAdd fm (rctx f x false j) (d p) (d q).negate
  (pack t.width (rs.map fun r => fm.encode r.1), rs.foldl (fun a r => a ||| r.2) 0)

def ddxBody (i : Instr) (hi lo : Nat → Nat) : BodyFn := fun s b g p =>
  let c := srcCtx s b g
  fixedBody i (fun x => outWF (subElems (fieldsOfInstr i) x (crossVal s c g i (quadLane x.lane (hi (x.lane % 4))))
    (crossVal s c g i (quadLane x.lane (lo (x.lane % 4)))))) s b g p

def execQddx (f : Fields) (s : State) : Outcome State Fault Refusal :=
  .next (plainWord (.qddx f) (ddxBody (.qddx f) (fun q => q ||| 1) (fun q => q &&& 2)) s)

def execQddy (f : Fields) (s : State) : Outcome State Fault Refusal :=
  .next (plainWord (.qddy f) (ddxBody (.qddy f) (fun q => q ||| 2) (fun q => q &&& 1)) s)

/-! ### Reductions and scans (R235) -/

/-- The combination of integer elements; the identity of an empty set. -/
def combineInt (sh : Shape) (sat : Bool) (op : Nat) (xs : List Nat) : Nat :=
  match op with
  | 0 => sh.fit sat (xs.foldl (fun (a : Int) x => a + sh.val x) 0)
  | 1 => wrapN (xs.foldl (fun (a : Int) x => if sh.val x < a then sh.val x else a) sh.hi) sh.w
  | 2 => wrapN (xs.foldl (fun (a : Int) x => if a < sh.val x then sh.val x else a) sh.lo) sh.w
  | 3 => xs.foldl (fun a x => Nat.land a x) (2 ^ sh.w - 1)
  | 4 => xs.foldl (fun a x => Nat.lor a x) 0
  | _ => xs.foldl (fun a x => Nat.xor a x) 0

/-- The combination of float elements, in lane order. -/
def combineFloat (fm : Fmt) (fi fo : Bool) (c : RCtx) (op : Nat) (xs : List Nat) : Nat × Flags :=
  let vs := xs.map fun x => fm.flushIn fi (fm.decode x)
  match vs with
  | [] => (fm.encode (match op with | 0 => .fin false 0 0 | 1 => .inf false | _ => .inf true), 0)
  | v :: rest =>
    let start : FV × Flags := (if v.isNaN then .nan false else v, nvOf vs)
    let r := rest.foldl (fun (acc : FV × Flags) x =>
      let y := match op with
        | 0 => fvAdd fm { c with sat := false, fo := false } acc.1 x
        | 1 => fvMinMax fm false false true acc.1 x
        | _ => fvMinMax fm false true true acc.1 x
      (y.1, acc.2 ||| y.2)) start
    let o := fm.passOut fo r.1
    (fm.encode o.1, r.2 ||| o.2)

/-- The combination of a set of lanes' registers, element by element. -/
def combineWord (i : Instr) (x : LaneIn) (s : State) (c : SrcCtx) (g : Group) (ls : List Nat) : Word × Flags :=
  let f := fieldsOfInstr i
  let t := tyOf f
  let op := x.b.toNat % 8
  let regs := ls.map (crossVal s c g i)
  let rs : List (Nat × Flags) := (List.range t.count).map fun j =>
    let xs := regs.map (elem t.width j)
    if t.isFloat then combineFloat (fmtOfTy t) f.fi f.fo (rctx f x false j) op xs else (combineInt (shOf f) f.sat op xs, 0)
  (pack t.width (rs.map Prod.fst), rs.foldl (fun a r => a ||| r.2) 0)

/-- An operation code outside the table traps (R235), and saturation of any operation but the integer sum, whatever the guard (R67, R230, R238).
Where a k register gives the operation it is judged at issue, once the register is full (DESIGN CHOICE, log entry 219). -/
def combineBar (i : Instr) (scan : Bool) : BarFn := fun s b g present =>
  let f := fieldsOfInstr i
  let lanes := g.participants present f
  match lowestLane present with
  | none => none
  | some l =>
    let v := (srcB s (srcCtx s b g) g l i).toNat
    if emptyAt g l f.sb.toNat then none
    else if f.sat ∧ v % 8 ≠ 0 then some (.illegalField, present, 0, 0)
    else if lanes ≠ 0 ∧ (v ≥ 16 ∨ v % 8 ≥ (if (tyOf f).isFloat then 3 else 6) ∨ (scan = false ∧ v ≥ 8)) then some (.illegalOperand, lanes, 0, 0)
    else none

def lreduceBody (i : Instr) : BodyFn := fun s b g p =>
  fixedBody i (fun x => outWF (combineWord i x s (srcCtx s b g) g (lanesOf (g.actors p (fieldsOfInstr i))))) s b g p

def lscanBody (i : Instr) : BodyFn := fun s b g p =>
  fixedBody i (fun x => outWF (combineWord i x s (srcCtx s b g) g
    (scanSet (g.actors p (fieldsOfInstr i)) x.lane (bitN x.b.toNat 3)))) s b g p

def execLreduce (f : Fields) (s : State) : Outcome State Fault Refusal :=
  .next (runWord (.lreduce f) alwaysReady (combineBar (.lreduce f) false) (lreduceBody (.lreduce f)) s)

def execLscan (f : Fields) (s : State) : Outcome State Fault Refusal :=
  .next (runWord (.lscan f) alwaysReady (combineBar (.lscan f) true) (lscanBody (.lscan f)) s)

/-! ### KGET, HELPER, SUBSWZ (R236, R237) -/

/-- The lane operations of a word in flight whose operands are A and B. -/
def abOps (i : Instr) (s : State) (b : Batch) (g : Group) (lanes : Mask) : List LaneOp :=
  let c := srcCtx s b g
  (lanesOf lanes).map fun l =>
    let x := srcA s c g l i
    let y := srcB s c g l i
    ⟨l, x, y, [], eaOf i x y, 0⟩

def kgetBody (i : Instr) : BodyFn := fun s b g p =>
  ((launchFlight i .kget (abOps i s b g (partLanes g p i)) s b g).1, none)

def execKget (f : Fields) (s : State) : Outcome State Fault Refusal := .next (plainWord (.kget f) (kgetBody (.kget f)) s)

def resHelper (x : LaneIn) : LaneOut := outP (x.status.getLsbD 24)
def execHelper (f : Fields) (s : State) : Outcome State Fault Refusal := .next (fixedWord (.helper f) resHelper s)

def resSubswz (f : Fields) : LaneIn → LaneOut := out2 (subswzW (laneWidth f))
def execSubswz (f : Fields) (s : State) : Outcome State Fault Refusal := .next (fixedWord (.subswz f) (resSubswz f) s)

end Sys2Proof.Machine
end

