-- ==== Sys2Proof/Machine/CopyWords.lean ====
section
/-! DEFINITION. QPUT, WPGET and the transaction-barrier words (R184 to R186). -/

namespace Sys2Proof.Machine

open Host (Outcome)

/-! ### QPUT -/

/-- The packet in eight registers. -/
def qputPacket (i : Instr) (s : State) (c : SrcCtx) (g : Group) (l : Nat) : List Word :=
  (List.range 8).map fun j => spanVal s c g l (fieldsOfInstr i).sb.toNat j

def packetBytes (ws : List Word) : List Byte := ws.flatMap fun w => toBytes w.toNat 8

/-- The descriptor a packet's range check reads: of a tensor packet, aligned (R184). -/
def qputTdesc (bs : List Byte) : Option Nat :=
  if pkTensor bs && pkTdesc bs % 64 == 0 then some (pkTdesc bs) else none

/-- Steps 2 to 4 of R105 for a lane's header and descriptor. -/
def qputFail (s : State) (g : Group) (h : Nat) (td : Option Nat) : Option AccFail :=
  if h % 128 ≠ 0 then some ⟨.align, h, 0⟩
  else
    match accessFail s g .global none h 8 true with
    | some e => some e
    | none => td.bind fun t => accessFail s g .global none t 64 false

def qputBar (i : Instr) : BarFn := fun s b g present =>
  let c := srcCtx s b g
  let reads := readable s c g present i
  (firstFail (((lanesOf (g.actors present (fieldsOfInstr i))).filter (reads [0])).filterMap fun l =>
    let td := if reads [1] l then qputTdesc (packetBytes (qputPacket i s c g l)) else none
    (qputFail s g (srcA s c g l i).toNat td).map fun e => (l, e))).map
    fun p => (p.1.cause, p.2, p.1.detail, p.1.addr)

/-- What a lane's packet registers in the tables at issue (R153), one that the consumer will refuse included; nothing where it is no copy
or its descriptor gives no range (log entry 200). -/
def qputLocks (s : State) (g : Group) (h : Nat) (bs td : List Byte) : List (Nat × LockReq) :=
  match s.queue? g.ctx h with
  | none => []
  | some q =>
    if q.clu ≠ g.core / 8 ∨ (byteField bs 0 1 ≠ 1 ∧ byteField bs 0 1 ≠ 2) ∨ (pkTensor bs && tdBad td) then []
    else (copyLocks (some g.core) q.clu bs td).filter fun r => decide (r.2.base < 2 ^ 57)

/-- The descriptor as it stands, where it can be read. -/
def qputTd (s : State) (g : Group) (bs : List Byte) : List Byte :=
  match qputTdesc bs with
  | none => []
  | some t => (match (engineRead s g.core g.ctx t 64).2 with | .ok td => td | .error _ => [])

/-- A lane of a QPUT in flight that has yet to claim, below a lane. -/
def Flight.unclaimedBelow (fl : Flight) (lane : Nat) : Bool :=
  fl.pendingOps.any fun o => o.tgt == 0 && decide (o.lane < lane) && !fl.held.any fun h => h.1 == o.lane

/-- Lanes claim in order: those below in the word, and those of the batch's groups that stand before this one, have claimed (R184). -/
def claimsFirst (s : State) (fl : Flight) (lane : Nat) : Bool :=
  !fl.unclaimedBelow lane &&
    !s.groups.any fun g => g.flights.any fun e => e.kind == .qput && e.batch == fl.batch && decide (e.seq < fl.seq) && e.unclaimedBelow 64

/-- The header's and descriptor's pages allow what QPUT does, the queue is a registered copy queue of the context, and then nothing there is
poisoned (R105, R184). A queue whose QUEUE_UNREG is under way counts as not registered (DESIGN CHOICE, log entry 212). The answer is the
header's target and the descriptor. -/
def qputProbe (s : State) (g : Group) (h : Nat) (bs : List Byte) : State × Except PortErr (Target × List Byte) :=
  match portXl s g h .atomic 8 [] with
  | (s, .error e) => (s, .error e)
  | (s, .ok t) =>
    if (match s.queue? g.ctx h with | some q => q.cls != 0 || q.closing | none => true) then (s, .error (.access h))
    else
      let data (s : State) (td : List Byte) : State × Except PortErr (Target × List Byte) :=
        if (readTarget s t 8).2 then (s, .error (.poison h)) else (s, .ok (t, td))
      match qputTdesc bs with
      | none => data s []
      | some a =>
        match engineRead s g.core g.ctx a 64 with
        | (s, .error (.poison v)) => (s, .error (.poison (if (readTarget s t 8).2 then h else v)))
        | (s, .error e) => (s, .error e)
        | (s, .ok td) => data s td

/-- The access of a QPUT that a page stops: of its header, or the read of its descriptor (R184, R396). -/
def qputAcc (h va : Nat) : Access := if va / 65536 = h / 65536 then .atomic else .read

/-- The page that a lane of a QPUT would park at (R397). -/
def qputPark (i : Instr) (s : State) (b : Batch) (g : Group) : Probe := fun l =>
  let c := srcCtx s b g
  let h := (srcA s c g l i).toNat
  (PortErr.fault? .read (qputProbe s g h (packetBytes (qputPacket i s c g l))).2).map fun p => (p.1, p.2.1, qputAcc h p.1)

/-- QPUT waits for range-lock entries for its first lane; a later lane waits for its own before it claims (R158, R184). -/
def qputReady (i : Instr) : ReadyFn := fun s b g present =>
  let c := srcCtx s b g
  memReady s b g present && !parkWaits s b g (g.actors present (fieldsOfInstr i)) (qputPark i s b g) &&
    match lowestLane (g.actors present (fieldsOfInstr i)) with
    | none => true
    | some l =>
      let bs := packetBytes (qputPacket i s c g l)
      locksFit s (qputLocks s g (srcA s c g l i).toNat bs (qputTd s g bs))

/-- A lane claims its index: ranges are registered, WIDX rises by one (R184). None while the lock table is full. -/
def qputClaim (s : State) (g : Group) (h : Nat) (bs : List Byte) : State × Except PortErr (Option Nat) :=
  match qputProbe s g h bs with
  | (s, .error e) => (s, .error e)
  | (s, .ok (t, td)) =>
    let rs := qputLocks s g h bs td
    if !locksFit s rs then (s, .ok none)
    else
      let s := settleAt s g.core g.ctx h 8
      let i := ofBytes (readTarget s t 8).1
      let s := commitBlock (writeTarget s t (toBytes (i + 1) 8)) g.bid
      let s := takeLocks s g.ctx (copyOwner g.ctx h i) rs
      (s.modQueue g.ctx h fun q => { q with puts := (i, g.lid, g.bid) :: q.puts }, .ok (some i))

/-- A lane with an index and room writes its slot (R184): bytes 0 to 59, then the phase as a release. -/
def qputPublish (s : State) (g : Group) (lane : Nat) (sc : Scope) (h i : Nat) (bs : List Byte) : State × Except PortErr Bool :=
  match s.queue? g.ctx h with
  | none => (s, .error (.access h))
  | some q =>
    match engineRead s g.core g.ctx (h + 128) 8 with
    | (s, .error e) => (s, .error e)
    | (s, .ok r) =>
      if i ≥ ofBytes r + 2 ^ q.log2c then (s, .ok false)
      else
        let s := releaseAt s g.core g.ctx g.gid lane sc
        match engineWrite s g.core g.ctx (q.slot i) (bs.take 60 ++ toBytes (q.phase i) 4) with
        | (s, .error e) => (s, .error e)
        | (s, .ok ()) => (s, .ok true)

/-- A lane's operation changed in its flight. -/
def Flight.putOp (fl : Flight) (o : LaneOp) : Flight := { fl with ops := fl.ops.map fun x => if x.lane == o.lane then o else x }

/-- A lane is held; a page fault is filed (R396). -/
def holdLane (s : State) (g : Group) (fl : Flight) (lane : Nat) (e : PortErr) (acc : Access) : State :=
  let s := match e with | .page va np => fibreFault s g lane fl.seg fl.woff va 0 acc np | _ => s
  s.modGroup g.gid fun g => g.putFlight { fl with held := fl.held ++ [(lane, e.cause, e.addr)] }

/-- One lane of a QPUT in flight goes on: it claims, or publishes once its earlier accesses have performed and is done. None where it
can do neither. -/
def qputLane (s : State) (g : Group) (fl : Flight) (o : LaneOp) : Option State :=
  let bs := packetBytes o.data
  if fl.held.any fun h => h.1 == o.lane then none
  else if o.tgt = 0 then
    if !claimsFirst s fl o.lane then none
    else
    match qputClaim s g o.ea bs with
    | (_, .error (.held _)) | (_, .ok none) => none
    | (s, .error e) => some (holdLane s g fl o.lane e (qputAcc o.ea e.addr))
    | (s1, .ok (some i)) => some ((shareBlock s g.ctx g.bid s1).modGroup g.gid fun g => g.putFlight (fl.putOp { o with tgt := i + 1 }))
  else if g.flights.any fun e => e.isMem && decide (e.seq < fl.seq) && e.standsIn (laneBit o.lane) then none
  else
    match qputPublish s g o.lane (Scope.ofCode ((fieldsOfInstr fl.instr).sc.toNat % 8)) o.ea (o.tgt - 1) bs with
    | (_, .error (.held _)) | (_, .ok false) => none
    | (s, .error e) => some (holdLane s g fl o.lane e (if e.addr = o.ea + 128 then .read else .write))
    | (s1, .ok true) => some ((shareBlock s g.ctx g.bid s1).modGroup g.gid fun g => g.putFlight (fl.finish o.lane))

/-- Every lane of a new QPUT claims in lane order (R184). -/
def qputClaims (s : State) (gid seq : Nat) (lanes : List Nat) : State :=
  lanes.foldl (fun s l =>
    match s.group? gid with
    | none => s
    | some g =>
      match g.flights.find? fun e => e.seq == seq with
      | none => s
      | some fl =>
        match fl.ops.find? fun o => o.lane == l with
        | some o => (qputLane s g fl o).getD s
        | none => s) s

/-- The index of a lane of a QPUT in flight: the one it has claimed, else the one it will where no other agent claims before it. -/
def qputIndex (s : State) (g : Group) (fl : Flight) (o : LaneOp) : Nat :=
  if o.tgt ≠ 0 then o.tgt - 1
  else
    let before := fl.pendingOps.filter fun x => x.tgt == 0 && x.ea == o.ea && decide (x.lane < o.lane)
    before.length + match (engineReadN s g.core g.ctx o.ea 8).2 with | .ok n => n | .error _ => 0

/-- The slot that a lane of a QPUT in flight writes. -/
def qputSlot (s : State) (gid seq : Nat) (o : LaneOp) : Option Nat :=
  (s.group? gid).bind fun g => (g.flights.find? fun e => e.seq == seq).bind fun fl =>
    (fl.ops.find? fun x => x.lane == o.lane).bind fun x => (s.queue? g.ctx o.ea).map fun q => q.slot (qputIndex s g fl x)

/-- What a QPUT accesses: WIDX, RIDX, the descriptor and the slot (R184, R467). -/
def qputWatch (s : State) (gid seq : Nat) : List WatchAcc :=
  let at_ (a : Option Nat) (size base len : Nat) : Bool := match a with | some a => overlap a size base len | none => false
  [⟨0, true, true, touchAt 8⟩,
   ⟨0, true, false, fun o base len => overlap (o.ea + 128) 8 base len || at_ (qputTdesc (packetBytes o.data)) 64 base len⟩,
   ⟨0, false, true, fun o => at_ (qputSlot s gid seq o) 64⟩]

def qputBody (i : Instr) (s : State) (b : Batch) (g : Group) (present : Mask) : State × Option TrapInfo :=
  let c := srcCtx s b g
  let lanes := g.actors present (fieldsOfInstr i)
  let hdr (l : Nat) : Nat := (srcA s c g l i).toNat
  match parkSuspend i s b g lanes (qputPark i s b g) with
  | some s => (s, none)
  | none =>
    let ops := (lanesOf lanes).map fun l => (⟨l, srcA s c g l i, srcB s c g l i, qputPacket i s c g l, hdr l, 0⟩ : LaneOp)
    let r := launchFlight i .qput ops s b g
    let s' := qputClaims r.1 g.gid r.2 (lanesOf lanes)
    watchEnd s s' b g false (qputWatch s' g.gid r.2) ops

def execQput (f : Fields) (s : State) : Outcome State Fault Refusal :=
  .next (runWordThen (.qput f) (qputReady (.qput f)) (qputBar (.qput f)) (qputBody (.qput f)) (memFin (.qput f) (issuerBatch s)) s)

/-- QPUT_SLOT_PUBLISH: the first lane of a QPUT that can goes on (R184). -/
def qputStep (s : State) (gid seq : Nat) : State :=
  match s.group? gid with
  | none => s
  | some g =>
    match g.flights.find? fun e => e.seq == seq && e.kind == .qput && flightMay s gid seq with
    | none => s
    | some fl =>
      match fl.pendingOps.findSome? (qputLane s g fl) with
      | some s => reapGroup (raiseHeld s gid) gid
      | none => s

/-- Before a stop, every lane that has claimed its index and has room completes its slot (R184). -/
def qputSweep (s : State) (gid : Nat) : State :=
  match s.group? gid with
  | none => s
  | some g =>
    (g.flights.flatMap fun fl => if fl.kind == .qput then (fl.pendingOps.filter fun o => o.tgt != 0).map fun o => (fl.seq, o.lane) else []).foldl
      (fun s (p : Nat × Nat) => qputClaims s gid p.1 [p.2]) s

def execQputSlotPublish (gid seq : Nat) (s : State) : Outcome State Fault Refusal := .next (qputStep s gid seq)

/-! ### WPGET (R185) -/

def wpgetLanes (i : Instr) (g : Group) (present : Mask) : Mask :=
  if isUniform i then partLanes g present i else g.actors present (fieldsOfInstr i)

def wpgetBody (i : Instr) (s : State) (b : Batch) (g : Group) (present : Mask) : State × Option TrapInfo :=
  ((launchFlight i .wpget (abOps i s b g (wpgetLanes i g present)) s b g).1, none)

def execWpget (f : Fields) (s : State) : Outcome State Fault Refusal :=
  .next (runWord (.wpget f) memReady noBar (wpgetBody (.wpget f)) s)

/-! ### TBINIT, TBARR, TBWAIT (R186) -/

/-- The block and offset of a barrier operand. -/
def tbTarget (s : State) (g : Group) (v : Word) : Option Nat := remoteBlock s g (field v 19 3)

/-- The checks of a barrier operand: a 16-byte access of the named core's block (R186). -/
def tbFail (s : State) (g : Group) (writes : Bool) (v : Word) : Option AccFail :=
  let off := field v 0 19
  if off % 16 ≠ 0 then some ⟨.align, off, 0⟩
  else if v.toNat ≥ 2 ^ 22 then some ⟨.accessFault, off, 0⟩
  else accessFail s g .remote (tbTarget s g v) off 16 writes

/-- Barrier checks, then the operand values a word bars. A word that waits is judged already. -/
def tbBar (i : Instr) (writes : Bool) (valueBad : Word → Word → Bool) : BarFn := fun s b g present =>
  let c := srcCtx s b g
  let lanes := g.actors present (fieldsOfInstr i)
  if b.wait.isSome then none
  else
    match firstFail (((lanesOf lanes).filter (readable s c g present i [0])).filterMap fun l =>
        (tbFail s g writes (srcA s c g l i)).map fun e => (l, e)) with
    | some p => some (p.1.cause, p.2, p.1.detail, p.1.addr)
    | none =>
      let bad := lanesWith lanes fun l => valueBad (srcB s c g l i) (srcC s c g l i)
      if bad = 0 then none else some (.illegalOperand, bad, 0, 0)

/-- A lane's operation on its barrier. -/
def tbOp (i : Instr) (s : State) (b : Batch) (g : Group) (l : Nat) : LaneOp :=
  let c := srcCtx s b g
  let v := srcA s c g l i
  ⟨l, v, srcB s c g l i, [srcC s c g l i], field v 0 19, (tbTarget s g v).getD 0⟩

/-- Lanes that meet poison in their barrier are held; the trap is taken once the word has issued (R186, R426). -/
def tbHold (i : Instr) (s : State) (b : Batch) (g : Group) (ops : List LaneOp) : State :=
  let r := launchFlight i .tbar ops s b g
  r.1.modGroup g.gid fun g => { g with flights := g.flights.map fun fl =>
    if fl.seq == r.2 then { fl with held := ops.map fun o => (o.lane, .poison, o.ea) } else fl }

/-- Each lane's step on its barrier, in lane order, with the watchpoints it meets. A word that reads its barrier holds the lanes that meet
poison there. -/
def tbBody (i : Instr) (rd : Bool) (step : State → Group → Nat → Nat → Nat → Word → Word → State) (s : State) (b : Batch) (g : Group)
    (present : Mask) : State × Option TrapInfo :=
  let ops := (lanesOf (g.actors present (fieldsOfInstr i))).map (tbOp i s b g)
  let bad := ops.filter fun o => rd && tbPoisoned s o.tgt o.ea
  let good := ops.filter fun o => !(rd && tbPoisoned s o.tgt o.ea)
  watchEnd s (tbHold i (good.foldl (fun s o => step s g o.lane o.tgt o.ea o.b (nth o.data 0)) s) b g bad) b g false [⟨1, rd, true, touchAt 16⟩] ops

/-- TBINIT's new barrier. -/
def tbInit (s : State) (g : Group) (_ bid off : Nat) (arr bytes : Word) : State :=
  let t : TBar := ⟨sextN bytes.toNat 32, bytes.toNat, arr.toNat, arr.toNat, 0, 0, 0⟩
  commitOther (endTbWaits (tbWrite s bid off t) bid off 0) g bid

def execTbinit (f : Fields) (s : State) : Outcome State Fault Refusal :=
  .next (runWord (.tbinit f) memReady
    (tbBar (.tbinit f) true fun a n => a.toNat == 0 || decide (a.toNat > 65535) || decide (n.toNat ≥ 2 ^ 31))
    (tbBody (.tbinit f) false tbInit) s)

def tbReady (i : Instr) : ReadyFn := fun s b g present => memReady s b g present && releaseReady i s b g present

def execTbarr (f : Fields) (s : State) : Outcome State Fault Refusal :=
  .next (runWordThen (.tbarr f) (tbReady (.tbarr f)) (tbBar (.tbarr f) true fun n _ => decide (n.toNat ≥ 2 ^ 31))
    (tbBody (.tbarr f) true tbArrive) (memFin (.tbarr f) (issuerBatch s)) s)

/-- The waits of a TBWAIT that have not ended: block, offset and parity; a lane that meets poison waits for nothing. -/
def tbTodo (i : Instr) (s : State) (b : Batch) : List (Nat × Nat × Nat) :=
  b.members.flatMap fun m =>
    match s.group? m.gid with
    | none => []
    | some g =>
      let c := srcCtx s b g
      (lanesOf (g.actors (m.present false) (fieldsOfInstr i))).filterMap fun l =>
        let v := srcA s c g l i
        let par := field (srcB s c g l i) 0 1
        let bid := (tbTarget s g v).getD 0
        if !tbPoisoned s bid (field v 0 19) && (tbRead s bid (field v 0 19)).phase == par then some (bid, field v 0 19, par) else none

/-- The batch's TBWAIT wait, if it stands in one. -/
def Batch.tbWait (b : Batch) : Option (List (Nat × Nat × Nat)) :=
  match b.wait with
  | some (.tbwait todo) => some todo
  | _ => none

/-- A waiting batch goes on once every wait has ended. -/
def tbwaitReady : ReadyFn := fun s b g present =>
  match b.tbWait with
  | some todo => todo.isEmpty
  | none => memReady s b g present

/-- The end of the waits: an acquire at cluster scope. Before it, nothing. -/
def tbwaitBody (i : Instr) (s : State) (b : Batch) (g : Group) (present : Mask) : State × Option TrapInfo :=
  match b.tbWait with
  | none => (s, none)
  | some _ =>
    let ops := (lanesOf (g.actors present (fieldsOfInstr i))).map (tbOp i s b g)
    let bad := ops.filter fun o => tbPoisoned s o.tgt o.ea
    let s' := ops.foldl (fun s o => if tbPoisoned s o.tgt o.ea then s else acquireAt s g.core g.ctx g.gid o.lane .cluster) s
    watchEnd s (tbHold i s' b g bad) b g false [⟨1, true, false, touchAt 16⟩] ops

/-- The word is entered once, and left once its waits have ended. -/
def tbwaitFin (i : Instr) (b0 : Option Batch) (s : State) (id : Nat) : State :=
  match b0.bind Batch.tbWait with
  | some _ => memFin i b0 s id
  | none => s.modBatch id fun b => { b with wait := some (.tbwait (tbTodo i s b)), waitSince := s.clock }

def execTbwait (f : Fields) (s : State) : Outcome State Fault Refusal :=
  .next (runWordThen (.tbwait f) tbwaitReady (tbBar (.tbwait f) false fun _ _ => false) (tbwaitBody (.tbwait f))
    (tbwaitFin (.tbwait f) (issuerBatch s)) s)

end Sys2Proof.Machine
end

