-- ==== Sys2Proof/Machine/Transcend.lean ====
section
/-! DEFINITION. FEXP2, FLOG2, FSIN and FCOS (R248, R249) from bounds around the exact value in fixed point. Every bound is
computed with 280 fraction bits by at most a few hundred truncated operations and widened by `2^-220`, far more than their
error; the values a rule leaves open inside its accuracy are choices of Config. -/

namespace Sys2Proof.Machine

/-- Fraction bits of the fixed-point values below. -/
def fxP : Nat := 280

def fxOne : Int := ((2 ^ fxP : Nat) : Int)

/-- The fixed-point value of an exact one, rounded down. -/
def fxOf (a : Dy) : Int := (a.scale (fxP : Int)).floor

def fxMul (a b : Int) : Int := (a * b) / fxOne

/-- The exact value of a fixed-point number. -/
def fxDy (a : Int) : Dy := ⟨a, -(fxP : Int)⟩

/-- The margin that covers every truncation error: `2^-220`. -/
def fxMargin : Dy := Dy.pow2 (-220)

def around (a : Int) : Dy × Dy := ((fxDy a).sub fxMargin, (fxDy a).add fxMargin)

/-- `Σ_{k<n} term_k`, `term_{k+1} = term_k · y / (k + 1)`: the exponential series. -/
def expGo (y : Int) : Nat → Nat → Int → Int → Int
  | 0, _, _, acc => acc
  | n + 1, k, term, acc => expGo y n (k + 1) (fxMul term y / ((k : Int) + 1)) (acc + term)

/-- `e^y` for a small `y`. -/
def fxExp (y : Int) : Int := expGo y 80 0 fxOne 0

/-- `Σ z^(2k+1) / (2k + 1)`, with alternating signs when `alt`: atanh and atan. -/
def atanGo (z2 : Int) (alt : Bool) : Nat → Nat → Int → Int → Int
  | 0, _, _, acc => acc
  | n + 1, k, pw, acc =>
    let t := pw / (2 * (k : Int) + 1)
    atanGo z2 alt n (k + 1) (fxMul pw z2) (if alt && k % 2 == 1 then acc - t else acc + t)

def fxAtanh (z : Int) : Int := atanGo (fxMul z z) false 120 0 z 0
def fxAtan (z : Int) : Int := atanGo (fxMul z z) true 120 0 z 0

/-- ln 2 = 2 atanh(1/3). -/
def fxLn2 : Int := 2 * fxAtanh (fxOne / 3)

/-- π = 16 atan(1/5) − 4 atan(1/239). -/
def fxPi : Int := 16 * fxAtan (fxOne / 5) - 4 * fxAtan (fxOne / 239)

/-- The nearest integer of an exact value. -/
def Dy.nearest (a : Dy) : Int := (a.add ⟨1, -1⟩).floor

/-- Bounds of `2^x`, for `|x|` at most 4000: the scale and the mantissa bounds. -/
def exp2Bounds (x : Dy) : Dy × Dy :=
  let n := x.nearest
  let b := around (fxExp (fxMul (fxOf (x.sub (Dy.ofInt n))) fxLn2))
  (b.1.scale n, b.2.scale n)

/-- FEXP2 (R248, R249). -/
def fexp2FV (f : Fmt) (sat fo up : Bool) (a : FV) : FV × Flags :=
  match a with
  | .nan s => (.nan false, if s then fNV else fNone)
  | .inf n => if n then (.fin false 0 0, fNone) else (.inf false, fNone)
  | .fin _ m _ =>
    if m = 0 then (.fin false 1 0, fNone) else
    let x := (a.dy.max (Dy.ofInt (-4000))).min (Dy.ofInt 4000)
    if (x.fract).m = 0 then f.roundDy ⟨.rne, 0, sat, fo⟩ false (Dy.pow2 x.floor)
    else
      let b := exp2Bounds x
      faithful f sat fo up b.1 b.2

/-- Bounds of `log2 x` for a positive `x` that is not a power of two. -/
def log2Bounds (x : Dy) : Dy × Dy :=
  let e := x.exponent
  let m := x.scale (-e)
  let big := Dy.lt ⟨3, -1⟩ m
  let k := if big then e + 1 else e
  let m := if big then m.scale (-1) else m
  let mf := fxOf m
  let z := ((mf - fxOne) * fxOne) / (mf + fxOne)
  let l := (2 * fxAtanh z * fxOne) / fxLn2
  around (k * fxOne + l)

/-- FLOG2 (R248, R249): exact for every power of two. -/
def flog2FV (f : Fmt) (fo up : Bool) (a : FV) : FV × Flags :=
  match a with
  | .nan s => (.nan false, if s then fNV else fNone)
  | .inf n => if n then (.nan false, fNV) else (.inf false, fNone)
  | .fin n m e =>
    if m = 0 then (.inf true, fDZ)
    else if n then (.nan false, fNV)
    else if m = 2 ^ Nat.log2 m then f.roundDy ⟨.rne, 0, false, fo⟩ false (Dy.ofInt (e + (Nat.log2 m : Int)))
    else
      let b := log2Bounds a.dy
      faithful f false fo up b.1 b.2

/-- The sine or cosine series: `Σ (−1)^k y^(2k+s) / (2k+s)!`, the running term already holding its power and factorial. -/
def trigGo (y2 : Int) : Nat → Nat → Int → Int → Int
  | 0, _, _, acc => acc
  | n + 1, k, term, acc => trigGo y2 n (k + 2) (-(fxMul term y2 / (((k : Int) + 1) * ((k : Int) + 2)))) (acc + term)

def fxSin (y : Int) : Int := trigGo (fxMul y y) 60 1 y 0
def fxCos (y : Int) : Int := trigGo (fxMul y y) 60 0 fxOne 0

/-- Bounds of sin (`cosine = false`) or cos of an exact argument of magnitude at most `2^20`, in radians. The bounds `|sin x| ≤ |x|`
and `|·| ≤ 1` are applied. -/
def trigBounds (cosine : Bool) (x : Dy) : Dy × Dy :=
  let xf := fxOf x
  let k := (2 * xf + fxPi / 2) / fxPi
  let r := xf - (k * fxPi) / 2
  let quad := ((if cosine then k + 1 else k) % 4).toNat
  let v :=
    match quad with
    | 0 => fxSin r
    | 1 => fxCos r
    | 2 => -(fxSin r)
    | _ => -(fxCos r)
  let b := around v
  let one := Dy.ofInt 1
  let lim := if cosine then one else one.min x.abs
  ((b.1.max lim.neg), (b.2.min lim))

/-- FSIN or FCOS on an argument of magnitude at most `2^20`: some value within 2 units in the last place or `2^-24`, whichever is
larger (R248); `pick` is the free choice. UF where the exact value, unrounded, is tiny (DESIGN CHOICE, log entry 232). -/
def trigFV (f : Fmt) (cosine fo : Bool) (pick : Nat) (a : FV) : FV × Flags :=
  match a with
  | .nan s => (.nan false, if s then fNV else fNone)
  | .inf _ => (.nan false, fNV)
  | .fin n m _ =>
    if m = 0 then (if cosine then .fin false 1 0 else .fin n 0 0, fNone)
    else if Dy.lt (Dy.pow2 20) a.dy.abs then
      -- some value in [−1, 1]
      let one := f.encode (.fin false 1 0)
      let mag := (pick / 2) % (one + 1)
      let out := f.passOut fo (f.decode (mag + (if pick % 2 = 1 then f.signPat else 0)))
      (out.1, out.2 ||| fNX)
    else
      let b := trigBounds cosine a.dy
      let ex := b.1.exponent
      let q := max ex f.emin - (f.t : Int)
      let base := (b.1.floorTo q).scale (-q) |>.floor
      let t : Nat := max 2 (if q < -24 then 2 ^ (-24 - q).toNat else 0)
      let j : Int := ((pick % (2 * t) : Nat) : Int) - (t : Int) + 1
      let y : Dy := ⟨base + j, q⟩
      let r := (f.roundDy ctxRZ (decide (b.2.m < 0)) y).1
      let out := f.passOut fo r
      let tiny := Dy.lt b.2.abs (Dy.pow2 f.emin) && Dy.lt b.1.abs (Dy.pow2 f.emin)
      (out.1, out.2 ||| fNX ||| if tiny then fUF else fNone)

end Sys2Proof.Machine
end

