-- ==== Sys2Proof/Machine/Affine.lean ====
section
/-! DEFINITION. The values of the field evaluator: interval operations that have no instruction of their own (R306, R307), affine
triples and their rounding rule (R205, R308 to R310). -/

namespace Sys2Proof.Machine

/-! ### Further interval operations (R306, R307) -/

/-- A finite FP32 value above zero. -/
def positive32 (p : Nat) : Option Dy :=
  match fp32.decode p with
  | .fin n m e => if n || m == 0 then none else some ⟨(m : Int), e⟩
  | _ => none

/-- The difference, where it is defined. -/
def XR.sub? (a b : XR) : Option XR :=
  match a, b with
  | .pinf, .pinf => none
  | .ninf, .ninf => none
  | _, _ => some (a.add b.neg)

/-- The sum of a list, where no infinities of both signs meet. -/
def xrSum (xs : List XR) : Option XR :=
  if xs.contains .pinf && xs.contains .ninf then none else some (xs.foldl XR.add XR.zero)

/-- A square root that stays correctly rounded when an FP32 value is taken from it. -/
def XR.sqrtWide : XR → XR
  | .fin d => .fin (Dy.sqrtSticky d 300)
  | x => x

/-- The range of a square over an interval. -/
def sqRange (l h : XR) : XR × XR :=
  (if l.sign ≥ 0 then l.mul l else if h.sign ≤ 0 then h.mul h else XR.zero, (l.mul l).max (h.mul h))

/-- The range of an absolute value. -/
def absRange (l h : XR) : XR × XR :=
  (if l.sign ≥ 0 then l else if h.sign ≤ 0 then h.neg else XR.zero, l.abs.max h.abs)

/-- The bounds of every interval of a list; NaI before empty (R256). -/
def boundsOf : List Iv → Except Iv (List (XR × XR))
  | [] => .ok []
  | v :: vs =>
    match v, boundsOf vs with
    | .nai, _ => .error .nai
    | _, .error .nai => .error .nai
    | .empty, _ => .error .empty
    | _, .error e => .error e
    | .mk l h, .ok bs => .ok ((l, h) :: bs)

/-- LEN2 and LEN3: the root of the sum of the squares. -/
def ivLen (vs : List Iv) : Iv :=
  match boundsOf vs with
  | .error v => v
  | .ok bs =>
    let sq := bs.map fun b => sqRange b.1 b.2
    .mk ((sq.map Prod.fst).foldl XR.add XR.zero).sqrtWide ((sq.map Prod.snd).foldl XR.add XR.zero).sqrtWide

/-- min(a, b) − h²·k/4 with h = max(k − |a − b|, 0)/k, as one fraction (R306). -/
def sminAt (k : Dy) (a b : XR) : XR :=
  match a, b with
  | .fin x, .fin y =>
    let t := (k.sub (x.sub y).abs).max Dy.zero
    if t.isZero then .fin (x.min y)
    else
      let k4 := k.scale 2
      .fin (Dy.divSticky (((x.min y).mul k4).sub (t.mul t)) k4 stickyPrec)
  | _, _ => a.min b

/-- SMIN with a finite k > 0. It rises with either operand. Equal infinities have no difference, which adds NaI (R307). -/
def ivSmin (k : Dy) (a b : Iv) : Iv :=
  match boundsOf [a, b] with
  | .ok [(al, ah), (bl, bh)] =>
    if (ah == .pinf && bh == .pinf) || (al == .ninf && bl == .ninf) then .nai else .mk (sminAt k al bl) (sminAt k ah bh)
  | .error v => v
  | _ => .nai

/-- How many turns `2π` fit below a fixed-point value counted from `q/2 · π`. -/
def turns (x : Int) (q : Int) (up : Bool) : Int :=
  let d := 2 * x - q * fxPi
  let w := 4 * fxPi
  if up then -((-d) / w) else d / w

/-- SIN and COS over an interval (R306, R307). -/
def ivTrig (cosine : Bool) : Iv → Iv := ivUn fun l h =>
  match l, h with
  | .fin a, .fin b =>
    if Dy.lt (Dy.pow2 20) a.abs || Dy.lt (Dy.pow2 20) b.abs then .mk (XR.ofInt (-1)) (XR.ofInt 1)
    else
      let has (q : Int) : Bool := decide (turns (fxOf a) q true ≤ turns (fxOf b) q false)
      let at_ (x : Dy) : Dy × Dy := if x.isZero then (let v := Dy.ofInt (if cosine then 1 else 0); (v, v)) else trigBounds cosine x
      let top : Int := if cosine then 0 else 1
      let lo := if has (top + 2) then Dy.ofInt (-1) else (at_ a).1.min (at_ b).1
      let hi := if has top then Dy.ofInt 1 else (at_ a).2.max (at_ b).2
      .mk (.fin lo) (.fin hi)
  | _, _ => .mk (XR.ofInt (-1)) (XR.ofInt 1)

/-- CLAMP between two values. -/
def ivClamp (p q : XR) : Iv → Iv := ivUn fun l h => .mk ((l.max p).min q) ((h.max p).min q)

/-- |max(q, 0)| + min(max(qx, qy, qz), 0): one of the two terms is zero. -/
def boxAt (q : List XR) : XR :=
  let top := q.foldl XR.max .ninf
  if top.sign > 0 then ((q.map fun x => let y := x.max XR.zero; y.mul y).foldl XR.add XR.zero).sqrt else top

/-- BOX3: it rises with each |coordinate|. -/
def ivBox (xyz : List Iv) (e : List XR) : Iv :=
  match boundsOf xyz with
  | .error v => v
  | .ok bs =>
    let rs := bs.map fun b => absRange b.1 b.2
    let lo := (rs.zip e).mapM fun p => p.1.1.sub? p.2
    let hi := (rs.zip e).mapM fun p => p.1.2.sub? p.2
    match lo, hi with
    | some ql, some qh => .mk (boxAt ql) (boxAt qh)
    | _, _ => .nai

/-- SPH: the distance from a point, less a radius. -/
def ivSph (xyz : List Iv) (c : List XR) (r : XR) : Iv :=
  match boundsOf xyz with
  | .error v => v
  | .ok bs =>
    let ds := (bs.zip c).mapM fun p =>
      match p.1.1.sub? p.2, p.1.2.sub? p.2 with
      | some l, some h => some (Iv.mk l h)
      | _, _ => none
    match ds with
    | none => .nai
    | some ds =>
      match ivLen ds with
      | .mk l h => (match l.sub? r, h.sub? r with | some l, some h => .mk l h | _, _ => .nai)
      | v => v

/-- A row of a transform over a coordinate box: `Σ m_j·coordinate_j + m_3`, with 0 × ∞ taken as 0 (R311). -/
def ivRow (m : List XR) (m3 : XR) (xyz : List Iv) : Iv :=
  match boundsOf xyz with
  | .error v => v
  | .ok bs =>
    let ts := (m3, m3) :: (m.zip bs).map fun p => ((p.1.mul p.2.1).min (p.1.mul p.2.2), (p.1.mul p.2.1).max (p.1.mul p.2.2))
    let n := List.range ts.length
    let clash := n.any fun i => n.any fun j => i != j && (nth ts i).2 == .pinf && (nth ts j).1 == .ninf
    if clash then .nai else .mk ((ts.map Prod.fst).foldl XR.add XR.zero) ((ts.map Prod.snd).foldl XR.add XR.zero)

/-- A value scaled: its bounds ordered, 0 × ∞ taken as 0 (R311). -/
def ivScale (k : XR) : Iv → Iv := ivUn fun l h => .mk ((k.mul l).min (k.mul h)) ((k.mul l).max (k.mul h))

/-- The common part of two intervals; empty where there is none. -/
def ivMeet (a b : Iv) : Iv :=
  match a, b with
  | .nai, _ => .nai
  | _, .nai => .nai
  | .mk al ah, .mk bl bh => let l := al.max bl; let h := ah.min bh; if h.lt l then .empty else .mk l h
  | _, _ => .empty

/-! ### Affine triples (R205, R308 to R310) -/

/-- A value in affine mode: empty, undefined, the triple (0, 0, +∞), or a finite triple. -/
inductive Af where
  | empty
  | undef
  | all
  | tri (c d e : Dy)
deriving DecidableEq, Repr, Inhabited

/-- `round_rm(x, f32, RNE)` as an extended real. -/
def rne32 (x : Dy) : XR := (xrOf (fp32.roundDy ctxRNE false x).1).getD XR.zero

/-- The affine rounding rule (R310). -/
def afRound (c d r : Dy) : Af :=
  match rne32 c, rne32 d with
  | .fin c', .fin d' =>
    match (XR.fin ((r.add (c'.sub c).abs).add (d'.sub d).abs)).up with
    | .fin e => .tri c' d' e
    | _ => .all
  | _, _ => .all

/-- The rounding rule where a part may be infinite, or undefined. -/
def afRoundX (c d r : Option XR) : Af :=
  match c, d, r with
  | some (.fin c), some (.fin d), some (.fin r) => afRound c d r
  | some _, some _, some _ => .all
  | _, _, _ => .undef

/-- The interval of a triple (R205). -/
def Af.iv : Af → Iv
  | .empty => .empty
  | .undef => .nai
  | .all => .entire
  | .tri c d e => (Iv.mk (.fin ((c.sub d.abs).sub e)) (.fin ((c.add d.abs).add e))).out

/-- The triple of an interval result (R308, Fallback). -/
def afOf (v : Iv) : Af :=
  match v.out with
  | .empty => .empty
  | .nai => .undef
  | .mk (.fin lo) (.fin hi) =>
    (match rne32 ((lo.add hi).scale (-1)) with
     | .fin m => afRound m Dy.zero ((hi.sub m).max (m.sub lo))
     | _ => .all)
  | _ => .all

/-- Centre, slope and remainder as extended reals; (0, 0, +∞) for the entire line. -/
def Af.parts : Af → Option (XR × XR × XR)
  | .tri c d e => some (.fin c, .fin d, .fin e)
  | .all => some (XR.zero, XR.zero, .pinf)
  | _ => none

/-- Undefined operands come first, then empty ones (R308). -/
def afBad (as : List Af) : Option Af :=
  if as.contains .undef then some .undef else if as.contains .empty then some .empty else none

def afUn (f : Dy → Dy → Dy → Af) : Af → Af
  | .tri c d e => f c d e
  | a => a

def afBin (f : Dy → Dy → Dy → Dy → Dy → Dy → Af) (a b : Af) : Af :=
  match afBad [a, b], a, b with
  | some v, _, _ => v
  | none, .tri c1 d1 e1, .tri c2 d2 e2 => f c1 d1 e1 c2 d2 e2
  | none, _, _ => .all

def afAdd : Af → Af → Af := afBin fun c1 d1 e1 c2 d2 e2 => afRound (c1.add c2) (d1.add d2) (e1.add e2)
def afNeg : Af → Af := afUn fun c d e => .tri c.neg d.neg e
def afSub (a b : Af) : Af := afBin (fun c1 d1 e1 c2 d2 e2 => afRound (c1.sub c2) (d1.sub d2) (e1.add e2)) a b

/-- The zero triple. -/
def Af.isZero : Af → Bool
  | .tri c d e => c.isZero && d.isZero && e.isZero
  | _ => false

/-- MUL; the zero triple times the entire line is zero, as IVMUL takes 0 × ∞. -/
def afMul (a b : Af) : Af :=
  if (a == .all && b.isZero) || (b == .all && a.isZero) then .tri Dy.zero Dy.zero Dy.zero
  else afBin (fun c1 d1 e1 c2 d2 e2 =>
    afRound (c1.mul c2) ((c1.mul d2).add (c2.mul d1))
      (((c1.abs.mul e2).add (c2.abs.mul e1)).add ((d1.abs.add e1).mul (d2.abs.add e2)))) a b

def afSqr : Af → Af := afUn fun c d e =>
  let hd := (d.mul d).scale (-1)
  afRound ((c.mul c).add hd) ((c.mul d).scale 1) ((hd.add (((c.abs.add d.abs).mul e).scale 1)).add (e.mul e))

/-- ABS: sign-decided, else the fallback. -/
def afAbs (a : Af) : Af :=
  match a.iv with
  | .mk l h => if l.sign ≥ 0 then a else if h.sign ≤ 0 then afNeg a else afOf (ivAbs a.iv)
  | _ => a

/-- a lies below b by at least `margin`, or strictly where there is none (R308, Dominance). -/
def below (margin : Option Dy) (a b : Iv) : Bool :=
  match a, b, margin with
  | .mk _ ah, .mk bl _, none => ah.lt bl
  | .mk _ ah, .mk bl _, some k => ah.le (bl.add (.fin k.neg))
  | _, _, _ => false

/-- MIN, MAX or SMIN by dominance; none where neither operand dominates. -/
def afDominant (margin : Option Dy) (wantMax : Bool) (a b : Af) : Option Af :=
  if below margin a.iv b.iv then some (if wantMax then b else a)
  else if below margin b.iv a.iv then some (if wantMax then a else b)
  else none

def afMinMax (margin : Option Dy) (wantMax : Bool) (f : Iv → Iv → Iv) (a b : Af) : Af :=
  (afDominant margin wantMax a b).getD (afOf (f a.iv b.iv))

/-- Significant bits of the chord's roots and quotients: far more than any FP32 rounding can need. -/
def chordPrec : Nat := 1000

/-- SQRT by the chord (R308). -/
def afSqrt (a : Af) : Af :=
  match a, a.iv with
  | .tri c d e, .mk l h =>
    if h.sign < 0 then .empty
    else
      match h with
      | .fin h =>
        let l := if l.sign < 0 then Dy.zero else l.dy
        let rl := Dy.sqrtSticky l chordPrec
        let rh := Dy.sqrtSticky h chordPrec
        if Dy.eqv l h then afRound rl Dy.zero Dy.zero
        else
          let one := Dy.ofInt 1
          let al := (rne32 (Dy.divSticky one (rh.add rl) chordPrec)).dy
          let el := rl.sub (al.mul l)
          let eh := rh.sub (al.mul h)
          let dlo := el.min eh
          let q := (al.mul al).scale 2
          let inside := Dy.le (q.mul l) one && Dy.le one (q.mul h)
          let dhi := if inside then Dy.divSticky one (al.scale 2) chordPrec else el.max eh
          afRound ((al.mul c).add ((dlo.add dhi).scale (-1))) (al.mul d) ((al.mul e).add ((dhi.sub dlo).scale (-1)))
      | _ => afOf (ivSqrt a.iv)
  | .all, v => afOf (ivSqrt v)
  | a, _ => a

/-- A row of a transform over affine coordinates (R311). -/
def afRow (m : List XR) (m3 : XR) (xyz : List Af) : Af :=
  match afBad xyz with
  | some v => v
  | none =>
    let ps := xyz.filterMap Af.parts
    afRoundX (xrSum (m3 :: (m.zip ps).map fun p => p.1.mul p.2.1)) (xrSum ((m.zip ps).map fun p => p.1.mul p.2.2.1))
      (xrSum ((m.zip ps).map fun p => p.1.abs.mul p.2.2.2))

/-- A value scaled by an instance's s (R311). -/
def afScale (k : XR) (a : Af) : Af :=
  match afBad [a], a.parts with
  | some v, _ => v
  | none, some (c, d, e) => afRoundX (some (k.mul c)) (some (k.mul d)) (some (k.abs.mul e))
  | none, none => .undef

end Sys2Proof.Machine
end

