-- ==== Sys2Proof/Machine/FieldCode.lean ====
section
/-! DEFINITION. Scene descriptors and the field bytecode: evaluation in interval and affine mode (R301, R302, R305 to R316) and the
pruning of a scene over a box (R317). -/

namespace Sys2Proof.Machine

/-! ### The scene descriptor (R301) -/

structure Scene where
  code : Nat
  len : Nat
  npool : Nat
  affine : Bool
  scratch : Bool
  dsc : Nat
  pool : Nat
  xft : Nat
  brt : Nat
  nft : Nat
  l0 : Nat
  lmax : Nat
  opq : Nat
deriving DecidableEq, Repr, Inhabited

def sceneOf (bs : List Byte) : Scene :=
  { code := byteField bs 0 8, len := byteField bs 8 2, npool := byteField bs 10 1, affine := bitN (byteField bs 11 1) 0,
    scratch := bitN (byteField bs 11 1) 1, dsc := byteField bs 12 4, pool := byteField bs 16 8, xft := byteField bs 24 8,
    brt := byteField bs 32 8, nft := byteField bs 40 8, l0 := byteField bs 48 4, lmax := byteField bs 52 4, opq := byteField bs 56 8 }

/-- The FP32 value of a pattern. -/
def xr32 (p : Nat) : Option XR := xrOf (fp32.decode p)

/-- A descriptor that breaks R301, given the issuing block's scratchpad allocation. -/
def sceneBad (scr : Nat) (bs : List Byte) : Bool :=
  let x := sceneOf bs
  x.code % 2 != 0 || (x.scratch && decide (x.code + 2 * x.len > scr)) || x.len == 0 || decide (x.len > 4096)
    || decide (byteField bs 11 1 ≥ 4) || bitN x.opq 6 || decide (x.opq / 2 ^ 57 ≠ 0)
    || (match positive32 x.l0, xr32 x.lmax with
        | some a, some b => !((XR.fin a).le b)
        | _, _ => true)

/-! ### Values of the stack -/

/-- A value of the evaluator's stack, in the mode it was made in. -/
inductive FVal where
  | iv (v : Iv)
  | af (a : Af)
deriving DecidableEq, Repr, Inhabited

def FVal.asIv : FVal → Iv | .iv v => v | .af a => a.iv
def FVal.asAf : FVal → Af | .iv v => afOf v | .af a => a

/-- A value as the mode holds it (R309). -/
def FVal.toMode (affine : Bool) (v : FVal) : FVal := if affine then .af v.asAf else .iv v.asIv

/-- An interval result as the mode holds it: rounded outward, or by the fallback (R307, R308). -/
def ofIv (affine : Bool) (v : Iv) : FVal := if affine then .af (afOf v) else .iv v.out

/-- The evaluator: coordinates, value stack, transform stack of coordinates and scales, mode, and the answers of OPAQUE nodes still
unused. -/
structure Ev where
  xyz : List FVal
  vs : List FVal
  ts : List (List FVal × Option XR)
  affine : Bool
  answers : List Word
deriving DecidableEq, Repr, Inhabited

/-- What one code leaves. -/
inductive EvRes where
  | next (e : Ev)
  /-- END: F -/
  | fin (v : Iv)
  /-- invalid (R316) -/
  | bad
  /-- OPAQUE node `n` has no answer yet; the coordinates in interval form -/
  | ask (n : Nat) (xyz : List Iv)
  | err (p : PortErr)
deriving DecidableEq, Repr, Inhabited

def Ev.push (e : Ev) (v : FVal) : EvRes := if e.vs.length ≥ 32 then .bad else .next { e with vs := v :: e.vs }

def Ev.box (e : Ev) : List Iv := e.xyz.map FVal.asIv

/-- An operation on the top value. -/
def Ev.un (e : Ev) (fi : Iv → Iv) (fa : Af → Af) : EvRes :=
  match e.vs with
  | a :: rest => .next { e with vs := (if e.affine then .af (fa a.asAf) else .iv (fi a.asIv).out) :: rest }
  | _ => .bad

/-- An operation on the two top values, the upper one second. -/
def Ev.bin (e : Ev) (fi : Iv → Iv → Iv) (fa : Af → Af → Af) : EvRes :=
  match e.vs with
  | b :: a :: rest => .next { e with vs := (if e.affine then .af (fa a.asAf b.asAf) else .iv (fi a.asIv b.asIv).out) :: rest }
  | _ => .bad

def fall1 (f : Iv → Iv) (a : Af) : Af := afOf (f a.iv)
def fall2 (f : Iv → Iv → Iv) (a b : Af) : Af := afOf (f a.iv b.iv)

/-- Pool entries `i` to `i + n − 1`; none beyond NPOOL. -/
def poolAt (rd : Rd) (x : Scene) (i n : Nat) (s : State) : State × Option (Except PortErr (List Nat)) :=
  if i + n > x.npool + 1 then (s, none)
  else
    match rd s (x.pool + 4 * i) (4 * n) with
    | (s, .error e) => (s, some (.error e))
    | (s, .ok bs) => (s, some (.ok ((List.range n).map fun j => byteField bs (4 * j) 4)))

/-- Run with pool entries. -/
def withPool (rd : Rd) (x : Scene) (i n : Nat) (s : State) (k : List Nat → EvRes) : State × EvRes :=
  match poolAt rd x i n s with
  | (s, none) => (s, .bad)
  | (s, some (.error e)) => (s, .err e)
  | (s, some (.ok ps)) => (s, k ps)

/-! ### Bricks and networks (R313, R314) -/

/-- One axis of the box in voxel space. -/
def voxAxis (org ivox : Nat) (v : Iv) : Option (XR × XR) :=
  match v, xr32 org, xr32 ivox with
  | .mk (.fin l) (.fin h), some (.fin o), some (.fin k) => some ((XR.fin ((l.sub o).mul k)).dn, (XR.fin ((h.sub o).mul k)).up)
  | _, _, _ => none

/-- Bricks of the index ranges inside the extent, x fastest. -/
def bricksOf (rs : List (Int × Int)) (ext : List Nat) : List (Nat × Nat × Nat) :=
  let axis (n : Nat) : List Nat :=
    let r : Int × Int := nth rs n
    let lo : Int := if r.1 < 0 then 0 else r.1
    let ex : Nat := nth ext n
    let hi : Int := if r.2 < (ex : Int) then r.2 else (ex : Int) - 1
    if hi < lo then [] else (List.range ((hi / 8 - lo / 8).toNat + 1)).map ((lo / 8).toNat + ·)
  (axis 2).flatMap fun k => (axis 1).flatMap fun j => (axis 0).map fun i => (i, j, k)

/-- The stored range of one brick, or BG where it is absent. -/
def brickRange (rd : Rd) (m : BrickMap) (b : Nat × Nat × Nat) (s : State) : State × Except PortErr Iv :=
  let range (lo hi : Nat) : Iv := ivRead (pack 32 [lo, hi])
  match brickAt rd m (8 * b.1) (8 * b.2.1) (8 * b.2.2) s with
  | (s, .error e) => (s, .error e)
  | (s, .ok none) => (s, .ok (range m.bg m.bg))
  | (s, .ok (some a)) =>
    match rd s a 8 with
    | (s, .error e) => (s, .error e)
    | (s, .ok bs) => (s, .ok (range (byteField bs 0 4) (byteField bs 4 4)))

/-- BRICK over a coordinate box (R313). -/
def brickIv (rd : Rd) (m : BrickMap) (box : List Iv) (s : State) : State × Except PortErr Iv :=
  let all := ivRead (pack 32 [m.glo, m.ghi])
  match boundsOf box with
  | .error v => (s, .ok v)
  | .ok _ =>
    if m.org.any fun p => (fp32.decode p).isNaN then (s, .ok .nai)
    else
      match ((List.range 3).mapM fun j => voxAxis (nth m.org j) m.ivox (nth box j)) with
      | none => (s, .ok all)
      | some axes =>
        if axes.any fun a => a.1.isInf || a.2.isInf then (s, .ok all)
        else
          let rs : List (Int × Int) := axes.map fun a => (a.1.dy.floor, a.2.dy.floor + 1)
          if (rs.foldl (fun n r => n * (r.2 / 8 - r.1 / 8 + 1).toNat) 1) > 64 then (s, .ok all)
          else
            let ex (j : Nat) : Nat := nth m.ext j
            let outside := (List.range 3).any fun j => decide ((nth rs j : Int × Int).1 < 0) || decide ((nth rs j : Int × Int).2 ≥ (ex j : Int))
            match readEach (brickRange rd m) (bricksOf rs m.ext) s with
            | (s, .error e) => (s, .error e)
            | (s, .ok vs) => (s, .ok ((if outside then ivRead (pack 32 [m.bg, m.bg]) :: vs else vs).foldl ivHull .empty))

/-- One row of a layer: the bias, then IVADD of IVMUL in turn. -/
def netRow (ws : List Word) (xs : List Iv) : Iv :=
  let n := xs.length
  (List.range n).foldl (fun y j => (ivAdd y (ivMul (ivRead (nth ws j)) (nth xs j)).out).out) (ivRead (nth ws n))

/-- Every layer in turn: `ws` holds each layer's rows. -/
def netGo : List (List (List Word)) → List Iv → List Iv
  | [], xs => xs
  | [l], xs => l.map fun r => netRow r xs
  | l :: ls, xs => netGo ls (l.map fun r => (ivMax (netRow r xs) (.point XR.zero)).out)

/-- The weights of a record, by layer, row and column. -/
def netWeights (ws : List Nat) (bs : List Byte) : List (List (List Word)) :=
  let go := ws.foldl (fun (r : Nat × Nat × List (List (List Word))) w =>
    let n := r.2.1 + 1
    let row (i : Nat) : List Word := (List.range n).map fun j => w64 (byteField bs (8 * (r.1 + i * n + j)) 8)
    (r.1 + w * n, w, r.2.2 ++ [(List.range w).map row])) (0, 3, [])
  go.2.2

/-- The number of weights. -/
def netCount (ws : List Nat) : Nat := (ws.foldl (fun (r : Nat × Nat) w => (r.1 + w * (r.2 + 1), w)) (0, 3)).1

/-- NFIELD over a coordinate box (R314); none where the record is bad. With a LIP that is NaN, or opposite infinities at an end, the
rule states no result, and it is free (log entry 190). -/
def netIv (rd : Rd) (rec : Nat) (box : List Iv) (s : State) : State × Option (Except PortErr Iv) :=
  match rd s rec 64 with
  | (s, .error e) => (s, some (.error e))
  | (s, .ok hd) =>
    let nl := byteField hd 4 1
    let ws := (List.range nl).map fun l => byteField hd (5 + l) 1
    if nl = 0 ∨ nl > 4 ∨ (ws.any fun w => w == 0 || decide (w > 32)) ∨ ws.getLast? ≠ some 1 then (s, none)
    else
      match rd s (rec + 64) (8 * netCount ws) with
      | (s, .error e) => (s, some (.error e))
      | (s, .ok bs) =>
        let w := netWeights ws bs
        let p := nth (netGo w box) 0
        let mids := box.map fun v => ivMake (ivMid v) (ivMid v)
        let q := nth (netGo w mids) 0
        let open_ : Iv := ivRead (s.freeVal (2 ^ 40 + rec))
        let ans : Iv :=
          match p, boundsOf box, boundsOf mids, q, xr32 (byteField hd 0 4) with
          | .nai, _, _, _, _ => .nai
          | .empty, _, _, _, _ => .empty
          | p, .ok bs, .ok ms, .mk ql qh, some lip =>
            let far := (bs.zip ms).map fun b => ((b.1.2.sub? b.2.1).getD XR.zero).max ((b.2.1.sub? b.1.1).getD XR.zero)
            let rho := ((far.map fun d => d.mul d).foldl XR.add XR.zero).sqrtWide.up
            (match ql.sub? (lip.mul rho), qh.sub? (lip.mul rho).neg with
             | some l, some h => (match ivMeet p (.mk l.dn h.up) with | .empty => p | v => v)
             | _, _ => open_)
          | p, _, _, .empty, some _ => p
          | _, _, _, _, none => open_
          | _, _, _, _, _ => .nai
        (s, some (.ok ans))

/-! ### One code (R306 to R311, R315, R316) -/

/-- A pool entry pushed. -/
def pushConst (affine : Bool) (p : Nat) : FVal :=
  match xr32 p with
  | none => if affine then .af .undef else .iv .nai
  | some (.fin d) => if affine then .af (afRound d Dy.zero Dy.zero) else .iv (.point (.fin d))
  | some x => if affine then .af .all else .iv (.point x)

/-- Every value of a list, or none. -/
def allXr (ps : List Nat) : Option (List XR) := ps.mapM xr32

/-- XFORM: the coordinates are saved with s and replaced by their images (R311). -/
def evXform (e : Ev) (bs : List Byte) : Ev :=
  let row (i : Nat) : FVal :=
    match allXr ((List.range 4).map fun j => byteField bs (16 * i + 4 * j) 4) with
    | none => if e.affine then .af .undef else .iv .nai
    | some m =>
      let m3 := nth m 3
      if e.affine then .af (afRow (m.take 3) m3 (e.xyz.map FVal.asAf)) else .iv (ivRow (m.take 3) m3 e.box).out
  { e with xyz := (List.range 3).map row, ts := (e.xyz, xr32 (byteField bs 48 4)) :: e.ts }

/-- One code, but for END, in a program position. -/
def evOp (rd : Rd) (x : Scene) (op arg : Nat) (e : Ev) (s : State) : State × EvRes :=
  let iv2 (f : Iv → Iv → Iv) : State × EvRes := (s, e.bin f (fall2 f))
  let iv1 (f : Iv → Iv) : State × EvRes := (s, e.un f (fall1 f))
  let nai : FVal := if e.affine then .af .undef else .iv .nai
  match op with
  | 0x01 => withPool rd x arg 1 s fun ps => e.push (pushConst e.affine (nth ps 0))
  | 0x02 => (s, e.push (nth e.xyz 0))
  | 0x03 => (s, e.push (nth e.xyz 1))
  | 0x04 => (s, e.push (nth e.xyz 2))
  | 0x05 => (s, match e.vs with | a :: _ => e.push a | [] => .bad)
  | 0x06 => (s, match e.vs with | b :: a :: rest => .next { e with vs := a :: b :: rest } | _ => .bad)
  | 0x07 => (s, match e.vs with | _ :: rest => .next { e with vs := rest } | [] => .bad)
  | 0x08 => (s, e.bin ivAdd afAdd)
  | 0x09 => (s, e.bin ivSub afSub)
  | 0x0A => (s, e.bin ivMul afMul)
  | 0x0B => iv2 ivDiv
  | 0x0C => (s, e.un ivNeg afNeg)
  | 0x0D => (s, e.un ivAbs afAbs)
  | 0x0E => (s, e.bin ivMin (afMinMax none false ivMin))
  | 0x0F => (s, e.bin ivMax (afMinMax none true ivMax))
  | 0x10 => withPool rd x arg 1 s fun ps =>
      (match positive32 (nth ps 0) with
       | some k => e.bin (ivSmin k) (afMinMax (some k) false (ivSmin k))
       | none => e.bin ivMin (afMinMax none false ivMin))
  | 0x11 => (s, e.un ivSqr afSqr)
  | 0x12 => (s, e.un ivSqrt afSqrt)
  | 0x13 => iv2 fun a b => ivLen [a, b]
  | 0x14 =>
    (match e.vs with
     | c :: b :: a :: rest =>
       (s, .next { e with vs := ofIv e.affine (ivLen [a.asIv, b.asIv, c.asIv]) :: rest })
     | _ => (s, .bad))
  | 0x15 => iv1 (ivTrig false)
  | 0x16 => iv1 (ivTrig true)
  | 0x17 => withPool rd x arg 2 s fun ps =>
      (match allXr ps with
       | some [p, q] => e.un (ivClamp p q) (fall1 (ivClamp p q))
       | _ => e.un (fun _ => .nai) (fun _ => .undef))
  | 0x18 => withPool rd x arg 3 s fun ps =>
      e.push (match allXr ps with | some q => ofIv e.affine (ivBox e.box q) | none => nai)
  | 0x19 => withPool rd x arg 4 s fun ps =>
      e.push (match allXr ps with | some q => ofIv e.affine (ivSph e.box (q.take 3) (nth q 3)) | none => nai)
  | 0x1A =>
    if e.ts.length ≥ 8 then (s, .bad)
    else
      (match rd s (x.xft + 64 * arg) 64 with
       | (s, .error p) => (s, .err p)
       | (s, .ok bs) => (s, .next (evXform e bs)))
  | 0x1B =>
    (match e.ts, e.vs with
     | (xyz, sc) :: ts, a :: rest =>
       let v := match sc with
         | none => nai
         | some k => if e.affine then .af (afScale k a.asAf) else .iv (ivScale k a.asIv).out
       (s, .next { e with xyz := xyz, ts := ts, vs := v :: rest })
     | _, _ => (s, .bad))
  | 0x1C =>
    if e.vs.length ≥ 32 then (s, .bad)
    else
      (match rd s (x.brt + 8 * arg) 8 with
       | (s, .error p) => (s, .err p)
       | (s, .ok pt) =>
         match rd s (ofBytes pt) 64 with
         | (s, .error p) => (s, .err p)
         | (s, .ok bs) =>
           if (brickMapOf bs).bad then (s, .bad)
           else
             match brickIv rd (brickMapOf bs) e.box s with
             | (s, .error p) => (s, .err p)
             | (s, .ok v) => (s, e.push (ofIv e.affine v)))
  | 0x1D =>
    if e.vs.length ≥ 32 then (s, .bad)
    else
      (match rd s (x.nft + 8 * arg) 8 with
       | (s, .error p) => (s, .err p)
       | (s, .ok pt) =>
         match netIv rd (ofBytes pt) e.box s with
         | (s, none) => (s, .bad)
         | (s, some (.error p)) => (s, .err p)
         | (s, some (.ok v)) => (s, e.push (ofIv e.affine v)))
  | 0x1E =>
    if !bitN x.opq 7 || decide (e.vs.length ≥ 32) then (s, .bad)
    else
      (match e.answers with
       | [] => (s, .ask arg e.box)
       | w :: rest =>
         match ivRead w with
         | .nai => (s, .fin .nai)
         | v => (s, ({ e with answers := rest } : Ev).push (ofIv e.affine v)))
  | 0x1F =>
    if arg > 1 then (s, .bad)
    else
      let m := arg == 1
      if m == e.affine then (s, .next e)
      else
        (s, .next { e with
          affine := m, vs := e.vs.map (FVal.toMode m), xyz := e.xyz.map (FVal.toMode m)
          ts := e.ts.map fun t => (t.1.map (FVal.toMode m), t.2) })
  | _ => (s, .bad)

/-- The operations whose argument means something (R306). -/
def takesArg (op : Nat) : Bool := op == 0x01 || decide (0x17 ≤ op ∧ op ≤ 0x1A) || decide (0x1C ≤ op ∧ op ≤ 0x1F) || op == 0x10

/-- One code, END among them. -/
def evCode (rd : Rd) (x : Scene) (c : Nat) (e : Ev) (s : State) : State × EvRes :=
  let op := c / 256
  let arg := c % 256
  if op ≥ 0x20 ∨ (arg ≠ 0 ∧ takesArg op = false) then (s, .bad)
  else if op = 0 then
    (match e.vs, e.ts with
     | [v], [] => (s, .fin v.asIv)
     | _, _ => (s, .bad))
  else evOp rd x op arg e s

/-- The bytecode from a position on; `fuel` codes remain. `fetch` reads a code. -/
def evGo (fetch : Nat → State → State × Except PortErr Nat) (rd : Rd) (x : Scene) : Nat → Nat → Ev → State → State × EvRes
  | 0, _, _, s => (s, .bad)
  | fuel + 1, pc, e, s =>
    match fetch pc s with
    | (s, .error p) => (s, .err p)
    | (s, .ok c) =>
      match evCode rd x c e s with
      | (s, .next e) => evGo fetch rd x fuel (pc + 1) e s
      | r => r

/-! ### Coordinates of a span (R305) -/

/-- A coordinate of the image of p(t) over [ta, tb]. -/
def spanIv (o d ta tb : XR) : Iv :=
  let a := o.add (d.mul ta)
  let b := o.add (d.mul tb)
  (Iv.mk (a.min b) (a.max b)).out

def spanAf (o d ta tb : XR) : Af :=
  match ta, tb with
  | .fin a, .fin b => afRound (o.dy.add ((d.dy.mul (a.add b)).scale (-1))) ((d.dy.mul (b.sub a)).scale (-1)) Dy.zero
  | _, _ => if d.sign = 0 then afRound o.dy Dy.zero Dy.zero else .all

/-- evaluate(ta, tb). -/
def evStart (x : Scene) (org dir : List XR) (ta tb : XR) (answers : List Word) : Ev :=
  let c (j : Nat) : FVal :=
    if x.affine then .af (spanAf (nth org j) (nth dir j) ta tb) else .iv (spanIv (nth org j) (nth dir j) ta tb)
  ⟨[c 0, c 1, c 2], [], [], x.affine, answers⟩

/-! ### Pruning (R317) -/

/-- What the pruner knows beside the evaluation: for each value the codes that made it and whether it is clean, for each open XFORM
its position and the number of values below, and the codes deleted. -/
structure PruneSt where
  spans : List (List Nat × Bool)
  xfs : List (Nat × Nat)
  cut : List Nat
deriving DecidableEq, Repr, Inhabited

def spanLo (s : List Nat) : Nat := (minBy id s).getD 0
def spanHi (s : List Nat) : Nat := s.foldl Nat.max 0

/-- Clean neighbours: each span starts just after the one before it. -/
def spansJoin : List (List Nat × Bool) → Bool
  | a :: b :: rest => a.2 && b.2 && spanHi a.1 + 1 == spanLo b.1 && spansJoin (b :: rest)
  | [a] => a.2
  | [] => false

/-- The code range of an operation's result from its operands, the lowest first. -/
def spanJoin (i : Nat) (ops : List (List Nat × Bool)) : List Nat × Bool :=
  if spansJoin ops then (ops.flatMap Prod.fst ++ [i], true) else ([i], false)

/-- A pruned MIN, MAX or SMIN: the dominant child takes the result's place, and with adjacent operands all of that place, so that what
follows the deleted codes stands just after it (R317; log entry 202). -/
def spanKeep (i : Nat) (a b : List Nat × Bool) (lower : Bool) : List Nat × Bool :=
  if spansJoin [a, b] then spanJoin i [a, b] else if lower then a else b

/-- A unary operation's result: the union of its operand's codes and its own. -/
def spanGrow (i : Nat) (a : List Nat × Bool) : List Nat × Bool := if a.2 then (a.1 ++ [i], true) else (a.1, false)

/-- The pruner's step for a code at `i`; `e` is the evaluator before it, `dom` which operand of a MIN, MAX or SMIN dominates: some true
for the lower. -/
def pruneStep (i op : Nat) (dom : Option Bool) (p : PruneSt) : PruneSt :=
  let push : PruneSt := { p with spans := ([i], true) :: p.spans }
  match op, p.spans with
  | 0x05, a :: rest => { p with spans := (a.1, false) :: (a.1, false) :: rest }
  | 0x06, b :: a :: rest => { p with spans := (a.1, false) :: (b.1, false) :: rest }
  | 0x07, _ :: rest => { p with spans := rest }
  | 0x1F, ss => { p with spans := ss.map fun x => (x.1, false) }
  | 0x1A, ss => { p with xfs := (i, ss.length) :: p.xfs }
  | 0x1B, a :: rest =>
    (match p.xfs with
     | (x, n) :: xfs =>
       let ok := a.2 && spanLo a.1 == x + 1 && rest.length == n
       { p with spans := (if ok then ((List.range (i + 1 - x)).map (x + ·), true) else (a.1, false)) :: rest, xfs := xfs }
     | [] => p)
  | 0x14, c :: b :: a :: rest => { p with spans := spanJoin i [a, b, c] :: rest }
  | _, ss =>
    if op = 0x08 ∨ op = 0x09 ∨ op = 0x0A ∨ op = 0x0B ∨ op = 0x13 ∨ op = 0x0E ∨ op = 0x0F ∨ op = 0x10 then
      match ss with
      | b :: a :: rest =>
        (match dom with
         | some lower =>
           if a.2 && b.2 then { p with spans := spanKeep i a b lower :: rest, cut := (if lower then b.1 else a.1) ++ i :: p.cut }
           else { p with spans := spanJoin i [a, b] :: rest }
         | none => { p with spans := spanJoin i [a, b] :: rest })
      | _ => p
    else if (0x0C ≤ op ∧ op ≤ 0x0D) ∨ (0x11 ≤ op ∧ op ≤ 0x12) ∨ (0x15 ≤ op ∧ op ≤ 0x17) then
      match ss with
      | a :: rest => { p with spans := spanGrow i a :: rest }
        | [] => p
    else push

/-- Which operand dominates at a code: the lower one under `some true` (R308). -/
def pruneDom (op : Nat) (margin : Option Dy) (e : Ev) : Option Bool :=
  match e.vs with
  | b :: a :: _ =>
    if op = 0x0E ∨ op = 0x10 then
      (if below margin a.asIv b.asIv then some true else if below margin b.asIv a.asIv then some false else none)
    else if op = 0x0F then
      (if below none a.asIv b.asIv then some false else if below none b.asIv a.asIv then some true else none)
    else none
  | _ => none

/-- The end of a pruning: the remaining codes, an invalid program, or an access that failed. -/
inductive PruneRes where
  | ok (codes : List Nat)
  | bad
  | err (p : PortErr)
deriving DecidableEq, Repr, Inhabited

/-- SMIN's margin, read from the pool. -/
def pruneMargin (rd : Rd) (x : Scene) (op arg : Nat) (s : State) : Option Dy :=
  if op = 0x10 then
    match (poolAt rd x arg 1 s).2 with
    | some (.ok ps) => positive32 (nth ps 0)
    | _ => none
  else none

/-- Evaluate and prune from a position on: MODE codes are kept but not obeyed, OPAQUE gives the entire line. -/
def pruneGo (fetch : Nat → State → State × Except PortErr Nat) (rd : Rd) (x : Scene) :
    Nat → Nat → Ev → PruneSt → List Nat → State → State × PruneRes
  | 0, _, _, _, _, s => (s, .bad)
  | fuel + 1, pc, e, p, seen, s =>
    match fetch pc s with
    | (s, .error q) => (s, .err q)
    | (s, .ok c) =>
      let op := c / 256
      let seen := seen ++ [c]
      let e := { e with answers := [0x7F800000FF800000#64] }
      let dom := pruneDom op (pruneMargin rd x op (c % 256) s) e
      let obey (s : State) : State × EvRes :=
        if op = 0x1F ∧ c % 256 ≤ 1 then (s, .next e) else evCode rd { x with opq := x.opq ||| 0x80 } c e s
      match obey s with
      | (s, .next e) => pruneGo fetch rd x fuel (pc + 1) e (pruneStep pc op dom p) seen s
      | (s, .fin _) =>
        (s, .ok (((List.range seen.length).zip seen).filterMap fun q => if p.cut.contains q.1 then none else some q.2))
      | (s, .bad) => (s, .bad)
      | (s, .ask _ _) => (s, .bad)
      | (s, .err q) => (s, .err q)

/-- PRUNE over a box. -/
def pruneBox (fetch : Nat → State → State × Except PortErr Nat) (rd : Rd) (x : Scene) (box : List Iv) (s : State) : State × PruneRes :=
  pruneGo fetch rd x x.len 0 ⟨box.map FVal.iv, [], [], false, []⟩ ⟨[], [], []⟩ [] s

end Sys2Proof.Machine
end

