-- ==== Sys2Proof/Machine/Sha2.lean ====
section
/-! DEFINITION. The hash functions that the signatures of R424 name: SHA-256, SHA-384 and SHA-512, and the mask generation MGF1. The
spec names them and does not restate them (log entry 7). -/

namespace Sys2Proof.Machine

/-- The largest r with r ^ k at most x, found bit by bit. -/
def rootBits (k x : Nat) : Nat → Nat → Nat
  | 0, r => r
  | n + 1, r => rootBits k x n (if (r + 2 ^ n) ^ k ≤ x then r + 2 ^ n else r)

/-- The first bits of the fraction of the k-th root of a number below 2 ^ 8. -/
def rootFrac (k bits p : Nat) : Nat := rootBits k (p * 2 ^ (k * bits)) (bits + 8) 0 % 2 ^ bits

/-- The first 80 primes. -/
def primes80 : List Nat := (List.range 410).filter fun p => decide (2 ≤ p) && (List.range p).all fun d => decide (d < 2) || p % d != 0

/-- One of the two SHA-2 word sizes: the width, the rounds, the round constants, and the rotations and shifts of its four functions. -/
structure Sha where
  w : Nat
  rounds : Nat
  ks : List Nat
  sum0 : List Nat
  sum1 : List Nat
  sig0 : List Nat × Nat
  sig1 : List Nat × Nat
deriving DecidableEq, Repr, Inhabited

def sha32 : Sha := ⟨32, 64, (primes80.take 64).map (rootFrac 3 32), [2, 13, 22], [6, 11, 25], ([7, 18], 3), ([17, 19], 10)⟩
def sha64 : Sha := ⟨64, 80, primes80.map (rootFrac 3 64), [28, 34, 39], [14, 18, 41], ([1, 8], 7), ([19, 61], 6)⟩

/-- The exclusive or of rotations to the right. -/
def Sha.rot (h : Sha) (rs : List Nat) (x : Nat) : Nat := rs.foldl (fun a r => a ^^^ (x >>> r ||| x <<< (h.w - r) % 2 ^ h.w)) 0

/-- Bytes as numbers with the first byte highest, and back. -/
def ofBytesBE (bs : List Byte) : Nat := ofBytes bs.reverse
def toBytesBE (v n : Nat) : List Byte := (toBytes v n).reverse

/-- Words of a block, latest first, extended to one per round. -/
def Sha.schedule (h : Sha) : Nat → List Nat → List Nat
  | 0, ws => ws
  | n + 1, ws =>
    let s0 := h.rot h.sig0.1 (nth ws 14) ^^^ (nth ws 14 >>> h.sig0.2)
    let s1 := h.rot h.sig1.1 (nth ws 1) ^^^ (nth ws 1 >>> h.sig1.2)
    h.schedule n ((nth ws 15 + s0 + nth ws 6 + s1) % 2 ^ h.w :: ws)

/-- One round: the eight working words from a constant and a word of the block. -/
def Sha.round (h : Sha) (v : List Nat) (kw : Nat × Nat) : List Nat :=
  let m := 2 ^ h.w
  let e := nth v 4
  let ch := (e &&& nth v 5) ^^^ ((m - 1 - e) &&& nth v 6)
  let t1 := nth v 7 + h.rot h.sum1 e + ch + kw.1 + kw.2
  let a := nth v 0
  let maj := (a &&& nth v 1) ^^^ (a &&& nth v 2) ^^^ (nth v 1 &&& nth v 2)
  [(t1 + h.rot h.sum0 a + maj) % m, a, nth v 1, nth v 2, (nth v 3 + t1) % m, e, nth v 5, nth v 6]

def Sha.block (h : Sha) (v : List Nat) (bs : List Byte) : List Nat :=
  let ws := (List.range 16).map fun j => ofBytesBE ((bs.drop (j * (h.w / 8))).take (h.w / 8))
  let all := (h.schedule (h.rounds - 16) ws.reverse).reverse
  let r := (h.ks.zip all).foldl h.round v
  (List.range 8).map fun j => (nth v j + nth r j) % 2 ^ h.w

/-- The message with its padding: a one bit, zeros, and its length in bits. -/
def Sha.pad (h : Sha) (m : List Byte) : List Byte :=
  let b := 2 * h.w
  let z := (2 * b - 1 - b / 8 - m.length % b) % b
  m ++ [0x80#8] ++ List.replicate z 0 ++ toBytesBE (8 * m.length) (b / 8)

/-- A hash from its first eight words and its length. -/
def Sha.hash (h : Sha) (start : List Nat) (n : Nat) (m : List Byte) : List Byte :=
  let p := h.pad m
  let b := 2 * h.w
  let v := (List.range (p.length / b)).foldl (fun v i => h.block v ((p.drop (i * b)).take b)) start
  (v.flatMap fun x => toBytesBE x (h.w / 8)).take n

def sha256 : List Byte → List Byte := sha32.hash ((primes80.take 8).map (rootFrac 2 32)) 32
def sha512 : List Byte → List Byte := sha64.hash ((primes80.take 8).map (rootFrac 2 64)) 64
def sha384 : List Byte → List Byte := sha64.hash (((primes80.drop 8).take 8).map (rootFrac 2 64)) 48

/-- MGF1: the hashes of a seed with a count, joined. -/
def mgf1 (hash : List Byte → List Byte) (hlen : Nat) (seed : List Byte) (n : Nat) : List Byte :=
  ((List.range (n / hlen + 1)).flatMap fun c => hash (seed ++ toBytesBE c 4)).take n

end Sys2Proof.Machine
end

