-- ==== Sys2Proof/Machine/Signature.lean ====
section
/-! DEFINITION. The two signature schemes of R424: RSASSA-PSS with SHA-384 and a 48-byte salt under an RSA-3072 key, and
SLH-DSA-SHA2-192s in pure mode with an empty context. The spec names the schemes and does not restate them (log entry 7). -/

namespace Sys2Proof.Machine

/-! ### RSASSA-PSS -/

/-- b ^ e mod n; `fuel` bounds the bits of e. -/
def powMod (b n : Nat) : Nat → Nat → Nat
  | 0, _ => 1 % n
  | fuel + 1, e =>
    let r := powMod (b * b % n) n fuel (e / 2)
    if e % 2 = 1 then r * b % n else r

def xorBytes (as bs : List Byte) : List Byte := (as.zip bs).map fun p => p.1 ^^^ p.2

/-- The encoded message of 384 bytes matches the message's hash. -/
def pssMatches (em mhash : List Byte) : Bool :=
  let masked := em.take 335
  let h := (em.drop 335).take 48
  let db := xorBytes masked (mgf1 sha384 48 h 335)
  let db := (db.take 1).map (· &&& 0x7F#8) ++ db.drop 1
  (em.drop 383 == [0xBC#8]) && (masked.take 1).all (fun b => !b.getLsbD 7)
    && db.take 287 == List.replicate 286 0 ++ [0x01#8]
    && h == sha384 (List.replicate 8 0 ++ mhash ++ db.drop 287)

/-- A signature verifies under a public key: the modulus and the exponent. -/
def rsaVerifies (key : Nat × Nat) (m sig : List Byte) : Bool :=
  let s := ofBytesBE sig
  decide (s < key.1) && sig.length == 384
    && pssMatches (toBytesBE (powMod s key.1 (Nat.log2 key.2 + 1) key.2) 384) (sha384 m)

/-! ### SLH-DSA-SHA2-192s: hashes of 24 bytes, 7 trees of height 9, 17 FORS trees of height 14, 4-bit digits -/

/-- The address of a hash, in its compressed form: layer, tree, type, and three words. -/
structure SlhAdrs where
  layer : Nat
  tree : Nat
  type : Nat
  w1 : Nat
  w2 : Nat
  w3 : Nat
deriving DecidableEq, Repr, Inhabited

def SlhAdrs.bytes (a : SlhAdrs) : List Byte :=
  toBytesBE a.layer 1 ++ toBytesBE a.tree 8 ++ toBytesBE a.type 1 ++ toBytesBE a.w1 4 ++ toBytesBE a.w2 4 ++ toBytesBE a.w3 4

/-- F, on one value, and H or T, on several joined. -/
def slhF (seed : List Byte) (a : SlhAdrs) (m : List Byte) : List Byte := (sha256 (seed ++ List.replicate 40 0 ++ a.bytes ++ m)).take 24
def slhH (seed : List Byte) (a : SlhAdrs) (m : List Byte) : List Byte := (sha512 (seed ++ List.replicate 104 0 ++ a.bytes ++ m)).take 24

/-- The n-th 24-byte value of a signature part. -/
def slhAt (bs : List Byte) (n : Nat) : List Byte := (bs.drop (24 * n)).take 24

/-- The steps from `i` on of a chain that ends at 15. -/
def slhChain (seed : List Byte) (a : SlhAdrs) (i : Nat) (m : List Byte) : List Byte :=
  (List.range (15 - i)).foldl (fun m k => slhF seed { a with w3 := i + k } m) m

/-- The WOTS+ public key that a signature of 51 values gives for a message of 24 bytes. -/
def slhWots (seed : List Byte) (layer tree leaf : Nat) (sig msg : List Byte) : List Byte :=
  let digits := msg.flatMap fun b => [b.toNat / 16, b.toNat % 16]
  let sum := digits.foldl (fun a d => a + (15 - d)) 0
  let all := digits ++ [sum / 256 % 16, sum / 16 % 16, sum % 16]
  let ends := (List.range 51).flatMap fun i => slhChain seed ⟨layer, tree, 0, leaf, i, 0⟩ (nth all i) (slhAt sig i)
  slhH seed ⟨layer, tree, 1, leaf, 0, 0⟩ ends

/-- The root above a leaf, along an authentication path; `adrs` is the address of the node of a height and index. -/
def slhClimb (seed : List Byte) (adrs : Nat → Nat → SlhAdrs) (path : List Byte) (height index : Nat) (leaf : List Byte) : List Byte :=
  (List.range height).foldl (fun node k =>
    let other := slhAt path k
    let pair := if index / 2 ^ k % 2 = 0 then node ++ other else other ++ node
    slhH seed (adrs (k + 1) (index / 2 ^ (k + 1))) pair) leaf

/-- The root of one layer's tree from its part of the signature: 51 chain values and a path of 9. -/
def slhLayer (seed : List Byte) (layer tree leaf : Nat) (sig msg : List Byte) : List Byte :=
  slhClimb seed (fun h i => ⟨layer, tree, 2, 0, h, i⟩) (sig.drop (24 * 51)) 9 leaf (slhWots seed layer tree leaf sig msg)

/-- The FORS public key from 17 secret values with their paths. -/
def slhFors (seed : List Byte) (tree leaf : Nat) (sig md : List Byte) : List Byte :=
  let bits := ofBytesBE md
  let roots := (List.range 17).flatMap fun i =>
    let part := sig.drop (24 * 15 * i)
    let ix := bits / 2 ^ (8 * md.length - 14 * (i + 1)) % 2 ^ 14
    let top := slhF seed ⟨0, tree, 3, leaf, 0, i * 2 ^ 14 + ix⟩ (slhAt part 0)
    slhClimb seed (fun h n => ⟨0, tree, 3, leaf, h, i * 2 ^ (14 - h) + n⟩) (part.drop 24) 14 ix top
  slhH seed ⟨0, tree, 4, leaf, 0, 0⟩ roots

/-- A signature verifies under a public key of 48 bytes: the seed and the root. -/
def slhVerifies (key m sig : List Byte) : Bool :=
  let seed := key.take 24
  let root := key.drop 24
  let msg := [0#8, 0#8] ++ m
  let r := slhAt sig 0
  let digest := mgf1 sha512 64 (r ++ seed ++ sha512 (r ++ seed ++ root ++ msg)) 39
  let tree := ofBytesBE ((digest.drop 30).take 7) % 2 ^ 54
  let leaf := ofBytesBE ((digest.drop 37).take 2) % 2 ^ 9
  let pk := slhFors seed tree leaf (sig.drop 24) (digest.take 30)
  let top := (List.range 7).foldl (fun (x : List Byte × Nat × Nat) j =>
    (slhLayer seed j x.2.1 x.2.2 (sig.drop (24 * (256 + 60 * j))) x.1, x.2.1 / 2 ^ 9, x.2.1 % 2 ^ 9)) (pk, tree, leaf)
  sig.length == 16224 && key.length == 48 && top.1 == root

end Sys2Proof.Machine
end

