-- ==== Sys2Proof/Machine/Load.lean ====
section
/-! DEFINITION. The load checks of a code object image (R405 to R409, R416, R417, R424, R425) and the object it makes. A check answers
the failure code of R416 with its detail. -/

namespace Sys2Proof.Machine

/-! ### CRC-32C (R406) -/

def crcBit (c : BitVec 32) : BitVec 32 := if c.getLsbD 0 then (c >>> 1) ^^^ 0x82F63B78#32 else c >>> 1

/-- One byte into the reflected Castagnoli remainder. -/
def crcByte (c : BitVec 32) (b : Byte) : BitVec 32 := (List.range 8).foldl (fun c _ => crcBit c) (c ^^^ b.zeroExtend 32)

def crc32c (bs : List Byte) : Nat := ((bs.foldl crcByte 0xFFFFFFFF#32) ^^^ 0xFFFFFFFF#32).toNat

/-! ### The container (R405 to R407) -/

/-- A section header. -/
structure Section where
  index : Nat
  ty : Nat
  sfl : Nat
  crc : Nat
  off : Nat
  size : Nat
  count : Nat
  tail : Nat
deriving DecidableEq, Repr, Inhabited

def sectionAt (img : List Byte) (i : Nat) : Section :=
  let f (o n : Nat) : Nat := byteField img (64 + 32 * i + o) n
  ⟨i, f 0 2, f 2 2, f 4 4, f 8 8, f 16 8, f 24 4, f 28 4⟩

def sectionsOf (img : List Byte) : List Section := (List.range (byteField img 6 2)).map (sectionAt img)

def Section.bytes (img : List Byte) (x : Section) : List Byte := (img.drop x.off).take x.size

def knownType (t : Nat) : Bool := (decide (1 ≤ t) && decide (t ≤ 0x0B)) || t == 0x0E || t == 0x0F

/-- The types whose COUNT is 0 (R407). -/
def countless : List Nat := [0x01, 0x06, 0x07, 0x08, 0x0E]

def findSection (xs : List Section) (ty : Nat) : Option Section := xs.find? fun x => x.ty == ty

/-- A section header breaks R406 or its type's COUNT (R407), overlaps an earlier section, or repeats a known type. -/
def sectionBad (size nsec : Nat) (xs : List Section) (x : Section) : Bool :=
  decide (x.sfl ≥ 2) || x.tail != 0 || (countless.contains x.ty && x.count != 0) || x.off % 64 != 0 || decide (x.off < 64 + 32 * nsec) || decide (x.off + x.size > size)
    || xs.any fun y => decide (y.index < x.index) && (overlap y.off y.size x.off x.size || (knownType x.ty && y.ty == x.ty))

/-- LOAD_BAD_HEADER. -/
def headerErr (img : List Byte) (size : Nat) : Option Nat :=
  let f := byteField img
  let nsec := f 6 2
  if f 0 4 ≠ 0x4F435545 ∨ f 4 2 ≠ 1 ∨ nsec < 1 ∨ nsec > 64 ∨ f 16 8 = 0 ∨ f 28 4 ≠ 0 ∨ f 32 32 ≠ 0 ∨ size > 2 ^ 30
      ∨ 64 + 32 * nsec > size then some 0
  else ((sectionsOf img).find? (sectionBad size nsec (sectionsOf img))).map Section.index

/-- LOAD_BAD_CRC. -/
def crcErr (img : List Byte) : Option Nat :=
  let nsec := byteField img 6 2
  if crc32c (img.take 24 ++ (img.drop 64).take (32 * nsec)) ≠ byteField img 24 4 then some 0
  else ((sectionsOf img).find? fun x => crc32c (x.bytes img) != x.crc).map Section.index

/-! ### Notes (R408) -/

/-- `safe-names` and `build` in ASCII. -/
def noteNames : List (List Nat) := [[115, 97, 102, 101, 45, 110, 97, 109, 101, 115], [98, 117, 105, 108, 100]]

/-- Some record of a notes section breaks its layout, or is mandatory and unknown. -/
def notesBad : Nat → List Byte → Bool
  | 0, _ => false
  | n + 1, bs =>
    let pl := byteField bs 0 4
    let nl := byteField bs 4 2
    let fl := byteField bs 6 1
    let len := (8 + nl + pl + 7) / 8 * 8
    let name := ((bs.drop 8).take nl).map BitVec.toNat
    nl == 0 || decide (nl > 64) || decide (fl ≥ 2) || byteField bs 7 1 != 0 || decide (len > bs.length)
      || (fl == 1 && !noteNames.contains name) || notesBad n (bs.drop len)

/-- LOAD_UNKNOWN_MANDATORY. -/
def mandErr (img : List Byte) : Option Nat :=
  ((sectionsOf img).find? fun x =>
    (!knownType x.ty && x.sfl == 1) || (x.ty == 0x0F && notesBad x.count (x.bytes img))).map Section.index

/-! ### Signatures (R424, R425) -/

/-- Bytes of a list replaced by zeros. -/
def zeroOut (bs : List Byte) (a n : Nat) : List Byte := bs.take a ++ List.replicate n 0 ++ bs.drop (a + n)

/-- The message a signature block signs: HCRC, the block's own CRC field and its signatures zero. -/
def signedMessage (img : List Byte) (x : Section) : List Byte :=
  zeroOut (zeroOut (zeroOut img 24 4) (64 + 32 * x.index + 4) 4) (x.off + 8) 16608

/-- A signature block is accepted under two key tables: its layout holds, its indices lie in the tables and both signatures verify. -/
def signedBy (rsa : List (Nat × Nat)) (slh : List (List Byte)) (img : List Byte) (x : Section) : Bool :=
  let b := x.bytes img
  let m := signedMessage img x
  x.size == 16616 && byteField b 4 4 == 0
    && (rsa[byteField b 0 2]?).any (fun k => rsaVerifies k m ((b.drop 8).take 384))
    && (slh[byteField b 2 2]?).any fun k => slhVerifies k m ((b.drop 392).take 16224)

/-- LOAD_BAD_SIGNATURE, under the key tables of the running firmware. -/
def signErr (firmware img : List Byte) : Option Nat :=
  match findSection (sectionsOf img) 0x0E with
  | some x =>
    if signedBy ((Config.firmwareRsaKeys firmware).take 16) ((Config.firmwareSlhKeys firmware).take 16) img x then none else some x.index
  | none => none

/-! ### Segments and words (R73 to R75, R417) -/

/-- A segment-table entry with its reserved bits. -/
def segmentOf (bs : List Byte) (i : Nat) : Segment × Nat :=
  let w := byteField bs (16 * i) 16
  (⟨bitsN w 0 32, bitsN w 32 16, bitsN w 48 2, bitsN w 64 32, bitsN w 96 32⟩, bitsN w 50 14)

/-- A code section's words. -/
def codeWords (bs : List Byte) : List Word := (List.range (bs.length / 8)).map fun i => w64 (byteField bs (8 * i) 8)

/-- A word has a literal field, whether or not it decodes (R51). -/
def rawLiteral (w : Word) : Bool :=
  !w.getLsbD 62 &&
  match ofOp (wordBits w 54 8).toNat (fieldsOf w none) with
  | some i => hasLiteral i
  | none => false

/-- One decoded place of a code section: its offset, the words it takes, and what it decodes to. -/
structure Place where
  off : Nat
  len : Nat
  res : Except Cause Instr

/-- The places of a code section in order, literals skipped (R417). -/
def placesFrom : Nat → Bool → List Word → List Place
  | _, _, [] => []
  | n, true, _ :: ws => placesFrom (n + 1) false ws
  | n, false, w :: ws =>
    let lit := rawLiteral w
    ⟨n, if lit then 2 else 1, decode false w (nth ws 0)⟩ :: placesFrom (n + 1) lit ws

def Place.instr? (p : Place) : Option Instr := match p.res with | .ok i => some i | .error _ => none

/-- The segment index of an immediate that must lie in the table (R75). -/
def segImm (i : Instr) : Option Nat :=
  match i with
  | .next f | .call f | .nextp f | .fork f | .ipref f => some ((imm27 f).toNat % 2 ^ 18)
  | _ => none

/-- The LOOPs of a segment's places: their own word, first body word and end. -/
def bodiesOf (ps : List Place) : List (Nat × Nat × Nat) :=
  ps.filterMap fun p => match p.instr? with
    | some (.loop f) => some (p.off, p.off + p.len, p.off + p.len + ((imm18 f).toNat % 1024 + 1))
    | _ => none

/-- A LOOP or REP of a segment breaks its entry (R98, R99). -/
def loopRepBad (ps : List Place) (stop : Nat) (p : Place) : Bool :=
  let bodies := bodiesOf ps
  let inside (x : Nat) : List (Nat × Nat × Nat) := bodies.filter fun b => decide (b.2.1 ≤ x) && decide (x < b.2.2)
  match p.instr? with
  | some (.loop f) =>
    let last := p.off + p.len + ((imm18 f).toNat % 1024 + 1)
    decide (last > stop) || (inside p.off).any fun b => decide (last > b.2.2)
  | some (.rep f) =>
    decide (p.off + 1 ≥ stop) || (inside p.off).any (fun b => decide (p.off + 1 ≥ b.2.2))
      || (match ps.find? fun q => q.off == p.off + 1 with
          | some q => (match q.instr? with | some i => repTargetBad f i | none => false)
          | none => true)
  | _ => false

/-- A segment breaks R73 to R75. A literal of its end word that lies outside it is R417's affair. -/
def segmentBad (words : List Word) (places : List Place) (segs : List (Segment × Nat)) (n : Nat) : Bool :=
  let x := nth segs n
  let g := x.1
  let stop := g.start + g.len
  let ps := places.filter fun p => decide (g.start ≤ p.off) && decide (p.off < stop)
  let ends := ps.filter fun p => match p.instr? with | some i => isEnd i | none => false
  let lastOk := match ps.getLast? with
    | some p => (decide (p.off + p.len = stop) || decide (p.off + 1 = stop)) && (match p.instr? with | some i => isEnd i | none => false)
    | none => false
  let immBad := ps.any fun p => match p.instr?.bind segImm with | some k => decide (k ≥ segs.length) | none => false
  let nextpBad := n + 1 == segs.length && (match ps.getLast?.bind Place.instr? with | some (.nextp _) => true | _ => false)
  let suspBad := (List.range ps.length).any fun j =>
    match (nth (ps.map Place.instr?) j), (nth (ps.map Place.instr?) (j + 1)) with
    | some (.suspend _), some (.quit _) => false
    | some (.suspend _), _ => true
    | _, _ => false
  x.2 != 0 || decide (g.asm > 2) || g.len == 0 || decide (stop > words.length) || !(nth words g.start).getLsbD 63
    || ends.length != 1 || !lastOk
    || (List.range segs.length).any (fun m => m != n && overlap (nth segs m).1.start (nth segs m).1.len g.start g.len)
    || immBad || nextpBad || suspBad || ps.any (loopRepBad ps stop)

/-- Segments of an image. -/
def imageSegs (img : List Byte) (x : Section) : List (Segment × Nat) := (List.range x.count).map (segmentOf (x.bytes img))

/-- LOAD_BAD_SEGMENTS; the detail is the first failing segment's START, or the index of a section that fails as a whole. -/
def segmentErr (img : List Byte) (st code : Section) : Option Nat :=
  let segs := imageSegs img st
  let jorys : Option Section := (findSection (sectionsOf img) 3).filter fun j => j.count != st.count
  if st.size ≠ 16 * st.count ∨ st.count < 1 ∨ st.count > 2 ^ 18 then some st.index
  else if code.size ≠ 8 * code.count then some code.index
  else if jorys.isSome then jorys.map Section.index
  else
    let words := codeWords (code.bytes img)
    let places := placesFrom 0 false words
    ((List.range segs.length).find? (segmentBad words places segs)).map fun n => (nth segs n).1.start

/-- A span of v registers that leaves v127 (R417). -/
def spanPast (i : Instr) : Bool :=
  match formOf i with
  | .full r f =>
    let n := srcSpans i
    let past (k m : Nat) : Bool := match nth (srcCodes r f) k with | some c => isV c && decide (c + m > 0x80) | none => false
    past 0 n.1 || past 1 n.2.1 || past 2 n.2.2
      || ((dstUse r f).isReg && isV f.dst.toNat && decide (f.dst.toNat + dstCount r f > 0x80))
  | _ => false

/-- A place fails R417. -/
def placeBad (segs : List (Segment × Nat)) (total : Nat) (p : Place) : Bool :=
  let lit := p.len == 2
  let home (off : Nat) : Option Nat := (List.range segs.length).find? fun n =>
    decide ((nth segs n).1.start ≤ off) && decide (off < (nth segs n).1.start + (nth segs n).1.len)
  (match p.res with | .ok i => spanPast i | .error _ => true)
    || (lit && (decide (p.off + 1 ≥ total) || home p.off != home (p.off + 1)
        || segs.any fun s => s.1.start == p.off + 1))

/-- LOAD_BAD_WORD; the detail is the word offset. -/
def wordErr (img : List Byte) (st code : Section) : Option Nat :=
  let words := codeWords (code.bytes img)
  ((placesFrom 0 false words).find? (placeBad (imageSegs img st) words.length)).map Place.off

/-! ### Safe points, streams, launch defaults (R408, R409) -/

def safeOf (bs : List Byte) (i : Nat) : SafePoint × Bool :=
  let w := byteField bs (16 + 16 * i) 16
  (⟨bitsN w 32 18, bitsN w 0 32, bitsN w 64 32⟩, bitsN w 50 14 != 0 || bitsN w 96 32 != 0)

def liveMapsOf (bs : List Byte) : List Nat :=
  (List.range (byteField bs 4 4)).map fun i => byteField bs (16 + 16 * byteField bs 0 4 + 32 * i) 32

def safesOf (bs : List Byte) : List (SafePoint × Bool) := (List.range (byteField bs 0 4)).map (safeOf bs)

/-- The words with S = 1 of a code section. -/
def stopWords (places : List Place) (words : List Word) : List Nat :=
  (places.filter fun p => (nth words p.off).getLsbD 63).map Place.off

/-- An entry of the safe-point table breaks R409. -/
def safeBad (segs : List (Segment × Nat)) (stops : List Nat) (safes : List (SafePoint × Bool)) (maps : List Nat) (n : Nat) : Bool :=
  let x := nth safes n
  let p := x.1
  let g := (nth segs p.seg).1
  x.2 || decide (n > 0 ∧ (nth safes (n - 1)).1.woff ≥ p.woff) || !stops.contains p.woff || decide (p.seg ≥ segs.length)
    || !(decide (g.start ≤ p.woff) && decide (p.woff < g.start + g.len)) || decide (p.live ≥ maps.length)
    || (p.woff == g.start && (g.safeord != n || g.liveix != p.live || bitsN (nth maps p.live) 216 8 != 0))

/-- LOAD_BAD_SAFEPOINTS; the detail is the word offset of the first failing entry or word, or the section's index where the whole fails. -/
def safeErr (img : List Byte) (st code sp : Section) : Option Nat :=
  let bs := sp.bytes img
  let safes := safesOf bs
  let maps := liveMapsOf bs
  let words := codeWords (code.bytes img)
  let stops := stopWords (placesFrom 0 false words) words
  if sp.size < 16 ∨ byteField bs 0 4 ≠ sp.count ∨ byteField bs 8 8 ≠ 0 ∨ sp.size ≠ 16 + 16 * sp.count + 32 * byteField bs 4 4
      ∨ (maps.any fun m => bitsN m 224 32 != 0) then some sp.index
  else
    match (List.range safes.length).find? (safeBad (imageSegs img st) stops safes maps) with
    | some n => some (nth safes n).1.woff
    | none => stops.find? fun w => !(safes.any fun p => p.1.woff == w)

/-- A matrix stream's first word and length. -/
def streamDesc (bs : List Byte) (i : Nat) : Nat × Nat := (byteField bs (8 * i) 4, byteField bs (8 * i + 4) 4)

/-- A stream breaks R408, or one of its words R289 at decode. -/
def streamBad (count size : Nat) (bs : List Byte) (i : Nat) : Bool :=
  let x := streamDesc bs i
  x.2 == 0 || decide (x.2 > 2 ^ 20) || decide (x.1 < count) || decide (8 * (x.1 + x.2) > size)
    || (List.range x.2).any fun j => match decode true (w64 (byteField bs (8 * (x.1 + j)) 8)) 0 with | .ok _ => false | .error _ => true

/-- LOAD_BAD_STREAM. -/
def streamErr (img : List Byte) : Option Nat :=
  match findSection (sectionsOf img) 9 with
  | none => none
  | some x =>
    if 8 * x.count > x.size ∨ x.size % 8 ≠ 0 then some x.index
    else if (List.range x.count).any (streamBad x.count x.size (x.bytes img)) then some x.index
    else none

/-- LOAD_BAD_LAUNCH. -/
def launchErr (img : List Byte) (st ld : Section) : Option Nat :=
  let f := byteField (ld.bytes img)
  if ld.size ≠ 16 + 16 * ld.count ∨ f 0 4 ≥ st.count ∨ f 4 1 > 2 ∨ f 5 1 > 31 ∨ f 6 1 > 15 ∨ f 7 1 > 4 ∨ f 8 4 % 8 ≠ 0 ∨ f 12 4 ≠ 0
      ∨ ((List.range ld.count).any fun i => decide (f (16 + 16 * i) 1 > 63) || f (17 + 16 * i) 7 != 0) then some ld.index
  else none

/-! ### The whole load (R416) -/

/-- The sections a native object needs: segment table, code, safe points, launch defaults. -/
def nativeSections (xs : List Section) : Option (Section × Section × Section × Section) :=
  match findSection xs 2, findSection xs 4, findSection xs 5, findSection xs 0x0B with
  | some a, some b, some c, some d => some (a, b, c, d)
  | _, _, _, _ => none

/-- The object an image makes, its slot and count still open. -/
def objectOf (img : List Byte) (ctx exec : Nat) (q : Section × Section × Section × Section) : CodeObj :=
  let (st, code, sp, ld) := q
  let sb := sp.bytes img
  let lb := ld.bytes img
  { ctx := ctx, slot := 0, count := 0, exec := exec, objid := byteField img 16 8, code := code.off
    segs := (imageSegs img st).map Prod.fst, safes := (safesOf sb).map Prod.fst, maps := liveMapsOf sb
    streams := match findSection (sectionsOf img) 9 with
      | some x => (List.range x.count).map fun i => let p := streamDesc (x.bytes img) i; ⟨x.off + 8 * p.1, p.2⟩
      | none => []
    entry := byteField lb 0 4
    preload := (List.range ld.count).map fun i => (byteField lb (16 + 16 * i) 1, w64 (byteField lb (24 + 16 * i) 8))
    pipeline := none, loader := false, retired := false }

/-- What the request says of the image's SIZE and writable data does not hold (R413). -/
def imageRequestBad (img : List Byte) (size data : Nat) : Bool :=
  (byteField img 8 8 != size && decide (16 ≤ size))
    || ((findSection (sectionsOf img) 7).isNone && data != 0 && decide (64 ≤ size) && (headerErr img size).isNone)

/-- The first check of R416 that an image fails, but for its placement and its slot. -/
def loadErr (firmware img : List Byte) (size data : Nat) : Option (Nat × Nat) :=
  let xs := sectionsOf img
  let code (c : Nat) (r : Option Nat) : Option (Nat × Nat) := r.map fun d => (c, d)
  if imageRequestBad img size data then some (1, 0)
  else if size < 64 then some (4, 0)
  else
    (code 4 (headerErr img size)).or <| (code 5 (crcErr img)).or <| (code 6 (mandErr img)).or <|
    match nativeSections xs with
    | none => some (7, 0)
    | some (st, cd, sp, ld) =>
      (code 8 (signErr firmware img)).or <| (code 9 (segmentErr img st cd)).or <| (code 10 (wordErr img st cd)).or <|
      (code 11 (safeErr img st cd sp)).or <| (code 12 (streamErr img)).or <| code 13 (launchErr img st ld)

end Sys2Proof.Machine
end

