-- ==== Sys2Proof/Machine/Stages.lean ====
section
/-! DEFINITION. The words of stages, events and tasks: ENQ, DEQ, EVSIG, EVWAIT, SUSPEND, SPAWN and DCDEC, with the events that end their
waits (R365 to R377). -/

namespace Sys2Proof.Machine

open Host (Outcome)

/-! ### What the words share -/

/-- The acting lanes of a word of this family: present, guard true, no helpers (R371). -/
def acting (i : Instr) (g : Group) (present : Mask) : Mask := g.actors present (fieldsOfInstr i)

/-- The queue value of a word (SB, uniform). -/
def queueNo (i : Instr) (s : State) (b : Batch) (g : Group) : Nat := field (srcB s (srcCtx s b g) g 0 i) 0 6

/-- The stage queue a word names. -/
def stageQueue (i : Instr) (s : State) (b : Batch) (g : Group) : Option StageQueue :=
  (groupPipe s g).bind fun p => p.queues[queueNo i s b g]?

/-- The stage of a group's launch. -/
def groupStage (s : State) (g : Group) : Nat := ((s.launch? g.lid).getD default).stage

/-- The word names a successor (R371). -/
def succGiven (i : Instr) : Bool := (fieldsOfInstr i).sc != 0x0CA
def succVal (i : Instr) (s : State) (b : Batch) (g : Group) : Nat := field (srcC s (srcCtx s b g) g 0 i) 0 18

/-- Further registers of a span: beyond the window, poisoned, or empty where the word's W bit asks for a trap (R19, R27, R454). -/
def spanBar (g : Group) (lanes : Mask) (first n : Nat) (wbit : Bool) (wt : Nat) : Option (Cause × Mask × Nat × Nat) :=
  let regs := (List.range n).map (first + ·)
  if !(regs.all fun c => decide (c < 0x80) && (vIndex g c).isSome) then some (.illegalOperand, lanes, 0, 0)
  else
    let pois := lanesWith lanes fun l => regs.any fun c => poisonAt g l c
    if pois ≠ 0 then some (.poison, pois, 4, 0)
    else
      let emp := lanesWith lanes fun l => regs.any fun c => emptyAt g l c
      if wbit && emp != 0 then some (.emptyRead, emp, wt, 0) else none

/-- Every register of a span is full, or the word traps for it. -/
def spanReady (g : Group) (lanes : Mask) (first n : Nat) (wbit : Bool) : Bool :=
  wbit || (lanesOf lanes).all fun l => (List.range n).all fun j => !emptyAt g l (first + j)

/-! ### ENQ (R372) -/

def StageQueue.occupancy (q : StageQueue) : Nat := q.tail - q.head

/-- Registers of a record. -/
def StageQueue.words (q : StageQueue) : Nat := q.rsz / 8

def enqBar (i : Instr) : BarFn := fun s b g present =>
  let lanes := acting i g present
  let f := fieldsOfInstr i
  if lanes = 0 ∨ b.wait.isSome then none
  else
    match stageQueue i s b g with
    | none => some (.accessFault, lanes, 0, 0)
    | some q =>
      if q.src ≠ groupStage s g then some (.accessFault, lanes, 0, 0)
      else spanBar g lanes f.sa.toNat q.words (f.w.getLsbD 0) 1

/-- The records a batch's ENQ would put into one queue. -/
def enqCount (i : Instr) (s : State) (b : Batch) (q : StageQueue) : Nat :=
  sumBy (fun m : Member => match s.group? m.gid with
    | some g => if (stageQueue i s b g).map StageQueue.index = some q.index then (lanesOf (acting i g (m.present false))).length else 0
    | none => 0) b.members

/-- Those of them that the groups before one put. -/
def enqBefore (i : Instr) (s : State) (b : Batch) (q : StageQueue) (gid : Nat) : Nat :=
  enqCount i s { b with members := b.members.takeWhile fun m => m.gid != gid } q

/-- What a record's write would park at, for the lanes of a group that would put their records from an index on (R397). -/
def enqPark (s : State) (g : Group) (lanes : Mask) (q : StageQueue) (first : Nat) : Probe := fun l =>
  let n := ((lanesOf lanes).filter fun m => decide (m < l)).length
  PortErr.fault? .write (portParts s g.core g.ctx (q.slot (first + n)) q.rsz .write []).2

/-- An ENQ or a DEQ reaches a record of its queue. -/
def touchSlot (q : StageQueue) (o : LaneOp) (base len : Nat) : Bool := overlap (q.slot o.tgt) q.rsz base len

/-- ENQ is entered once its registers are full and nothing earlier of its batch is unpublished, and left once there is room. -/
def enqReady (i : Instr) : ReadyFn := fun s b g present =>
  let lanes := acting i g present
  let f := fieldsOfInstr i
  lanes == 0 ||
  match stageQueue i s b g with
  | none => true
  | some q =>
    if b.wait.isSome then
      decide (q.nrec - q.occupancy ≥ enqCount i s b q) && !parkWaits s b g lanes (enqPark s g lanes q (q.tail + enqBefore i s b q g.gid))
    else memReady s b g present && releaseReady i s b g present && spanReady g lanes f.sa.toNat q.words (f.w.getLsbD 0)

/-- The queue's next index is claimed. -/
def claimTail (s : State) (pid qi : Nat) : State × Nat :=
  match (s.pipe? pid).bind fun p => p.queues[qi]? with
  | none => (s, 0)
  | some q =>
    let take (q : StageQueue) : StageQueue := { q with tail := q.tail + 1, unpublished := q.unpublished ++ [q.tail] }
    (s.modPipe pid fun p => p.modQueue qi take, q.tail)

/-- Watermark state after a change of occupancy (R362). -/
def StageQueue.mark (q : StageQueue) : StageQueue :=
  if 100 * q.occupancy ≥ q.hwm * q.nrec then { q with high := true }
  else if 100 * q.occupancy ≤ q.lwm * q.nrec then { q with high := false }
  else q

/-- Each acting lane claims an index in turn and writes its record; where a record's page is absent and the group can suspend, it does so
instead (R397). -/
def enqBody (i : Instr) (s : State) (b : Batch) (g : Group) (present : Mask) : State × Option TrapInfo :=
  let lanes := acting i g present
  match b.wait.isSome, groupPipe s g, stageQueue i s b g with
  | true, some p, some q =>
    match parkSuspend i s b g lanes (enqPark s g lanes q q.tail) with
    | some s => (s, none)
    | none =>
    let c := srcCtx s b g
    let f := fieldsOfInstr i
    let r := (lanesOf lanes).foldl (fun (r : State × List LaneOp) l =>
      let x := claimTail r.1 p.pid q.index
      let data := srcC s c g l i :: (List.range q.words).map fun j => spanVal s c g l f.sa.toNat j
      (x.1, r.2 ++ [(⟨l, srcA s c g l i, srcB s c g l i, data, q.index, x.2⟩ : LaneOp)])) (s, [])
    let s := r.1.modPipe p.pid fun p => p.modQueue q.index StageQueue.mark
    watchEnd s (drainStores (launchFlight i .enq r.2 s b g).1 g.gid) b g false [⟨0, false, true, touchSlot q⟩] r.2
  | _, _, _ => (s, none)

/-- A word that is entered, waits, and is left: the wait that marks it. -/
def enterLeave (i : Instr) (w : Wait) (b0 : Option Batch) (s : State) (id : Nat) : State :=
  match b0 with
  | some b =>
    if b.wait.isSome then ((b.members.map Member.gid).foldl raiseHeld (advanceBatch s id i))
    else s.modBatch id fun x => { x with wait := some w, waitSince := s.clock }
  | none => s

def execEnq (f : Fields) (s : State) : Outcome State Fault Refusal :=
  .next (runWordThen (.enq f) (enqReady (.enq f)) (enqBar (.enq f)) (enqBody (.enq f)) (enterLeave (.enq f) .enq (issuerBatch s)) s)

/-- The word a batch stands in, with a group of it and its lanes there, where the batch waits in it with a successor and has waited 4096
clocks. -/
def longWait (s : State) (b : Batch) (gid : Nat) : Option (Instr × Group × Mask) :=
  match b.members.find? fun m => m.gid == gid, s.group? gid, (fetchInstr s b).2 with
  | some m, some g, .ok i =>
    if succGiven i && decide (s.clock ≥ b.waitSince + 4096) then some (i, g, m.present false) else none
  | _, _, _ => none

/-- A group that waits in a word may suspend: its job runs, or the word is the step's in progress (R472, R475, R477). -/
def waitMay (s : State) (gid : Nat) : Bool :=
  match s.group? gid with
  | some g => engineMay s g.ctx .issue fun st => st.gid == gid
  | none => false

/-- A group that has waited for room for its records suspends, where R365 holds; else it keeps waiting. -/
def enqLeave (batch : Nat) (s : State) (gid : Nat) : State :=
  match s.batch? batch with
  | none => s
  | some b =>
    if b.wait ≠ some .enq ∨ !waitMay s gid then s
    else
      match longWait s b gid with
      | some (.enq f, g, m) =>
        (match stageQueue (.enq f) s b g with
         | some q =>
           if q.nrec - q.occupancy ≥ enqCount (.enq f) s b q then s
           else (trySuspend s g b.seg (succVal (.enq f) s b g) (waitRoom q.index (lanesOf (acting (.enq f) g m)).length)).getD s
         | none => s)
      | _ => s

/-- The groups of a batch, as it stands. -/
def batchGids (s : State) (batch : Nat) : List Nat := ((s.batch? batch).getD default).members.map Member.gid

/-- ENQ_WAIT_SUSPEND: the groups of a batch that has waited for room suspend, one after the other, while there is none. -/
def enqSuspend (s : State) (batch : Nat) : State := (batchGids s batch).foldl (enqLeave batch) s

def execEnqWaitSuspend (batch : Nat) (s : State) : Outcome State Fault Refusal := .next (enqSuspend s batch)

/-! ### DEQ (R373) -/

/-- The record mode and the predicate of a DEQ. -/
def deqQuad (i : Instr) : Bool := (fieldsOfInstr i).sc.getLsbD 4
def deqPred (i : Instr) : Nat := (fieldsOfInstr i).sc.toNat % 16

def deqBar (i : Instr) : BarFn := fun s b g present =>
  let lanes := acting i g present
  if lanes = 0 ∨ b.wait.isSome then none
  else
    match stageQueue i s b g with
    | none => some (.accessFault, lanes, 0, 0)
    | some q =>
      if q.dst ≠ groupStage s g then some (.accessFault, lanes, 0, 0)
      else
        let d := (fieldsOfInstr i).dst.toNat
        if (List.range q.words).all fun j => decide (d + j < 0x80) && (vIndex g (d + j)).isSome then none
        else some (.illegalOperand, lanes, 0, 0)

/-- A DEQ in flight of a group, among lanes. -/
def deqFlight (g : Group) (lanes : Mask) : Option Flight := g.flights.find? fun e => e.kind == .deq && e.pending &&& lanes != 0

/-- DEQ is entered once its destinations are full, and left once its record has come. -/
def deqReady (i : Instr) : ReadyFn := fun s b g present =>
  let lanes := acting i g present
  if b.wait.isSome then (deqFlight g lanes).isNone
  else
    match stageQueue i s b g with
    | none => true
    | some q =>
      memReady s b g present && (lanesOf lanes).all fun l => (List.range q.words).all fun j => !emptyAt g l ((fieldsOfInstr i).dst.toNat + j)

/-- The records that a group's lanes have taken in the DEQ their batch stands in: lane and slot address. -/
def deqTaken (b : Batch) (gid : Nat) : List (Nat × Nat) :=
  match b.wait with
  | some (.deq ts) => (ts.filter fun t => t.1 == gid).map Prod.snd
  | _ => []

/-- The DEQ enters flight: its destinations turn empty. It is left with the watchpoints that its records meet (R467). -/
def deqBody (i : Instr) (s : State) (b : Batch) (g : Group) (present : Mask) : State × Option TrapInfo :=
  let lanes := acting i g present
  match b.wait.isSome, stageQueue i s b g with
  | true, some q =>
    watchEnd s s b g false [⟨0, true, false, touchAt q.rsz⟩] ((deqTaken b g.gid).map fun t => ⟨t.1, 0, 0, [], t.2, 0⟩)
  | false, some q =>
    let c := srcCtx s b g
    let ops := (lanesOf lanes).map fun l =>
      (⟨l, srcA s c g l i, srcB s c g l i, [w64 (fieldsOfInstr i).sc.toNat, w64 present.toNat], q.index, q.words⟩ : LaneOp)
    let s := (launchFlight i .deq ops s b g).1
    (s.modGroup g.gid fun g => (lanesOf lanes).foldl (fun g l => g.modFibre l fun x =>
      (List.range q.words).foldl (fun x j =>
        match vIndex g ((fieldsOfInstr i).dst.toNat + j) with | some n => markEmpty x n | none => x) x) g, none)
  | _, _ => (s, none)

def execDeq (f : Fields) (s : State) : Outcome State Fault Refusal :=
  .next (runWordThen (.deq f) (deqReady (.deq f)) (deqBar (.deq f)) (deqBody (.deq f)) (enterLeave (.deq f) (.deq []) (issuerBatch s)) s)

/-- Published records that no one has claimed: those before the first index still unpublished (R372). -/
def StageQueue.available (q : StageQueue) : Nat := ((minBy id q.unpublished).getD q.tail) - q.head

/-- The claimants of a DEQ in flight: each with the lanes that receive its record. -/
def claimants (fl : Flight) : List Mask :=
  let present : Mask := match fl.ops with | o :: _ => BitVec.ofNat 32 (nth o.data 1).toNat | [] => 0
  if deqQuad fl.instr then
    (List.range 8).filterMap fun j =>
      let m : Mask := 0xF#32 <<< (4 * j)
      if fl.pending &&& m = 0 then none else some (present &&& m)
  else (lanesOf fl.pending).map laneBit

/-- Bytes of a record, or why it cannot be read. -/
def recordBytes (s : State) (g : Group) (q : StageQueue) (i : Nat) : State × Except PortErr (List Byte) :=
  let r := engineRead s g.core g.ctx (q.slot i) q.rsz
  (shareBlock s g.ctx g.bid r.1, r.2)

/-- The records that a DEQ takes; the first that cannot be read stands for all. -/
def readRecords (g : Group) (q : StageQueue) : List Nat → State → State × Except PortErr (List (List Byte))
  | [], s => (s, .ok [])
  | i :: is, s =>
    match recordBytes s g q i with
    | (s, .error e) => (s, .error e)
    | (s, .ok b) =>
      match readRecords g q is s with
      | (s, .error e) => (s, .error e)
      | (s, .ok bs) => (s, .ok (b :: bs))

/-- A claimant's lanes receive a record; the lane at a quad position whose pass bit is clear becomes a helper (R373). -/
def takeRecord (fl : Flight) (g : Group) (lanes : Mask) (bs : List Byte) : Group :=
  let d := (fieldsOfInstr fl.instr).dst.toNat
  (lanesOf lanes).foldl (fun g l => g.modFibre l fun x =>
    let x := (List.range (bs.length / 8)).foldl (fun x j =>
      match vIndex g (d + j) with
      | some n => putLate x fl.seq n (w64 (byteField bs (8 * j) 8)) false
      | none => x) x
    let x := putPred x fl.seq 2 (deqPred fl.instr) true
    if deqQuad fl.instr && !bitN (byteField bs 4 1) (l % 4) then { x with status := x.status ||| 0x1000000#64 } else x) g

/-- The other lanes keep their registers; their predicate is false. -/
def leaveRecord (fl : Flight) (g : Group) (lanes : Mask) : Group :=
  (lanesOf lanes).foldl (fun g l => (fillLane g fl l).modFibre l fun x => putPred x fl.seq 2 (deqPred fl.instr) false) g

/-- Records taken by lanes: where one is a fragment record, its fibres are users of its raster batch (R322). -/
def useQuads (s : State) (gid pid q : Nat) (taken : List (Nat × Mask)) : State :=
  if s.rasters.isEmpty then s
  else
    { s with rasters := s.rasters.map fun r =>
        let mine := taken.filter fun t => r.quads.contains (pid, q, t.1)
        { r with
          quads := r.quads.filter fun x => !(mine.any fun t => x == (pid, q, t.1))
          users := r.users ++ mine.flatMap fun t => (lanesOf t.2).map fun l => (gid, l) } }

/-- No further record will come to a group's DEQ: its stage has ended, or its core has left the stage (R361, R363, R373). -/
def noMoreRecords (s : State) (g : Group) : Bool :=
  match groupPipe s g with
  | none => true
  | some p =>
    match p.stages[groupStage s g]? with
    | none => true
    | some st => st.ended || !st.cores.contains g.core

/-- The stage has no more records for a group: it ends as QUIT does, and its waiting DEQs with it (R97, R373). -/
def endDeqs (s : State) (gid : Nat) : State :=
  endGroup (s.modGroup gid fun g => { g with flights := g.flights.filter fun e => e.kind != .deq }) gid

/-- The DEQs in flight that claim with one: those of its batch that name the same queue, in the order of their issue lanes (R72, R373). -/
def deqMates (s : State) (g : Group) (fl : Flight) (pid q : Nat) : List (Group × Flight) :=
  (List.range 8).flatMap fun slot => s.groups.filterMap fun x =>
    if x.core = g.core ∧ x.sched = g.sched ∧ x.slot = slot ∧ (groupPipe s x).map Pipe.pid = some pid then
      (x.flights.find? fun e => e.kind == .deq && e.held.isEmpty && ((x.gid == g.gid && e.seq == fl.seq) || (fl.batch != 0 && e.batch == fl.batch))
        && (e.ops.head?).any fun o => o.ea == q).map fun e => (x, e)
    else none

/-- The batch that stands in a DEQ remembers which slots its lanes took. -/
def noteTaken (s : State) (g : Group) (batch pid q head : Nat) (cl : List Mask) : State :=
  match (s.pipe? pid).bind fun p => p.queues[q]? with
  | none => s
  | some sq =>
    let new := cl.zipIdx.flatMap fun c => (lanesOf c.1).map fun l => (g.gid, l, sq.slot (head + c.2))
    s.modBatch batch fun b =>
      match b.wait with
      | some (.deq ts) => { b with wait := some (.deq (ts ++ new)) }
      | _ => b

/-- A DEQ that meets an absent page while its group can suspend leaves flight, its registers as they were, and the group suspends with the
word's segment as successor (R365, R397; log entry 156). -/
def deqPark (s : State) (g : Group) (fl : Flight) (va : Nat) (np : Bool) : Option State :=
  if (s.context? g.ctx).all (fun c => c.fpol != 1) || fl.woff != 0 || fl.repj != 0 then none
  else
    let s := s.modGroup g.gid fun g => (lanesOf fl.pending).foldl (fun g l => fillLane g fl l) { g with flights := g.flights.filter fun e => e.seq != fl.seq }
    match s.group? g.gid with
    | some g' => trySuspend (fibreFault s g ((lowestLane fl.pending).getD 0) fl.seg fl.woff va 0 .read np) g' fl.seg fl.seg 0
    | none => none

/-- A group's DEQ takes the records of its claimants, from an index of the queue on; its other lanes' predicate is false (R373). -/
def deqGive (pid q : Nat) (s : State) (x : Group × Flight × Nat × List (List Byte)) : State :=
  let (g, fl, head, bs) := x
  let cl := (claimants fl).take bs.length
  let took := cl.foldl (fun m x => m ||| x) 0
  let s := s.modGroup g.gid fun g =>
    let g := (cl.zip bs).foldl (fun g c => takeRecord fl g c.1 c.2) g
    { leaveRecord fl g (fl.pending &&& ~~~took) with flights := g.flights.filter fun e => e.seq != fl.seq }
  let s := useQuads s g.gid pid q (((List.range bs.length).map (head + ·)).zip cl)
  let s := noteTaken s g fl.batch pid q head cl
  let s := (lanesOf took).foldl (fun s l => acquireAt s g.core g.ctx g.gid l .device) s
  quitLanes s g.gid 0

/-- Records handed to DEQs in order, each as many as it has claimants. -/
def dealRecords : Nat → List (List Byte) → List (Group × Flight) → List (Group × Flight × Nat × List (List Byte))
  | _, _, [] => []
  | head, bs, x :: xs =>
    let n := min (claimants x.2).length bs.length
    (x.1, x.2, head, bs.take n) :: dealRecords (head + n) (bs.drop n) xs

/-- A DEQ in flight takes with its batch what records there are (R373); with none it waits, or its group ends. A record that cannot be
read holds its lanes. -/
def deqTake (s : State) (g : Group) (fl : Flight) : State :=
  match groupPipe s g with
  | none => endDeqs s g.gid
  | some p =>
    match fl.ops with
    | [] => s
    | o :: _ =>
      match p.queues[o.ea]? with
      | none => s
      | some q =>
        let mates := deqMates s g fl p.pid o.ea
        let n := min q.available (sumBy (fun x : Group × Flight => (claimants x.2).length) mates)
        if n = 0 then (if noMoreRecords s g then endDeqs s g.gid else s)
        else
          match readRecords g q ((List.range n).map (q.head + ·)) s with
          | (_, .error (.held _)) => s
          | (s, .error e) =>
            let hold (s : State) : State :=
              raiseHeld (s.modGroup g.gid fun g => g.putFlight { fl with held := (lanesOf fl.pending).map fun l => (l, e.cause, e.addr) }) g.gid
            match e with
            | .page va np => (deqPark s g fl va np).getD (hold (fibreFault s g ((lowestLane fl.pending).getD 0) fl.seg fl.woff va 0 .read np))
            | _ => hold s
          | (s, .ok bs) =>
            let s := s.modPipe p.pid fun p => p.modQueue q.index fun q => { q with head := q.head + n }.mark
            (dealRecords q.head bs mates).foldl (deqGive p.pid q.index) s

/-- VARIABLE_LATENCY_RESULT of a DEQ; none for any other word. -/
def deqStep (s : State) (gid seq : Nat) : Option State :=
  match s.group? gid with
  | none => none
  | some g =>
    match g.flights.find? fun e => e.seq == seq && e.kind == .deq with
    | some fl => some (if fl.held.isEmpty then deqTake s g fl else s)
    | none => none

/-! ### EVSIG and EVWAIT (R374) -/

def evName (s : State) (c : SrcCtx) (g : Group) (l : Nat) (i : Instr) : Nat := field (srcA s c g l i) 0 16

/-- The name 0xFFFF is invalid wherever it is given (R368). A word that waits is judged already. -/
def nameBar (i : Instr) (bad : State → SrcCtx → Group → Nat → Bool) : BarFn := fun s b g present =>
  let c := srcCtx s b g
  let m := lanesWith (acting i g present) fun l => evName s c g l i == 0xFFFF || bad s c g l
  if b.wait.isSome ∨ m = 0 then none else some (.illegalOperand, m, 0, 0)

/-- A count operand of zero stands for one. -/
def countOr1 (w : Word) : Nat := if field w 0 32 = 0 then 1 else field w 0 32

/-- A synchronising word of this family issues after the batch's earlier accesses and records. -/
def syncReady (i : Instr) : ReadyFn := fun s b g present => memReady s b g present && releaseReady i s b g present

def evsigBody (i : Instr) (s : State) (b : Batch) (g : Group) (present : Mask) : State × Option TrapInfo :=
  let c := srcCtx s b g
  ((lanesOf (acting i g present)).foldl (fun s' l =>
    signalEvent (commitBlock (releaseAt s' g.core g.ctx g.gid l .system) g.bid) g.ctx (evName s c g l i) (countOr1 (srcB s c g l i))) s, none)

def execEvsig (f : Fields) (s : State) : Outcome State Fault Refusal :=
  .next (runWord (.evsig f) (syncReady (.evsig f)) (nameBar (.evsig f) fun _ _ _ _ => false) (evsigBody (.evsig f)) s)

/-- The waits of a group's acting lanes that are not met: event and target. -/
def evUnmetIn (i : Instr) (s : State) (b : Batch) (g : Group) (present : Mask) : List (Nat × Nat) :=
  let c := srcCtx s b g
  (lanesOf (acting i g present)).filterMap fun l =>
    let t := field (srcB s c g l i) 0 32
    if eventMet s g.ctx (evName s c g l i) t then none else some (evName s c g l i, t)

/-- The waits of a batch that are not met. -/
def evUnmet (i : Instr) (s : State) (b : Batch) : List (Nat × Nat) :=
  b.members.flatMap fun m =>
    match s.group? m.gid with
    | none => []
    | some g => evUnmetIn i s b g (m.present false)

/-- EVWAIT is entered as a memory word is, and left once its waiter has been released. -/
def evwaitReady : ReadyFn := fun s b g present =>
  match b.wait with
  | some (.event r) => r
  | _ => memReady s b g present

/-- The end of the wait: an acquire at device scope. -/
def evwaitBody (i : Instr) (s : State) (b : Batch) (g : Group) (present : Mask) : State × Option TrapInfo :=
  if b.wait.isSome then ((lanesOf (acting i g present)).foldl (fun s l => acquireAt s g.core g.ctx g.gid l .device) s, none) else (s, none)

def execEvwait (f : Fields) (s : State) : Outcome State Fault Refusal :=
  .next (runWordThen (.evwait f) evwaitReady (nameBar (.evwait f) fun _ _ _ _ => false) (evwaitBody (.evwait f))
    (enterLeave (.evwait f) (.event false) (issuerBatch s)) s)

/-- EVENT_WAITER_RELEASE: a batch whose waits are all met is released (R369). -/
def evRelease (s : State) (batch : Nat) : State :=
  match s.batch? batch with
  | none => s
  | some b =>
    match b.wait, (fetchInstr s b).2 with
    | some (.event false), .ok i => if (evUnmet i s b).isEmpty then s.modBatch batch fun b => { b with wait := some (.event true) } else s
    | _, _ => s

def execEventWaiterRelease (batch : Nat) (s : State) : Outcome State Fault Refusal := .next (evRelease s batch)

/-- A group that has waited 4096 clocks suspends, where R365 holds, on the first of its waits that is not met. -/
def evLeave (batch : Nat) (s : State) (gid : Nat) : State :=
  match s.batch? batch with
  | none => s
  | some b =>
    if b.wait ≠ some (.event false) ∨ !waitMay s gid then s
    else
      match longWait s b gid with
      | some (.evwait f, g, m) =>
        (match evUnmetIn (.evwait f) s b g m with
         | (ev, t) :: _ => (trySuspend s g b.seg (succVal (.evwait f) s b g) (waitEvent ev t)).getD s
         | [] => s)
      | _ => s

/-- EVWAIT_SUSPEND: each group of a batch that has waited long enough suspends. -/
def evSuspend (s : State) (batch : Nat) : State := (batchGids s batch).foldl (evLeave batch) s

def execEvwaitSuspend (batch : Nat) (s : State) : Outcome State Fault Refusal := .next (evSuspend s batch)

/-! ### SUSPEND (R375) -/

/-- SUSPEND names no successor: no suspension (R371). -/
def suspendNone (i : Instr) : Bool := (fieldsOfInstr i).sb == 0x0CA

def suspendSucc (i : Instr) (s : State) (b : Batch) (g : Group) : Nat := field (srcB s (srcCtx s b g) g 0 i) 0 18
def suspendWait (i : Instr) (s : State) (b : Batch) (g : Group) : Word := srcA s (srcCtx s b g) g 0 i

/-- The record a SUSPEND would write, and what its page answers. -/
def suspendPage (s : State) (g : Group) (n : Nat) : Except PortErr Unit :=
  match s.context? g.ctx with
  | none => .error (.access 0)
  | some c => (match (portParts s g.core g.ctx (c.recordAddr n) 8192 .write []).2 with | .ok _ => .ok () | .error e => .error e)

/-- SUSPEND's causes (R377). One that asks for no suspension still stands where SUSPEND may and gives a descriptor, while R365's further
conditions say nothing of it (DEDUCED, log entry 226). -/
def suspendBar (i : Instr) : BarFn := fun s b g present =>
  let isTask := match s.launch? g.lid with | some l => l.isTask | none => false
  let asm := match s.object? g.ctx g.obj with | some o => (nth o.segs b.seg).asm == 2 | none => false
  if !isTask || !asm then some (.accessFault, present, 0, 0)
  else if suspendNone i then (if (contWait (suspendWait i s b g)).isSome then none else some (.illegalOperand, present, 0, 0))
  else
    match suspendRecord s g b.seg (suspendSucc i s b g), contWait (suspendWait i s b g) with
    | some n, some _ =>
      (match suspendPage s g n with
       | .error (.access va) => some (.accessFault, present, 0, va)
       | _ => none)
    | _, _ => some (.illegalOperand, present, 0, 0)

/-- SUSPEND issues once the group's registers are full and its writes performed, and the record's page holds no open fault. -/
def suspendWordReady (i : Instr) : ReadyFn := fun s b g present =>
  memReady s b g present && (suspendNone i ||
  match suspendRecord s g b.seg (suspendSucc i s b g) with
  | none => true
  | some n =>
    suspendReady s g (suspendSucc i s b g)
      && (match s.context? g.ctx with | some c => !(s.faults.any (sameFault g.ctx (c.recordAddr n))) | none => true))

/-- The group suspends; a record whose page is absent has its fault filed and the word stays where it is. -/
def suspendBody (i : Instr) (s : State) (b : Batch) (g : Group) (present : Mask) : State × Option TrapInfo :=
  if suspendNone i then (s, none) else
  match suspendRecord s g b.seg (suspendSucc i s b g) with
  | none => (s, none)
  | some n =>
    match suspendPage s g n with
    | .error (.page va np) => (fibreFault s g ((lowestLane present).getD 0) b.seg b.woff va 0 .write np, none)
    | _ => ((suspendGroup s g.gid (suspendSucc i s b g) (suspendWait i s b g) n).getD s, none)

def execSuspend (f : Fields) (s : State) : Outcome State Fault Refusal :=
  .next (runWordThen (.suspend f) (suspendWordReady (.suspend f)) (suspendBar (.suspend f)) (suspendBody (.suspend f))
    (fun s id => if suspendNone (.suspend f) then advanceBatch s id (.suspend f) else s) s)

/-! ### SPAWN and DCDEC (R376) -/

def spawnCount (s : State) (c : SrcCtx) (g : Group) (l : Nat) (i : Instr) : Nat := field (srcA s c g l i) 16 32

/-- A counter name that is live, that groups before this one make live, or that a lower lane does. -/
def spawnTaken (i : Instr) (names : List Nat) (lanes : Mask) (s : State) (c : SrcCtx) (g : Group) (l : Nat) : Bool :=
  names.contains (evName s c g l i) || (s.counter? g.ctx (evName s c g l i)).isSome
    || (lanesOf lanes).any fun m => decide (m < l) && evName s c g m i == evName s c g l i && spawnCount s c g m i != 0

/-- The names that groups of a batch make live, one group after the other; one that traps makes none (R106, R377). -/
def spawnNames (i : Instr) (s : State) (b : Batch) (ms : List Member) : List Nat :=
  ms.foldl (fun names m =>
    match s.group? m.gid with
    | none => names
    | some g =>
      let present := m.present false
      let c := srcCtx s b g
      if (nameBar i (spawnTaken i names (acting i g present)) s b g present).isSome || wordVerdict s b g present i != .ok then names
      else names ++ ((lanesOf (acting i g present)).filter fun l => spawnCount s c g l i != 0).map fun l => evName s c g l i) []

def spawnBar (i : Instr) : BarFn := fun s b g present =>
  nameBar i (spawnTaken i (spawnNames i s b (b.members.takeWhile fun m => m.gid != g.gid)) (acting i g present)) s b g present

def spawnBody (i : Instr) (s : State) (b : Batch) (g : Group) (present : Mask) : State × Option TrapInfo :=
  let c := srcCtx s b g
  ((lanesOf (acting i g present)).foldl (fun s' l =>
    let bs := packetBytes ((List.range 8).map fun j => spanVal s c g l (fieldsOfInstr i).sb.toNat j)
    let name := evName s c g l i
    let n := spawnCount s c g l i
    let s' : State := { commitBlock s' g.bid with counters := s'.counters ++ [⟨g.ctx, name, n, bs, none, (s'.loaded? g.ctx (launchOf bs).code).isSome⟩] }
    if n = 0 then fireCounter s' g.ctx name else s') s, none)

def execSpawn (f : Fields) (s : State) : Outcome State Fault Refusal :=
  .next (runWord (.spawn f) memReady (spawnBar (.spawn f)) (spawnBody (.spawn f)) s)

def dcdecBody (i : Instr) (s : State) (b : Batch) (g : Group) (present : Mask) : State × Option TrapInfo :=
  let c := srcCtx s b g
  ((lanesOf (acting i g present)).foldl (fun s' l =>
    decCounter (commitBlock (releaseAt s' g.core g.ctx g.gid l .device) g.bid) g.ctx (evName s c g l i) (countOr1 (srcB s c g l i))) s, none)

def execDcdec (f : Fields) (s : State) : Outcome State Fault Refusal :=
  .next (runWord (.dcdec f) (syncReady (.dcdec f)) (nameBar (.dcdec f) fun _ _ _ _ => false) (dcdecBody (.dcdec f)) s)

end Sys2Proof.Machine
end

