-- ==== Sys2Proof/Machine/System.lean ====
section
/-! DEFINITION. System words: TRAP, RFT, SREAD, SWRITE, TIME, ERD, BRK, DBGMB and PMCAP (R32 to R40, R352, R440 to R444, R457, R463, R464,
R484). -/

namespace Sys2Proof.Machine

open Host (Outcome)

/-! ### TRAP and RFT (R441, R442) -/

/-- The 16-bit code of a word. -/
def imm16 (f : Fields) : Nat := (imm18 f).toNat % 2 ^ 16

def trapBody (f : Fields) (s : State) (b : Batch) (g : Group) (present : Mask) : State × Option TrapInfo :=
  let lanes := g.actors present f
  (s, if lanes = 0 then none else some (afterTrap b g .soft 1 lanes (imm16 f) 0))

def execTrap (f : Fields) (s : State) : Outcome State Fault Refusal := .next (plainWord (.trap f) (trapBody f) s)

/-- RFT acts as a fence: earlier words of its lanes have ended. -/
def rftReady : ReadyFn := fun _ _ g present => !(g.flights.any fun fl => fl.standsIn present)

def rftBar : BarFn := fun _ _ g present => if g.privileged then none else some (.accessFault, present, 0, 0)

/-- The lanes that issue RFT leave the batch and wait for the others; with the last the handler is left. -/
def rftBody (s : State) (b : Batch) (g : Group) (present : Mask) : State × Option TrapInfo :=
  let s := (lanesOf present).foldl (fun s l =>
    acquireAt (releaseAt s g.core g.ctx g.gid l .device) g.core g.ctx g.gid l .device) s
  let s := removeLanes (s.modGroup g.gid fun g => settleK { g with rft := g.rft ||| present } b.id) g.gid present
  (tryReturn s g.gid, none)

def execRft (f : Fields) (s : State) : Outcome State Fault Refusal := .next (runWord (.rft f) rftReady rftBar rftBody s)

/-! ### SREAD and SWRITE (R32, R443, R444) -/

/-- The classes of R32. -/
inductive RegClass where
  | fibre | group | context | debug
deriving DecidableEq, Repr, Inhabited

/-- A system register's class, and whether it has a writable field (R32). -/
def sysReg (n : Nat) : Option (RegClass × Bool) :=
  match n with
  | 0x00 => some (.fibre, true)
  | 0x01 | 0x02 | 0x06 => some (.fibre, false)
  | 0x03 | 0x04 => some (.group, false)
  | 0x05 => some (.group, true)
  | 0x07 => some (.context, false)
  | 0x08 | 0x10 | 0x11 => some (.context, true)
  | 0x20 | 0x22 | 0x23 => some (.debug, true)
  | 0x21 => some (.debug, false)
  | _ => none

/-- What bars an access of a system register in a group (R32, R444). -/
def sysFail (g : Group) (n : Nat) (writes : Bool) : Option Cause :=
  match sysReg n with
  | none => some .illegalOperand
  | some (c, w) =>
    let breach := match c with
      | .fibre | .group => false
      | .context => !(g.privileged || g.dbg)
      | .debug => true
    if breach || (writes && !w) then some .accessFault else none

def sysNumber (f : Fields) : Nat := (imm18 f).toNat % 256

def sysBar (i : Instr) (writes : Bool) : BarFn := fun _ _ g present =>
  let lanes := partLanes g present i
  if lanes = 0 then none else (sysFail g (sysNumber (fieldsOfInstr i)) writes).map fun c => (c, lanes, 0, 0)

/-- STATUS with every predicate written so far; its reserved bits read zero (R3, R33, R35). -/
def statusNow (x : Fibre) : Word :=
  let p := x.pend.foldl (fun w q => match q.dst with
    | .p n => if q.val.getLsbD 0 then w ||| (1#64 <<< n) else w &&& ~~~(1#64 <<< n)
    | _ => w) x.status
  w64 (field p 0 30)

/-- A system register as a lane reads it (R33 to R40, R350, R351, R431, R432, R456). -/
def sysValue (s : State) (g : Group) (l n : Nat) : Word :=
  let c := (s.context? g.ctx).getD default
  match n with
  | 0x00 => statusNow (g.fibre l)
  | 0x01 => w64 (g.fibre l).safeord
  | 0x02 => w64 g.plimit
  | 0x03 => w64 g.pbase
  | 0x04 => w64 g.carve
  | 0x05 => w64 (g.lprio * 256 + g.cprio)
  | 0x06 => w64 s.gts
  | 0x07 => w64 (c.energy / 160000000)
  | 0x08 => w64 (s.chipBudget * 2 ^ 32 + c.budget)
  | 0x10 => c.trapbase
  | 0x11 => c.trapframe
  | _ => 0

/-- SREAD's value is taken at issue; flags still to come from earlier words reach it before it is written (R35). -/
def sreadBody (i : Instr) (s : State) (b : Batch) (g : Group) (present : Mask) : State × Option TrapInfo :=
  let n := sysNumber (fieldsOfInstr i)
  let ops := (lanesOf (partLanes g present i)).map fun l => (⟨l, 0, 0, [sysValue s g l n], n, 0⟩ : LaneOp)
  ((launchFlight i .sread ops s b g).1, none)

def execSread (f : Fields) (s : State) : Outcome State Fault Refusal :=
  .next (runWord (.sread f) alwaysReady (sysBar (.sread f) false) (sreadBody (.sread f)) s)

/-- SWRITE of STATUS waits for every earlier word of its lanes that may raise flags (R35). -/
def swriteReady (f : Fields) : ReadyFn := fun _ _ g present =>
  sysNumber f != 0 || !(g.flights.any fun fl => (lanesOf (g.participants present f)).any fl.flagsDue)

/-- STATUS takes its writable fields; the predicates follow at their distance (R33, R35). -/
def swriteStatus (x : Fibre) (seq : Nat) (v : Word) : Fibre :=
  let st := (writeStatus x.status v &&& ~~~0xFFFE#64) ||| (x.status &&& 0xFFFE#64)
  (List.range 16).foldl (fun x n => if n = 0 then x else putPred x seq 2 n (v.getLsbD n)) { x with status := st }

/-- Of the groups that perform the word, those that trapped having left the batch, this one has the lowest-numbered participating issue
lane: it writes a context-class register (R32, R72, R428, R443). -/
def firstWriter (i : Instr) (s : State) (b : Batch) (gid : Nat) : Bool :=
  let first (m : Member) : Option (Nat × Nat) :=
    match s.group? m.gid with
    | some x => (lowestLane (x.participants (m.present false) (fieldsOfInstr i))).map fun l => (4 * x.slot + l, m.gid)
    | none => none
  (minBy (fun (p : Nat × Nat) => p.1) (((s.batch? b.id).getD b).members.filterMap first)).map Prod.snd == some gid

/-- A context-class register takes a value in its writable fields (R351, R431, R432). -/
def writeContextReg (c : Context) (n : Nat) (v : Word) : Context :=
  match n with
  | 0x08 => { c with budget := field v 0 32 }
  | 0x10 => { c with trapbase := v &&& 0x8003FFFFFFFFFFFF#64 }
  | 0x11 => { c with trapframe := v &&& 0x01FFFFFFFFFF0FFF#64 }
  | _ => c

def swriteBody (i : Instr) (s : State) (b : Batch) (g : Group) (present : Mask) : State × Option TrapInfo :=
  let f := fieldsOfInstr i
  let lanes := g.participants present f
  let c := srcCtx s b g
  let n := sysNumber f
  match lowestLane lanes with
  | none => (s, none)
  | some l0 =>
    if n = 0 then
      let (seq, s) := s.fresh
      (s.modGroup g.gid fun g1 => (lanesOf lanes).foldl (fun g1 l => g1.modFibre l fun x => swriteStatus x seq (srcA s c g l i)) g1, none)
    else if n = 5 then
      (s.modGroup g.gid fun g1 => { g1 with cprio := min (field (srcA s c g l0 i) 0 7) g1.lprio }, none)
    else if firstWriter i s b g.gid then (s.modContext g.ctx fun x => writeContextReg x n (srcA s c g l0 i), none)
    else (s, none)

def execSwrite (f : Fields) (s : State) : Outcome State Fault Refusal :=
  .next (runWord (.swrite f) (swriteReady f) (sysBar (.swrite f) true) (swriteBody (.swrite f)) s)

/-! ### TIME and ERD (R457, R352) -/

def execTime (f : Fields) (s : State) : Outcome State Fault Refusal := .next (fixedWord (.time f) (fun _ => outW (w64 s.gts)) s)

/-- ERD's selector. -/
def erdSel (i : Instr) (s : State) (b : Batch) (g : Group) (l : Nat) : Nat := field (srcA s (srcCtx s b g) g l i) 0 3

def erdBar (i : Instr) : BarFn := fun s b g present =>
  let bad := lanesWith (partLanes g present i) fun l => decide (erdSel i s b g l ≥ 5)
  if bad = 0 then none else some (.illegalOperand, bad, 0, 0)

def erdBody (i : Instr) (s : State) (b : Batch) (g : Group) (present : Mask) : State × Option TrapInfo :=
  let c := srcCtx s b g
  let ops := (lanesOf (partLanes g present i)).map fun l => (⟨l, srcA s c g l i, 0, [0], erdSel i s b g l, 0⟩ : LaneOp)
  ((launchFlight i .erd ops s b g).1, none)

def execErd (f : Fields) (s : State) : Outcome State Fault Refusal :=
  .next (runWord (.erd f) alwaysReady (erdBar (.erd f)) (erdBody (.erd f)) s)

/-! ### BRK and DBGMB (R463, R464) -/

/-- BRK: a halt wave where the trigger mask asks for it, else a BREAK trap; either resumes at the next word. -/
def brkBody (f : Fields) (s : State) (b : Batch) (g : Group) (present : Mask) : State × Option TrapInfo :=
  let lanes := g.actors present f
  if lanes = 0 then (s, none)
  else if armed s g.ctx 0 then (trigger s g.ctx 0 (groupTrig s g lanes 0x0F b.seg b.woff (imm16 f)), none)
  else (s, some (afterTrap b g .brk 1 lanes (imm16 f) 0))

def execBrk (f : Fields) (s : State) : Outcome State Fault Refusal := .next (plainWord (.brk f) (brkBody f) s)

def dbgmbBar : BarFn := fun _ _ g present => if g.dbg then none else some (.accessFault, present, 0, 0)

/-- DBGMB: mailbox slots, MASK and SEQ (R461, R463). -/
def dbgmbBody (i : Instr) (s : State) (b : Batch) (g : Group) (present : Mask) : State × Option TrapInfo :=
  let lanes := g.actors present (fieldsOfInstr i)
  let c := srcCtx s b g
  let s' : State := { s with mailbox := (lanesOf lanes).foldl (fun m l => m.set l (srcA s c g l i)) s.mailbox }
  (s'.modContext g.ctx fun x =>
    let w := x.dbgmbox
    { x with dbgmbox := (w &&& ~~~0xFF000000#64) ||| (lanes.zeroExtend 64 <<< 32) ||| (w64 ((field w 24 8 + 1) % 256) <<< 24) }, none)

def execDbgmb (f : Fields) (s : State) : Outcome State Fault Refusal :=
  .next (runWord (.dbgmb f) alwaysReady dbgmbBar (dbgmbBody (.dbgmb f)) s)

/-! ### PMCAP (R484) -/

/-- A PMCAP record of five units. -/
def pmcapRec (s : State) (c : Context) (g : Group) (kind tag : Nat) : List Byte :=
  toBytes kind 1 ++ toBytes (if g.pre && kind == 6 then 1 else 0) 1 ++ toBytes tag 1 ++ toBytes g.index 1
    ++ toBytes ((s.block? g.bid).getD default).linear 4 ++ toBytes s.gts 8 ++ toBytes c.act 8
    ++ (List.range 6).flatMap (fun j => toBytes (nth c.pmc j) 8) ++ toBytes 0 8

/-- Once per group with an acting lane: a record where PMC and EN are set; a start clears PRE. -/
def pmcapBody (i : Instr) (kind : Nat) (s : State) (b : Batch) (g : Group) (present : Mask) : State × Option TrapInfo :=
  match lowestLane (g.actors present (fieldsOfInstr i)), s.context? g.ctx with
  | some l, some c =>
    let tag := field (srcA s (srcCtx s b g) g l i) 0 8
    let s := if trPMC g && trEN g then traceRec s g (placeName s g present b.seg b.woff) (pmcapRec s c g kind tag) else s
    (s.modGroup g.gid fun g => { g with pre := if kind = 5 then false else g.pre, capOpen := kind == 5 }, none)
  | _, _ => (s, none)

def execPmcapStart (f : Fields) (s : State) : Outcome State Fault Refusal :=
  .next (plainWord (.pmcapStart f) (pmcapBody (.pmcapStart f) 5) s)

def execPmcapStop (f : Fields) (s : State) : Outcome State Fault Refusal :=
  .next (plainWord (.pmcapStop f) (pmcapBody (.pmcapStop f) 6) s)

end Sys2Proof.Machine
end

