-- ==== Sys2Proof/Machine/Publish.lean ====
section
/-! DEFINITION. PUBLISH: placing, sealing, checking and registering a code object, and retiring one (R410 to R420). -/

namespace Sys2Proof.Machine

open Host (Outcome)

/-! ### The request (R413) -/

/-- LOAD_BAD_REQUEST by the request's own fields. -/
def requestBad (bs : List Byte) : Bool :=
  let f := byteField bs
  let k := f 0 1
  !(k == 1 || k == 2) || f 1 7 != 0 || f 56 8 != 0
    || (k == 1 && (f 8 8 % 65536 != 0 || f 24 8 % 65536 != 0 || f 32 8 % 64 != 0 || f 40 8 != 0))

def rqImage (bs : List Byte) : Nat := byteField bs 8 8
def rqSize (bs : List Byte) : Nat := byteField bs 16 8
def rqExec (bs : List Byte) : Nat := byteField bs 24 8
def rqData (bs : List Byte) : Nat := byteField bs 32 8

/-! ### Placement (R414) -/

/-- Pages of the image. -/
def imagePages (bs : List Byte) : List Nat := (List.range ((rqSize bs + 65535) / 65536)).map (65536 * ·)

/-- A page's leaf, as its entry and local frame address. -/
def localLeaf (s : State) (c : Context) (va : Nat) : Option (Word × Nat) :=
  match walk s c va with
  | .leaf _ e bits => (match leafTarget e bits va with | .local pa => some (e, pa / 65536 * 65536) | _ => none)
  | _ => none

/-- The leaf of IMAGE's first page asks for staging. -/
def isStaged (s : State) (c : Context) (bs : List Byte) : Bool :=
  match localLeaf s c (rqImage bs) with | some (e, _) => pteR e && pteW e | none => false

/-- A present page of the image stands as its mode asks. -/
def pageGood (s : State) (c : Context) (bs : List Byte) (p : Nat) : Bool :=
  match localLeaf s c (rqImage bs + p) with
  | none => false
  | some (e, pa) =>
    if isStaged s c bs then
      pteR e && pteW e && !s.isSealed pa &&
      (match walk s c (rqExec bs + p) with
       | .notPresent => true
       | .malformed => false
       | .leaf _ _ _ =>
         (match localLeaf s c (rqExec bs + p) with
          | some (e', pa') => pa' == pa && pteX e' && !pteW e'
          | none => false))
    else pteR e && pteX e && s.isSealed pa

/-- The image's first page that is not present. -/
def absentPage (s : State) (c : Context) (bs : List Byte) : Option Nat :=
  (imagePages bs).find? fun p => walk s c (rqImage bs + p) == .notPresent

/-- The placement, as far as the image's pages are present, is none that R414 gives. -/
def misplaced (s : State) (c : Context) (bs : List Byte) : Bool :=
  let im := rqImage bs
  let ex := rqExec bs
  (imagePages bs).isEmpty || decide (im + rqSize bs > 2 ^ 57) || decide (ex + rqSize bs > 2 ^ 57)
    || (if isStaged s c bs then ex == im else ex != im)
    || (imagePages bs).any fun p => walk s c (im + p) != .notPresent && !pageGood s c bs p

/-- The frames of the image's present pages. -/
def imageFrames (s : State) (c : Context) (bs : List Byte) : List Nat :=
  (imagePages bs).filterMap fun p => (localLeaf s c (rqImage bs + p)).map Prod.snd

/-! ### Seals (R395) -/

/-- Every write that has reached a translation of some frames performs (R395, R415). -/
def performFrames (s : State) (frames : List Nat) : State :=
  (List.range coreCount).foldl (fun s c => performSome s c fun w =>
    match w.target with | .local pa => frames.contains (pa / 65536 * 65536) | _ => false) s

/-- Seal frames: writes under way perform first. -/
def sealAll (s : State) (frames : List Nat) : State :=
  let s := performFrames s frames
  { s with sealed := s.sealed ++ (frames.map (· / 65536)).filter fun n => !s.sealed.contains n }

/-- Instruction-cache lines of a context over a range are discarded on every core. -/
def icacheDrop (s : State) (ctx va n : Nat) : State :=
  { s with cores := s.cores.map fun c =>
      { c with icache := c.icache.filter fun l => !(l.1 == ctx && overlap (l.2 * 128) 128 va n)
               grinder := c.grinder.filter fun l => !(l.ctx == ctx && overlap (l.line * 128) 128 va n) } }

/-- Seals that a PUBLISH set itself are released. -/
def unsealAll (s : State) (frames : List Nat) : State := { s with sealed := s.sealed.filter fun n => !frames.contains (65536 * n) }

/-! ### Handles (R411, R419) -/

/-- Accepted work, continuations, pending tasks or running groups still use an object. -/
def objectUsed (s : State) (o : CodeObj) : Bool :=
  (s.launches.any fun l => l.ctx == o.ctx && l.code == o.handle)
    || (s.groups.any fun g => g.ctx == o.ctx && (g.obj == o.handle || (g.privileged && g.savedObj == o.handle)))
    || (s.images.any fun im => im.groups.any fun g => g.ctx == o.ctx && (g.obj == o.handle || (g.privileged && g.savedObj == o.handle)))
    || (s.counters.any fun c => c.named && c.ctx == o.ctx && byteField c.packet 4 8 == o.handle)

/-- Retired objects that nothing uses any more give their slots back. -/
def purgeRetired (s : State) : State := { s with objects := s.objects.filter fun o => !(o.retired && !objectUsed s o) }

/-- The lowest free slot (R411). -/
def freeSlot (s : State) : Option Nat :=
  (List.range 16382).findSome? fun i => if s.objects.any fun o => o.slot == i + 2 then none else some (i + 2)

def slotCount (s : State) (n : Nat) : Nat := match s.slotCounts.find? fun p => p.1 == n with | some p => p.2 | none => 0

/-- Register an object in a free slot. -/
def registerObj (s : State) (slot : Nat) (o : CodeObj) : State × Nat :=
  let n := slotCount s slot
  let o : CodeObj := { o with slot := slot, count := n }
  ({ s with objects := s.objects ++ [o], slotCounts := (slot, (n + 1) % 2 ^ 18) :: s.slotCounts.filter fun p => p.1 != slot }, o.handle)

/-! ### The word (R415 to R418) -/

/-- KD on failure. -/
def loadFail (code detail : Nat) : Word := w64 (2 ^ 63 + detail * 256 + code)

/-- How an attempt at a PUBLISH ends. -/
inductive PubEnd where
  /-- done: the result register -/
  | done (kd : Word)
  /-- parked at an address whose fault is filed -/
  | park (va : Nat) (np : Bool) (acc : Access)
  /-- another PUBLISH holds a frame -/
  | wait
deriving DecidableEq, Repr, Inhabited

/-- What a PUBLISH in flight keeps: the failure it has still to report, its turn at step 2, the request as it was read, and the frames of
its image (R415, R420). -/
def pubData (fail : Word) (turn : Nat) (req : List Byte) (frames : List Nat) : List Word :=
  [fail, w64 turn] ++ ((List.range 8).map fun i => w64 (byteField req (8 * i) 8)) ++ frames.map w64

def LaneOp.pubFail (op : LaneOp) : Word := nth op.data 0
def LaneOp.pubTurn (op : LaneOp) : Nat := (nth op.data 1).toNat
def LaneOp.pubReq (op : LaneOp) : Option (List Byte) :=
  if op.data.length < 10 then none else some (((op.data.drop 2).take 8).flatMap fun w => toBytes w.toNat 8)
def LaneOp.pubFrames (op : LaneOp) : List Nat := (op.data.drop 10).map BitVec.toNat

/-- The frames that a PUBLISH in flight has reached step 2 with. -/
def pubFrames (fl : Flight) : List Nat := match fl.kind, fl.ops with
  | .publish, o :: _ => o.pubFrames
  | _, _ => []

/-- The frames whose seals are this PUBLISH's own. -/
def LaneOp.ownSeals (op : LaneOp) : List Nat := if op.tgt = 2 then op.pubFrames else []

/-- RES takes a write, or why it does not. -/
def resPort (s : State) (g : Group) (op : LaneOp) : Except PortErr Unit :=
  (portParts s g.core g.ctx (op.ea + 48) 8 .write []).2.map fun _ => ()

/-- RES is written and the result known; RES that allows no write leaves the outcome in the register alone. -/
def pubReport (s : State) (g : Group) (op : LaneOp) (code detail : Nat) (kd : Word) : State × LaneOp × PubEnd :=
  match engineWrite s g.core g.ctx (op.ea + 48) (toBytes code 4 ++ toBytes detail 4) with
  | (s, .error (.page va np)) => (s, op, .park va np .write)
  | (s, .error (.held _)) => (s, op, .wait)
  | (s, _) => (s, op, .done kd)

/-- A failure: the seals this PUBLISH set are released, and RES tells the code (R415). -/
def pubFail (s : State) (g : Group) (op : LaneOp) (code detail : Nat) : State × LaneOp × PubEnd :=
  let kd := loadFail code detail
  pubReport (unsealAll s op.ownSeals) g { op with tgt := 0, data := pubData kd 0 [] [] } code detail kd

/-- Retire an object (R419). -/
def pubRetire (s : State) (g : Group) (op : LaneOp) (bs : List Byte) : State × LaneOp × PubEnd :=
  let h := byteField bs 40 8
  match s.loaded? g.ctx h with
  | none => pubFail s g op 1 0
  | some o =>
    if o.loader then pubFail s g op 1 0
    else
      match resPort s g op with
      | .error (.page va np) => (s, op, .park va np .write)
      | .error (.held _) => (s, op, .wait)
      | .error _ => (s, op, .done (loadFail 3 0))
      | .ok _ =>
        let s : State := { s with objects := s.objects.map fun x => if x.ctx == g.ctx && x.handle == h then { x with retired := true } else x }
        pubReport (purgeRetired s) g op 0 0 (w64 h)

/-- The writable data of an image. -/
def imageData (img : List Byte) : List Byte := match findSection (sectionsOf img) 7 with | some x => x.bytes img | none => []

/-- Steps 4 to 7: the image is read, checked, its data copied and its object registered (R415). -/
def pubLoad (s : State) (g : Group) (op : LaneOp) (bs : List Byte) : State × LaneOp × PubEnd :=
  match engineRead s g.core g.ctx (rqImage bs) (rqSize bs) with
  | (s, .error (.page va np)) => (s, op, .park va np .read)
  | (s, .error (.held _)) => (s, op, .wait)
  | (s, .error _) => pubFail s g op 3 0
  | (s, .ok img) =>
    match loadErr s.firmware img (rqSize bs) (rqData bs), nativeSections (sectionsOf img) with
    | some (c, d), _ => pubFail s g op c d
    | none, none => pubFail s g op 7 0
    | none, some q =>
      let s := purgeRetired s
      match freeSlot s with
      | none => pubFail s g op 14 0
      | some slot =>
        match (portParts s g.core g.ctx (rqData bs) (imageData img).length .write []).2, resPort s g op with
        | .error (.page va np), _ => (s, op, .park va np .write)
        | .error (.held _), _ => (s, op, .wait)
        | .error _, _ => pubFail s g op 3 0
        | .ok _, .error (.page va np) => (s, op, .park va np .write)
        | .ok _, .error (.held _) => (s, op, .wait)
        | .ok _, .error _ => pubFail s g op 3 0
        | .ok _, .ok _ =>
          let s := if imageData img = [] then s else (engineWrite s g.core g.ctx (rqData bs) (imageData img)).1
          let s := icacheDrop (icacheDrop s g.ctx (rqImage bs) (rqSize bs)) g.ctx (rqExec bs) (rqSize bs)
          let r := registerObj s slot (objectOf img g.ctx (rqExec bs) q)
          pubReport (commitBlock r.1 g.bid) g op 0 0 (w64 r.2)

/-- Another PUBLISH that reached step 2 earlier holds one of some frames, or may yet: of its own context, one whose request is not read or names
the same addresses (R420). -/
def framesHeld (s : State) (ctx turn : Nat) (bs : List Byte) (frames : List Nat) : Bool :=
  s.groups.any fun g => g.flights.any fun fl => match fl.kind, fl.ops with
    | .publish, o :: _ =>
      o.pubTurn != 0 && decide (o.pubTurn < turn) && (o.pubFrames.any frames.contains || (g.ctx == ctx && match o.pubReq with
        | none => true
        | some q => overlap (rqImage q) (rqSize q) (rqImage bs) (rqSize bs)))
    | _, _ => false

/-- What the header says of SIZE and DATA breaks R413: SIZE is read first, then the header and section headers, where they can be. -/
def askedBad (s : State) (g : Group) (bs : List Byte) : State × Except PortErr Bool :=
  match engineReadN s g.core g.ctx (rqImage bs + 8) 8 with
  | (s, .error e) => (s, .error e)
  | (s, .ok n) =>
    if n ≠ rqSize bs then (s, .ok true)
    else
      match engineRead s g.core g.ctx (rqImage bs) (min (rqSize bs) 2112) with
      | (s, .error (.page va np)) => (s, .error (.page va np))
      | (s, .error _) => (s, .ok false)
      | (s, .ok img) => (s, .ok (imageRequestBad img (rqSize bs) (rqData bs)))

/-- Steps 2 and 3 of a publish: the rest of R413, its turn over the frames of its image, their placement and their seals; what is known to fail
is told before an absent page parks (R414 to R416, R420). -/
def pubPlace (s : State) (g : Group) (c : Context) (op : LaneOp) (bs : List Byte) : State × LaneOp × PubEnd :=
  let frames := imageFrames s c bs
  let op : LaneOp := { op with data := pubData 0 op.pubTurn bs frames }
  match askedBad s g bs with
  | (s, .error (.page va np)) => (s, op, .park va np .read)
  | (s, .error (.held _)) => (s, op, .wait)
  | (s, .error _) => pubFail s g op (if misplaced s c bs then 2 else 3) 0
  | (s, .ok true) => pubFail s g op 1 0
  | (s, .ok false) =>
    if framesHeld s g.ctx op.pubTurn bs frames then (s, op, .wait)
    else if misplaced s c bs then pubFail s g op 2 0
    else
      match absentPage s c bs with
      | some p => (s, op, .park (rqImage bs + p) true .read)
      | none =>
        let staged := isStaged s c bs
        pubLoad (if staged then sealAll s frames else performFrames s frames) g { op with tgt := if staged then 2 else 1 } bs

/-- Step 1, as `fence.acqrel.device` for some lanes (R126, R415). -/
def pubFence (s : State) (g : Group) (lanes : Mask) : State :=
  (lanesOf lanes).foldl (fun s l => acquireAt (releaseAt s g.core g.ctx g.gid l .device) g.core g.ctx g.gid l .device) s

/-- One attempt at a PUBLISH. `op.tgt` tells how far it has come: 0 before step 3, 1 after it in place, 2 after it staged, 3 before step 1, where
a stop has set it back. It reaches step 2, and takes its turn, before it reads the request (R415, R420). -/
def pubTry (s : State) (g : Group) (lanes : Mask) (op : LaneOp) : State × LaneOp × PubEnd :=
  if op.pubFail ≠ 0 then pubReport s g op (op.pubFail.toNat % 256) (field op.pubFail 8 32) op.pubFail
  else
    let s := if op.tgt = 3 then pubFence s g lanes else s
    let (turn, s) := if op.pubTurn = 0 then s.fresh else (op.pubTurn, s)
    let op : LaneOp := if op.pubTurn = 0 then { op with tgt := 0, data := [0, w64 turn] } else op
    match op.pubReq, s.context? g.ctx with
    | some bs, some c => if op.tgt = 0 then pubPlace s g c op bs else pubLoad s g op bs
    | none, some c =>
      (match engineRead s g.core g.ctx op.ea 64 with
       | (s, .error (.page va np)) => (s, op, .park va np .read)
       | (s, .error (.held _)) => (s, op, .wait)
       | (s, .error _) => pubFail s g op 3 0
       | (s, .ok bs) =>
         if requestBad bs then pubFail s g op 1 0
         else if byteField bs 0 1 = 2 then pubRetire s g op bs
         else pubPlace s g c op bs)
    | _, none => (s, op, .wait)

/-- The state and flight after an attempt at a PUBLISH. -/
def pubAfter (g : Group) (fl : Flight) (lane : Nat) (r : State × LaneOp × PubEnd) : State :=
  match r with
  | (s, _, .done kd) => reapGroup (s.modGroup g.gid fun g => (writeLane g fl lane [kd]).putFlight (fl.finish lane)) g.gid
  | (s, op, .park va np acc) =>
    (fibreFault s g lane fl.seg fl.woff va 0 acc np).modGroup g.gid fun g => g.putFlight { fl with ops := [op], held := [(lane, .pageFault, va)] }
  | (s, op, .wait) => s.modGroup g.gid fun g => g.putFlight { fl with ops := [op] }

/-- VARIABLE_LATENCY_RESULT of a PUBLISH: one attempt; a parked one goes on once its page's record has closed, and one whose record was
failed ends as its access would: RES stays unwritten, or the load fails (R398, R416). None for any other word. -/
def publishStep (s : State) (gid seq : Nat) : Option State :=
  match s.group? gid with
  | none => none
  | some g =>
    match g.flights.find? fun e => e.seq == seq && e.kind == .publish with
    | none => none
    | some fl =>
      match fl.ops with
      | [] => some s
      | op :: _ =>
        match fl.held with
        | [] =>
          let r := pubTry s g fl.lanes op
          some (pubAfter g fl op.lane (shareBlock s g.ctx g.bid r.1, r.2))
        | (_, .pageFault, va) :: _ =>
          if s.faults.any (sameFault g.ctx va) then some s else some (s.modGroup gid fun g => g.putFlight { fl with held := [] })
        | (_, _, va) :: _ =>
          if va = op.ea + 48 then
            some (pubAfter g fl op.lane (unsealAll s op.ownSeals, op, .done (if op.pubFail = 0 then loadFail 3 0 else op.pubFail)))
          else some (pubAfter g { fl with held := [] } op.lane (pubFail s g op 3 0))

/-- A PUBLISH in flight that has not registered its object gives its seals back and begins again after resume (R420). -/
def unsealFlights (s : State) (g : Group) : State :=
  let s := g.flights.foldl (fun s fl => match fl.kind, fl.ops with
    | .publish, o :: _ => unsealAll s o.ownSeals
    | _, _ => s) s
  let back (fl : Flight) : Flight :=
    if fl.kind = .publish then { fl with ops := fl.ops.map fun o => if o.pubFail = 0 then { o with tgt := 3, data := [0, 0] } else o } else fl
  s.modGroup g.gid fun g => { g with flights := g.flights.map back }

/-- PUBLISH's request address, aligned to 64 (R420). -/
def publishBar (i : Instr) : BarFn := fun s b g present =>
  let a := (srcA s (srcCtx s b g) g 0 i).toNat
  if g.actors present (fieldsOfInstr i) = 0 then none
  else if a % 64 ≠ 0 then some (.align, present, 0, a) else none

/-- PUBLISH enters flight once per group with a worker in the batch; it first acts as a fence (R415, R418). -/
def publishBody (i : Instr) (s : State) (b : Batch) (g : Group) (present : Mask) : State × Option TrapInfo :=
  match lowestLane (g.actors present (fieldsOfInstr i)) with
  | none => (s, none)
  | some l =>
    let s := pubFence s g present
    let a := srcA s (srcCtx s b g) g l i
    ((launchFlight i .publish [⟨l, a, 0, [0, 0], a.toNat, 0⟩] s b g).1, none)

def execPublish (f : Fields) (s : State) : Outcome State Fault Refusal :=
  .next (runWord (.publish f) (syncReady (.publish f)) (publishBar (.publish f)) (publishBody (.publish f)) s)

end Sys2Proof.Machine
end

