-- ==== Sys2Proof/Machine/March.lean ====
section
/-! DEFINITION. Ray jobs and PRUNE: MARCH, span evaluation, OPAQUE replies, the end of a job, and pruning in memory (R299 to R304, R315 to
R318, R323). -/

namespace Sys2Proof.Machine

open Host (Outcome)

/-! ### What the engines of a core read and write -/

/-- A read by an engine operation of a fibre: the fibre's own earlier writes, and those it has read or acquired, are seen; other writes
still on their way out of the core may be, and are then on their way no longer (R136, R137, R139, R140). -/
def jobRead (s : State) (core ctx gid lane va n : Nat) : State × Except PortErr (List Byte) :=
  match portParts s core ctx va n .read [] with
  | (s, .error e) => (s, .error e)
  | (s, .ok parts) =>
    let home := homeBytes s parts
    if home.2 then (s, .error (.poison va))
    else
      let s := chargeHome s ctx 7500 0 parts
      let near (w : PendWrite) : Bool := w.ctx == ctx && overlap w.va w.bytes.length va n
      let own (w : PendWrite) : Bool := near w && ((w.gid == gid && w.lane == lane) || w.seen.contains (gid, lane))
      let s1 := performSome s core own
      let s2 := performSome s core near
      let old := (homeBytes s1 parts).1
      let new := (homeBytes s2 parts).1
      if s.choose 4 old new = old then (s1, .ok old) else (s2, .ok new)

/-- The reads of an engine operation. -/
def jobRd (core ctx gid lane : Nat) : Rd := fun s va n => jobRead s core ctx gid lane va n

/-- One indivisible read-modify-write of a 32-bit location by an engine, never of a host page (R108, R143, R304, R320): the old value. -/
def engineRmw (s : State) (core ctx va : Nat) (acc : Access) (f : Nat → Option Nat) : State × Except PortErr Nat :=
  match portParts s core ctx va 4 acc [] with
  | (s, .error e) => (s, .error e)
  | (s, .ok []) => (s, .error (.access va))
  | (s, .ok ((_, _, t) :: _)) =>
    let isHost := match t with | .host _ => true | _ => false
    if isHost && acc != .read then (s, .error (.access va))
    else
      let s := settleAt s core ctx va 4
      match readTarget s t 4 with
      | (_, true) => (s, .error (.poison va))
      | (bs, false) =>
        let s := serveCtx s ctx 7501 t 4 0
        match f (ofBytes bs) with
        | some v => (writeTarget s t (toBytes v 4), .ok (ofBytes bs))
        | none => (s, .ok (ofBytes bs))

/-- The code at an index of a scene's bytecode (R301). -/
def codeFetch (rd : Rd) (x : Scene) (bid i : Nat) (s : State) : State × Except PortErr Nat :=
  let r := if x.scratch then (s, scratchLoad s bid (x.code + 2 * i) 2) else rd s (x.code + 2 * i) 2
  match r with
  | (s, .error e) => (s, .error e)
  | (s, .ok bs) => (s, .ok (ofBytes bs))

/-- The range of a scene's bytecode. -/
def codeRange (engine : Nat) (x : Scene) : LockReq := ⟨false, engine, if x.scratch then 1 else 0, x.code, 2 * x.len⟩

/-! ### Range locks that jobs share (R299) -/

/-- An entry is a marcher source of this context and range. -/
def isJobLock (ctx : Nat) (r : LockReq) (e : RltEntry) : Bool :=
  let q := sectorRange r.base r.len
  !e.dest && e.engine == 4 && e.ctx == ctx && e.space == r.space && e.base == q.1 && e.len == q.2

def jobLocked (s : State) (core ctx : Nat) (r : LockReq) : Bool :=
  (rltEntries s core).any fun e => isJobLock ctx r e.2

/-- Register a range, or share the entry that holds it. -/
def takeJobLock (s : State) (core ctx owner : Nat) (r : LockReq) : State :=
  if jobLocked s core ctx r then
    let more (x : RltEntry) : RltEntry := if isJobLock ctx r x then { x with share := x.share + 1 } else x
    s.modCore core fun c => { c with rlt := c.rlt.map (Option.map more) }
  else addLocks s core ctx owner 1 [r]

/-- Give a range back; the last job releases its entry. -/
def dropJobLock (s : State) (core ctx : Nat) (r : LockReq) : State :=
  s.modCore core fun c => { c with rlt := c.rlt.map fun e =>
    match e with
    | some x => if isJobLock ctx r x then (if x.share ≤ 1 then none else some { x with share := x.share - 1 }) else some x
    | none => none }

/-- A range waits for an earlier destination that lies over it (R156). -/
def jobLockWaits (s : State) (core ctx : Nat) (r : LockReq) : Bool :=
  let es := (rltEntries s core).map Prod.snd
  (es.filter (isJobLock ctx r)).any fun e => es.any fun f => f.dest && decide (f.order < e.order) && f.meets e

/-- New entries that ranges would take in a table: distinct ones that no entry holds. -/
def newLocks (s : State) (core ctx : Nat) (rs : List LockReq) : Nat :=
  (rs.eraseDups.filter fun r => !jobLocked s core ctx r).length

def sceneRange (scene : Nat) : LockReq := ⟨false, 4, 0, scene, 64⟩

/-! ### MARCH (R299) -/

def State.rayJob? (s : State) (core slot : Nat) : Option RayJob :=
  (s.core? core).bind fun c => c.rays.find? fun j => j.slot == slot

def putRay (s : State) (core : Nat) (j : RayJob) : State :=
  s.modCore core fun c => { c with rays := c.rays.map fun x => if x.id == j.id then j else x }

def pnan : Nat := 0x7FC00000
def pinf : Nat := 0x7F800000

/-- min(round(ta + L), tmax), moved on where it would not move (R303). -/
def nextEnd (ta : Nat) (len : XR) (tmax : Nat) : Nat :=
  let a := (xr32 ta).getD XR.zero
  let m := (xr32 tmax).getD XR.zero
  let r := match a.add len with
    | .fin d => fp32.encode (fp32.roundDy ctxRNE false d).1
    | _ => pinf
  let v := if m.lt ((xr32 r).getD XR.zero) then tmax else r
  if (xr32 v).getD XR.zero == a && a.lt m then
    (if a.sign = 0 then 1 else if a.sign > 0 then ta + 1 else ta - 1)
  else v

/-- The checks of a job's inputs and its first span (R303). -/
def RayJob.begin (j : RayJob) (x : Scene) : RayJob :=
  let vals := [j.t0, j.tmax, j.eps] ++ j.org ++ j.dir
  let nan := vals.any fun p => (fp32.decode p).isNaN
  let inf := ([j.t0] ++ j.org ++ j.dir).any fun p => (fp32.decode p).isInf
  let v (p : Nat) : XR := (xr32 p).getD XR.zero
  if nan || inf || decide ((v j.eps).sign < 0) then { j with result := some (pnan, 4) }
  else if (v j.tmax).lt (v j.t0) then { j with result := some (pinf, 1) }
  else { j with ta := j.t0, tb := nextEnd j.t0 (v x.l0) j.tmax }

/-- The block's scratchpad allocation. -/
def scrOf (s : State) (bid : Nat) : Nat := match s.block? bid with | some b => b.scr | none => 0

/-- The flight that a job belongs to, and whether its group has it in hand. -/
def jobFlight (s : State) (j : RayJob) : Option (Group × Flight) :=
  match s.group? j.gid with
  | none => none
  | some g => (g.flights.find? fun fl => fl.kind == .march && fl.pendingOps.any fun o => o.tgt == j.id).map fun fl => (g, fl)

/-- The word stands aside while its group's handler runs (R428). -/
def jobAside (s : State) (j : RayJob) : Bool :=
  match s.group? j.gid with
  | none => false
  | some g => g.aside.any fun p => p.2.kind == .march && p.2.pendingOps.any fun o => o.tgt == j.id

/-- The handler dropped the word or completed it itself: the job's group lives and no longer has it (R442). -/
def jobDropped (s : State) (j : RayJob) : Bool :=
  (match s.group? j.gid with | some g => g.alive | none => false) && (jobFlight s j).isNone && !jobAside s j

/-- Mark a job's lane held at an address, or no longer held, in its word. -/
def holdJob (s : State) (j : RayJob) (va : Option Nat) : State :=
  match jobFlight s j with
  | none => s
  | some (g, fl) =>
    let rest := fl.held.filter fun h => h.1 != j.lane
    s.modGroup g.gid fun g => g.putFlight { fl with held := match va with | some a => rest ++ [(j.lane, .pageFault, a)] | none => rest }

/-- An access of a job fails: a page fault parks it (R316, R397), anything else ends it with CODE 5 and a record (R316). -/
def rayError (s : State) (core : Nat) (j : RayJob) (acc : Access) (e : PortErr) : State :=
  match e with
  | .page va np =>
    let s := match jobFlight s j with
      | some (g, fl) => fibreFault s g j.lane fl.seg fl.woff va 3 acc np
      | none => fileFault s j.ctx va 3 acc np
    holdJob (putRay s core { j with fault := some va }) j (some va)
  | .held _ => putRay s core j
  | e => putRay (errorRecord s j.ctx 2 5 3 core j.scene e.addr) core { j with result := some (pnan, 5) }

/-- A job's descriptor has room in the table, and no earlier job of the core waits to register its own (R158, R299). -/
def sceneFits (s : State) (core : Nat) (j : RayJob) : Bool :=
  decide (newLocks s core j.ctx [sceneRange j.scene] ≤ freeLocks s core) &&
    !((s.core? core).getD default).rays.any fun x => !x.named && decide (x.id < j.id)

/-- Register a job's descriptor, where it can be. -/
def rayName (s : State) (core : Nat) (j : RayJob) : State :=
  if sceneFits s core j then putRay (takeJobLock s core j.ctx 0 (sceneRange j.scene)) core { j with named := true } else s

/-- A job reads its descriptor, registers its bytecode and begins, where nothing holds it back (R299, R301, R303). -/
def rayIntake (s : State) (core : Nat) (j : RayJob) : State :=
  if !j.named then rayName s core j
  else if jobLockWaits s core j.ctx (sceneRange j.scene) then s
  else
    match jobRd core j.ctx j.gid j.lane s j.scene 64 with
    | (s, .error e) => rayError s core j .read e
    | (s', .ok bs) =>
      if sceneBad (scrOf s j.bid) bs then putRay s' core { j with desc := some bs, result := some (pnan, 4) }
      else
        let r := codeRange 4 (sceneOf bs)
        if newLocks s core j.ctx [r] > freeLocks s core then s
        else putRay (takeJobLock s' core j.ctx 0 r) core (({ j with desc := some bs, locked := true } : RayJob).begin (sceneOf bs))

/-- The lowest free ray-job slot of a core (R299). -/
def freeRaySlot (s : State) (core : Nat) : Nat :=
  let used := ((s.core? core).getD default).rays.map RayJob.slot
  ((List.range 256).find? fun n => !used.contains n).getD 0

/-- The address and depth operands of a lane. -/
def marchScene (s : State) (c : SrcCtx) (g : Group) (l : Nat) (i : Instr) : Nat := (srcB s c g l i).toNat
def marchDepth (s : State) (c : SrcCtx) (g : Group) (l : Nat) (i : Instr) : Option Nat :=
  if (fieldsOfInstr i).sc = 0x0CA then none else some (srcC s c g l i).toNat

def marchBar (i : Instr) : BarFn := fun s b g present =>
  let c := srcCtx s b g
  let reads := readable s c g present i
  let bad (l : Nat) : Option Nat :=
    if reads [1] l && marchScene s c g l i % 64 != 0 then some (marchScene s c g l i)
    else if reads [2] l then (marchDepth s c g l i).filter fun a => a % 4 != 0
    else none
  let lanes := lanesWith (g.actors present (fieldsOfInstr i)) fun l => (bad l).isSome
  match lowestLane lanes with
  | some l => some (.align, lanes, 0, (bad l).getD 0)
  | none => none

/-- The ranges that a lane's job registers at issue: its descriptor, and its bytecode where the descriptor can be read (R153). -/
def marchRanges (s : State) (c : SrcCtx) (g : Group) (l : Nat) (i : Instr) : List LockReq :=
  let scene := marchScene s c g l i
  sceneRange scene :: match (jobRead s g.core g.ctx g.gid l scene 64).2 with
    | .ok bs => if sceneBad (scrOf s g.bid) bs then [] else [codeRange 4 (sceneOf bs)]
    | .error _ => []

/-- A free slot for every job of the batch, and entries for the ranges of the group's first job; a later job registers its own when there
is room, and the batch issues no memory or engine word before (R158, R299; log entry 201). -/
def marchReady (i : Instr) : ReadyFn := fun s b g present =>
  let ms := b.members.filterMap fun m => (s.group? m.gid).map fun g => (g, lanesOf (g.actors (m.present false) (fieldsOfInstr i)))
  let jobs := sumBy (fun (m : Group × List Nat) => m.2.length) ms
  let need := match lowestLane (g.actors present (fieldsOfInstr i)) with
    | some l => marchRanges s (srcCtx s b g) g l i
    | none => []
  memReady s b g present && decide (jobs + ((s.core? g.core).getD default).rays.length ≤ 256)
    && decide (newLocks s g.core g.ctx need ≤ freeLocks s g.core)

/-- Start one lane's job. -/
def startJob (i : Instr) (b : Batch) (g : Group) (s : State) (op : LaneOp) : State :=
  if op.tgt = 0 then s
  else
    let c := srcCtx s b g
    let w (n : Nat) : Word := spanVal s c g op.lane (fieldsOfInstr i).sa.toNat n
    let lo (n : Nat) : Nat := field (w n) 0 32
    let hi (n : Nat) : Nat := field (w n) 32 32
    let j : RayJob :=
      { id := op.tgt, slot := freeRaySlot s g.core, gid := g.gid, lane := op.lane, ctx := g.ctx, lid := g.lid, bid := g.bid, scene := op.ea,
        org := [lo 0, hi 0, lo 1], dir := [hi 1, lo 2, hi 2], t0 := lo 3, tmax := hi 3, eps := lo 4,
        cap := if hi 4 = 0 then 2 ^ 32 - 1 else hi 4, depth := marchDepth s c g op.lane i, desc := none, named := false, locked := false, ta := 0, tb := 0,
        spans := [], count := 0, deep := false, begun := false, answers := [], tag := none, room := false, fault := none,
        failed := false, result := none }
    let s := s.modCore g.core fun c => { c with rays := c.rays ++ [j] }
    if sceneFits s g.core j then rayIntake (rayName s g.core j) g.core { j with named := true } else s

/-- MARCH enters flight; helpers start no job (R79, R299). -/
def marchBody (i : Instr) (s : State) (b : Batch) (g : Group) (present : Mask) : State × Option TrapInfo :=
  let c := srcCtx s b g
  let r := (lanesOf (g.participants present (fieldsOfInstr i))).foldl (fun (r : State × List LaneOp) l =>
    let (id, s) := r.1.fresh
    let id := if (g.fibre l).helper then 0 else id
    (s, r.2 ++ [(⟨l, srcA s c g l i, srcB s c g l i, [srcC s c g l i], marchScene s c g l i, id⟩ : LaneOp)])) (s, [])
  (r.2.foldl (startJob i b g) (launchFlight i .march r.2 r.1 b g).1, none)

def execMarch (f : Fields) (s : State) : Outcome State Fault Refusal :=
  .next (runWord (.march f) (marchReady (.march f)) (marchBar (.march f)) (marchBody (.march f)) s)

/-! ### RAY_SPAN_EVAL (R303, R315) -/

/-- The algorithm's step on the bound of a span. -/
def RayJob.apply (j : RayJob) (x : Scene) (f : Iv) : RayJob :=
  let v (p : Nat) : XR := (xr32 p).getD XR.zero
  let j := { j with begun := false, answers := [] }
  let stop (t code : Nat) : RayJob := { j with result := some (t, code) }
  let clear : RayJob :=
    match j.spans with
    | (a, b) :: rest => { j with ta := a, tb := b, spans := rest }
    | [] =>
      if v j.tb == v j.tmax then stop pinf 1
      else
        let len : XR := match (v j.tb).sub? (v j.ta) with
          | some (.fin d) => (match rne32 d with | .fin d => .fin (d.scale 1) | y => y)
          | _ => .pinf
        { j with ta := j.tb, tb := nextEnd j.tb (len.min (v x.lmax)) j.tmax }
  let split : RayJob :=
    let short := match (v j.tb).sub? (v j.ta) with | some d => d.le (v j.eps) | none => true
    if short then stop j.ta 0
    else
      let tm := match v j.ta, v j.tb with
        | .fin a, .fin b => fp32.encode (fp32.roundDy ctxRNE false ((a.add b).scale (-1))).1
        | _, _ => pinf
      if (v tm).le (v j.ta) || (v j.tb).le (v tm) then stop j.ta 0
      else if j.spans.length ≥ 16 then { stop j.ta 0 with deep := true }
      else { j with spans := (tm, j.tb) :: j.spans, tb := tm }
  match f with
  | .nai => stop j.ta 3
  | .empty => clear
  | .mk lo hi => if lo.sign > 0 then clear else if hi.sign < 0 then stop j.ta 0 else split

/-- The stage queue that a scene's OPAQUE nodes call, where R372 lets the launch's stage put 64-byte records into it. -/
def engineQueue (s : State) (lid q : Nat) : Option (Pipe × StageQueue) :=
  match s.launch? lid with
  | none => none
  | some l =>
    match l.pipe.bind s.pipe? with
    | none => none
    | some p =>
      match p.queues[q]? with
      | none => none
      | some x => if x.src = l.stage ∧ x.rsz = 64 then some (p, x) else none

/-- Append a 64-byte record for a fibre as ENQ appends, with its release (R149, R372): none while the queue is full. -/
def engineAppend (s : State) (core ctx gid lane : Nat) (p : Pipe) (q : StageQueue) (bs : List Byte) : Option (State × Except PortErr Nat) :=
  if q.occupancy ≥ q.nrec then none
  else
    match engineWrite (releaseAt s core ctx gid lane .device) core ctx (q.slot q.tail) bs with
    | (s, .error e) => some (s, .error e)
    | (s, .ok ()) => some (s.modPipe p.pid fun p => p.modQueue q.index fun q => { q with tail := q.tail + 1 }.mark, .ok q.tail)

/-- An OPAQUE node appends its record and suspends the job (R315). -/
def rayAsk (s : State) (core : Nat) (j : RayJob) (x : Scene) (n : Nat) (xyz : List Iv) : State :=
  match engineQueue s j.lid (x.opq % 64) with
  | none => putRay s core { j with result := some (pnan, 4) }
  | some (p, q) =>
    let (id, s) := s.fresh
    let tag := w64 id + Config.tagBase
    let reply := x.opq / 256 % 2 ^ 49 * 256 + (core * 256 + j.slot) * 16
    let bs := toBytes tag.toNat 8 ++ toBytes reply 8 ++ toBytes n 1 ++ toBytes 0 3 ++ toBytes j.ta 4 ++ toBytes j.tb 4
      ++ (xyz.flatMap fun v => toBytes (ivWrite v).toNat 8) ++ toBytes 0 4 ++ toBytes j.scene 8
    match engineAppend s core j.ctx j.gid j.lane p q bs with
    | none => putRay s core { j with room := true }
    | some (s, .error e) => rayError s core j .write e
    | some (s, .ok _) => putRay (commitBlock s j.bid) core { j with room := false, tag := some (tag.toNat, reply) }

/-- The queue that a job waits for is still full. -/
def rayNoRoom (s : State) (j : RayJob) (x : Scene) : Bool :=
  j.room && match engineQueue s j.lid (x.opq % 64) with
    | some (_, q) => decide (q.occupancy ≥ q.nrec)
    | none => false

/-- Evaluate the span in hand. -/
def rayEval (s : State) (core : Nat) (j : RayJob) (x : Scene) : State :=
  let (s, j) := if j.begun then (s, j)
    else (countEvent (chargeCtx s j.ctx 24000) j.ctx 7 1, { j with begun := true, count := j.count + 1, answers := [] })
  let rd := jobRd core j.ctx j.gid j.lane
  let v (p : Nat) : XR := (xr32 p).getD XR.zero
  match evGo (codeFetch rd x j.bid) rd x x.len 0 (evStart x (j.org.map v) (j.dir.map v) (v j.ta) (v j.tb) j.answers) s with
  | (s, .fin f) => putRay s core (j.apply x f)
  | (s, .ask n xyz) => rayAsk s core j x n xyz
  | (s, .err e) => rayError s core j .read e
  | (s, _) => putRay s core { j with result := some (pnan, 4) }

/-- Give a job's ranges and slot back (R299). -/
def freeJob (s : State) (core : Nat) (j : RayJob) : State :=
  let s := if j.named then dropJobLock s core j.ctx (sceneRange j.scene) else s
  let s := match j.locked, j.desc with
    | true, some bs => dropJobLock s core j.ctx (codeRange 4 (sceneOf bs))
    | _, _ => s
  s.modCore core fun c => { c with rays := c.rays.filter fun x => x.id != j.id }

/-- A parked job goes on once its page's record has closed, and ends with CODE 5 where the record was failed (R316, R398). -/
def rayUnpark (s : State) (core : Nat) (j : RayJob) (va : Nat) : State :=
  if s.faults.any (sameFault j.ctx va) then s
  else if j.failed then
    holdJob (putRay (errorRecord s j.ctx 2 5 3 core j.scene va) core { j with fault := none, failed := false, result := some (pnan, 5) }) j none
  else holdJob (putRay s core { j with fault := none }) j none

/-- One step of a job that runs: it is taken in, or evaluates its span, unless it waits for a lock, a reply or room (R303). -/
def raySpan (s : State) (core : Nat) (j : RayJob) : State :=
  match j.desc with
  | none => rayIntake s core j
  | some bs =>
    let x := sceneOf bs
    if j.tag.isSome || rayNoRoom s j x || jobLockWaits s core j.ctx (codeRange 4 x) then s
    else if !j.begun && decide (j.count = j.cap) then putRay s core { j with result := some (j.ta, 2) }
    else rayEval s core j x

/-- The job as its word's lane has it now, where a handler has changed the word's A, B or DATA since it was taken in (R436, R442). -/
def jobNew? (s : State) (j : RayJob) : Option RayJob :=
  match (jobFlight s j).bind fun p => p.2.ops.find? fun o => o.tgt == j.id with
  | none => none
  | some o =>
    let k : RayJob :=
      { j with
        scene := o.ea, depth := j.depth.map fun _ => (nth o.data 0).toNat
        org := [field o.a 0 32, field o.a 32 32, nth j.org 2] }
    if k = j then none else some k

/-- A job whose word a handler has changed starts again with the new values; a new address that step 2 of R105 refuses holds its lane. -/
def rayAgain (s : State) (core : Nat) (j k : RayJob) : State :=
  let bad : Option Nat := if k.scene % 64 ≠ 0 then some k.scene else k.depth.filter fun a => a % 4 != 0
  match bad, jobFlight s j with
  | some a, some (g, fl) =>
    if fl.held.any fun h => h.1 == j.lane then s
    else raiseHeld (s.modGroup g.gid fun g => g.putFlight { fl with held := fl.held ++ [(j.lane, .align, a)] }) g.gid
  | _, _ =>
    let s := freeJob s core j
    let k : RayJob :=
      { k with
        desc := none, named := false, locked := false, spans := [], count := 0, deep := false, begun := false
        answers := [], tag := none, room := false, fault := none, failed := false, result := none }
    s.modCore core fun c => { c with rays := c.rays ++ [k] }

def raySpanEval (s : State) (core slot : Nat) : State :=
  match s.rayJob? core slot with
  | none => s
  | some j =>
    if !engineMay s j.ctx .marcher (fun st => decide (st.first ≤ j.id)) then s
    else if jobDropped s j then freeJob s core j
    else if let some k := jobNew? s j then rayAgain s core j k
    else
      match j.fault, j.result with
      | some va, _ => rayUnpark s core j va
      | none, some _ => s
      | none, none => raySpan s core j

def execRaySpanEval (core slot : Nat) (s : State) : Outcome State Fault Refusal := .next (raySpanEval s core slot)

/-- OPAQUE_REPLY: the reply area shows the job's TAG; the result is read and the job goes on (R315). -/
def opaqueReply (s : State) (core slot : Nat) : State :=
  match s.rayJob? core slot with
  | none => s
  | some j =>
    match j.tag, j.fault with
    | some (tag, reply), none =>
      if !engineMay s j.ctx .marcher (fun st => decide (st.first ≤ j.id)) then s
      else
        match jobRead s core j.ctx j.gid j.lane reply 16 with
        | (s, .error e) => rayError s core j .read e
        | (s, .ok bs) =>
          if byteField bs 8 8 ≠ tag then s
          else putRay s core { j with tag := none, answers := j.answers ++ [w64 (byteField bs 0 8)] }
    | _, _ => s

def execOpaqueReply (core slot : Nat) (s : State) : Outcome State Fault Refusal := .next (opaqueReply s core slot)

/-! ### RAY_JOB_END (R300, R304) -/

/-- The status word (R300). -/
def rayStatus (j : RayJob) (dwin : Bool) (code : Nat) : Word :=
  w64 (code + (if j.deep && code == 0 then 64 else 0) + (if dwin then 128 else 0) + j.count * 2 ^ 32)

/-- The depth update of a hit (R304): whether it lowered the stored depth. -/
def depthUpdate (s : State) (core : Nat) (j : RayJob) (t : Nat) : State × Except PortErr Bool :=
  match j.depth, j.desc with
  | some va, some bs =>
    let v := fp32.encode (fvMul fp32 ctxRNE (fp32.decode t) (fp32.decode (sceneOf bs).dsc)).1
    (match engineRmw s core j.ctx va .reduce fun old => some (fAtomic fp32 1 old v) with
     | (s, .error e) => (s, .error e)
     | (s, .ok old) =>
       let o := fp32.decode old
       (commitBlock s j.bid, .ok (o.isNaN || (fp32.decode v).ltNum o)))
  | _, _ => (s, .ok false)

/-- A job's registers turn full together, which is an acquire; its ranges and slot are given back first (R157, R300). -/
def rayFinish (s : State) (core : Nat) (j : RayJob) (t : Nat) (status : Word) : State :=
  match jobFlight s j with
  | none => freeJob s core j
  | some (g, fl) =>
    let s := (freeJob s core j).modGroup g.gid fun g => (writeLane g fl j.lane [w64 t, status]).putFlight (fl.finish j.lane)
    reapGroup (acquireAt s g.core g.ctx g.gid j.lane .device) g.gid

def rayJobEnd (s : State) (core slot : Nat) : State :=
  match s.rayJob? core slot with
  | none => s
  | some j =>
    match j.result, j.fault with
    | some (t, code), none =>
      if !engineMay s j.ctx .marcher (fun st => decide (st.first ≤ j.id)) || jobAside s j || (jobNew? s j).isSome then s
      else if code ≠ 0 then rayFinish s core j t (rayStatus j false code)
      else
        match depthUpdate s core j t with
        | (s, .ok dwin) => rayFinish s core j t (rayStatus j dwin code)
        | (s, .error e) => rayError s core j .reduce e
    | _, _ => s

def execRayJobEnd (core slot : Nat) (s : State) : Outcome State Fault Refusal := .next (rayJobEnd s core slot)

/-! ### PRUNE (R317, R318) -/

/-- The mark of a PRUNE that step 3 of R105 refuses once its descriptor has been read. -/
def pruneOver : Nat := 2 ^ 128

/-- The destination range of a PRUNE. -/
def pruneRange (off len : Nat) : LockReq := ⟨true, 2, 1, off, 2 * len⟩

/-- The offset and scene of a PRUNE. -/
def pruneOff (s : State) (c : SrcCtx) (g : Group) (i : Instr) : Nat := (srcC s c g 0 i).toNat
def pruneScene (s : State) (c : SrcCtx) (g : Group) (i : Instr) : Nat := (srcA s c g 0 i).toNat

/-- A descriptor's bytes as the words that the flight keeps, and back. -/
def descWords (bs : List Byte) : List Word := (List.range 8).map fun j => w64 (byteField bs (8 * j) 8)
def descBytes (ws : List Word) : List Byte := ws.flatMap fun w => toBytes w.toNat 8

/-- The descriptor that PRUNE reads once, when it is taken in; none where it cannot be read yet (R301). -/
def pruneDesc (s : State) (g : Group) (lane scene : Nat) : State × Option (List Byte) :=
  match jobRead s g.core g.ctx g.gid lane scene 64 with
  | (s, .ok bs) => (s, some bs)
  | (_, .error _) => (s, none)

/-- A descriptor that PRUNE may use. -/
def pruneUses (s : State) (g : Group) (scene : Nat) (bs : List Byte) : Bool := scene % 64 == 0 && !sceneBad (scrOf s g.bid) bs

/-- PRUNE's steps 2 and 3 of R105, as far as its sources can be read. -/
def pruneBar (i : Instr) : BarFn := fun s b g present =>
  let c := srcCtx s b g
  let off := pruneOff s c g i
  match lowestLane present with
  | none => none
  | some l =>
    if !readable s c g present i [2] l then none
    else if off % 2 ≠ 0 then some (.align, present, 0, off)
    else if !readable s c g present i [0] l then none
    else
      match (pruneDesc s g l (pruneScene s c g i)).2 with
      | some bs => if pruneUses s g (pruneScene s c g i) bs && decide (off + 2 * (sceneOf bs).len > scrOf s g.bid)
          then some (.accessFault, present, 0, off) else none
      | none => none

def pruneReady : ReadyFn := fun s b g present => memReady s b g present && decide (b.members.length ≤ freeLocks s g.core)

/-- PRUNE enters flight with its descriptor as the state before the word has it, which is what its checks have read: one read for both (R301). -/
def pruneBody (i : Instr) (s0 : State) (s : State) (b : Batch) (g : Group) (present : Mask) : State × Option TrapInfo :=
  match lowestLane present with
  | none => (s, none)
  | some l =>
    let c := srcCtx s b g
    let off := pruneOff s c g i
    let scene := pruneScene s c g i
    let kb (n : Nat) : Word := spanVal s c g l (fieldsOfInstr i).sb.toNat n
    let (id, s) := s.fresh
    let r := ((pruneDesc s g l scene).1, (pruneDesc s0 g l scene).2)
    let d := r.2.filter (pruneUses s g scene)
    let s := match d with
      | some bs => addLocks r.1 g.core g.ctx id 1 [pruneRange off (sceneOf bs).len]
      | none => r.1
    let data := [w64 off, kb 0, kb 1, kb 2] ++ (match r.2 with | some bs => descWords bs | none => [])
    ((launchFlight i .prune [⟨l, w64 scene, kb 0, data, scene, if d.isSome then id else 0⟩] s b g).1, none)

def execPrune (f : Fields) (s : State) : Outcome State Fault Refusal :=
  .next (runWord (.prune f) pruneReady (pruneBar (.prune f)) (pruneBody (.prune f) s) s)

/-- How an attempt at a PRUNE ends. -/
inductive PruneEnd where
  | done (kd : Word)
  | fail (e : PortErr)
  /-- step 3 of R105 refuses it -/
  | over
  /-- it has its descriptor now; it must first register its destination, or waits for an earlier lock -/
  | read (bs : List Byte)
  | lock (len : Nat)
  | wait
deriving DecidableEq, Repr, Inhabited

/-- One attempt at a PRUNE whose descriptor has been read. -/
def pruneTry (s : State) (g : Group) (op : LaneOp) : State × PruneEnd :=
  let rd := jobRd g.core g.ctx g.gid op.lane
  if op.data.length < 12 then
    match rd s op.ea 64 with
    | (s, .error e) => (s, .fail e)
    | (s, .ok bs) => (s, .read bs)
  else
    let bs := descBytes (op.data.drop 4)
    let x := sceneOf bs
    let off := (nth op.data 0).toNat
    if !pruneUses s g op.ea bs then (s, .done 0)
    else if off + 2 * x.len > scrOf s g.bid then (s, .over)
    else if op.tgt = 0 then (s, if freeLocks s g.core = 0 then .wait else .lock x.len)
    else if lockWaits s g.core op.tgt fun _ => true then (s, .wait)
    else
      match pruneBox (codeFetch rd x g.bid) rd x (((op.data.drop 1).take 3).map ivRead) s with
      | (s, .err e) => (s, .fail e)
      | (s, .bad) => (s, .done 0)
      | (s, .ok codes) => (scratchStore s g.bid off (codes.flatMap fun c => toBytes c 2), .done (w64 codes.length))

/-- VARIABLE_LATENCY_RESULT of a PRUNE: one attempt; a parked one goes on once its page's record has closed (R318). None for any other
word. -/
def pruneStep? (s : State) (gid seq : Nat) : Option State :=
  match s.group? gid with
  | none => none
  | some g =>
    match g.flights.find? fun e => e.seq == seq && e.kind == .prune with
    | none => none
    | some fl =>
      match fl.ops with
      | [] => some s
      | op :: _ =>
        let put (s : State) (fl : Flight) : State := s.modGroup gid fun g => g.putFlight fl
        let finish (s : State) (kd : Word) : State :=
          reapGroup (dropLocks (s.modGroup gid fun g => (writeLane g fl op.lane [kd]).putFlight (fl.finish op.lane)) g.core op.tgt) gid
        let fail (s : State) (a : Nat) : State := finish (errorRecord s g.ctx 2 5 6 g.core op.ea a) 0
        match fl.held with
        | (_, .pageFault, va) :: _ => some (if s.faults.any (sameFault g.ctx va) then s else put s { fl with held := [] })
        | (_, _, va) :: _ => some (if op.tgt = pruneOver then s else fail s va)
        | [] =>
          match pruneTry s g op with
          | (s', .done kd) => some (finish s' kd)
          | (s', .fail (.page va np)) =>
            some (put (fibreFault s' g op.lane fl.seg fl.woff va 6 .read np) { fl with held := [(op.lane, .pageFault, va)] })
          | (_, .fail (.held _)) => some s
          | (s', .fail e) => some (fail s' e.addr)
          | (s', .over) =>
            some (raiseHeld (put s' { fl with ops := [{ op with tgt := pruneOver }], held := [(op.lane, .accessFault, (nth op.data 0).toNat)] }) gid)
          | (s', .read bs) => some (put s' { fl with ops := [{ op with data := op.data.take 4 ++ descWords bs }] })
          | (s', .lock len) =>
            let (id, s') := s'.fresh
            some (put (addLocks s' g.core g.ctx id 1 [pruneRange (nth op.data 0).toNat len]) { fl with ops := [{ op with tgt := id }] })
          | (_, .wait) => some s

/-- VARIABLE_LATENCY_RESULT: a DEQ takes its records, a PUBLISH or a PRUNE goes on, any other word's lanes complete. -/
def execVariableLatencyResult (gid seq : Nat) (lanes : Mask) (s : State) : Outcome State Fault Refusal :=
  .next (if flightMay s gid seq then (((deqStep s gid seq).or (publishStep s gid seq)).or (pruneStep? s gid seq)).getD (lateResult s gid seq lanes) else s)

end Sys2Proof.Machine
end

