-- ==== Sys2Proof/Machine/Launch.lean ====
section
/-! DEFINITION. The dispatcher: the order of admission, reserved cores, fitting and homing blocks, energy, the completion of launches
(R337 to R343, R347 to R349), resumed continuations (R367), balancing rounds and the end of stages (R358 to R363). -/

namespace Sys2Proof.Machine

open Host (Outcome)

/-! ### Where a block fits (R340, R341) -/

/-- Free window entries of an issue lane. -/
def freeEntries (occ : List Occ) (sched lane : Nat) : Nat :=
  512 - sumBy (fun o : Occ => if o.sched == sched && o.lanes.contains lane then o.win else 0) occ

/-- Free entries of a scheduler over its 32 lanes, and of a core. -/
def schedFree (occ : List Occ) (sched : Nat) : Nat := sumBy (freeEntries occ sched) (List.range 32)
def coreFree (s : State) (core : Nat) : Nat := sumBy (schedFree (coreOcc s core)) (List.range 4)

/-- The issue lanes of a position. -/
def slotLanes (b wg : Nat) : List Nat := (List.range wg).map (4 * b + ·)

/-- The lowest base that leaves `w` free entries in each of a position's lanes. -/
def lowBase (occ : List Occ) (sched b wg w : Nat) : Option Nat :=
  ((List.range 64).map (8 * ·)).find? fun base =>
    decide (base + w ≤ 512) && occ.all fun o =>
      !(o.sched == sched && overlap o.base o.win base w && (slotLanes b wg).any o.lanes.contains)

/-- A group's home (R72, R19). -/
structure Home where
  sched : Nat
  slot : Nat
  base : Nat
deriving DecidableEq, Repr, Inhabited

/-- The best position of one scheduler (R341, steps 3 and 4). -/
def homeOn (occ : List Occ) (wg w sched : Nat) : Option Home :=
  if schedFibres occ sched + wg > 512 then none
  else
    let usable := ((List.range (32 / wg)).map (· * (wg / 4))).filterMap fun b => (lowBase occ sched b wg w).map fun base => (b, base)
    (minBy (fun p : Nat × Nat => 32 * 512 - sumBy (freeEntries occ sched) (slotLanes p.1 wg)) usable).map fun p => ⟨sched, p.1, p.2⟩

/-- One group tries the four schedulers from its first (R341, step 2). -/
def homeFrom (occ : List Occ) (wg w first : Nat) : Option Home :=
  (List.range 4).findSome? fun j => homeOn occ wg w ((first + j) % 4)

/-- Homes for a block's groups in order. -/
def homesFrom (wg w s0 : Nat) : Nat → Nat → List Occ → Option (List Home)
  | 0, _, _ => some []
  | n + 1, g, occ =>
    match homeFrom occ wg w (s0 + g) with
    | none => none
    | some h => (homesFrom wg w s0 n (g + 1) (occ ++ [⟨h.sched, slotLanes h.slot wg, h.base, w⟩])).map (h :: ·)

/-- Homes on a core for `n` groups. -/
def homes (s : State) (core wg w n : Nat) : Option (List Home) :=
  let occ := coreOcc s core
  let s0 := (minBy (fun c => 4 * 32 * 512 - schedFree occ c) (List.range 4)).getD 0
  homesFrom wg w s0 n 0 occ

/-! ### The private arena (R111, R340) -/

/-- The lowest 64 KiB-aligned run of a context's arena with `n` bytes free (DESIGN CHOICE, log entry 50). -/
def freeRun (c : Context) (used : List (Nat × Nat × Nat)) (n : Nat) : Option Nat :=
  ((List.range (c.psize / 65536)).map (c.parena + 65536 * ·)).find? fun a =>
    decide (a + n ≤ c.parena + c.psize) && used.all fun r => !overlap r.2.1 r.2.2 a n

/-- A region for each of `n` groups; none where the arena has no room. A group without private bytes takes none. -/
def takeRuns (c : Context) (bytes : Nat) : Nat → List (Nat × Nat × Nat) → Option (List Nat)
  | 0, _ => some []
  | n + 1, used =>
    if bytes = 0 then (takeRuns c bytes n used).map (c.parena :: ·)
    else
      match freeRun c used bytes with
      | none => none
      | some a => (takeRuns c bytes n (used ++ [(0, a, bytes)])).map (a :: ·)

/-! ### What may be admitted -/

/-- What a launch would have admitted next: a block saved at a stop, a ready continuation, or a new block (R337, R367, R449). -/
inductive Cand where
  | saved (bid : Nat)
  | cont (record : Nat)
  | fresh (id : Nat)
deriving DecidableEq, Repr, Inhabited

def coreBlocks (s : State) (core : Nat) : List Block := s.blocks.filter fun b => b.core == core

def launchBlocks (s : State) (lid : Nat) : List Block := s.blocks.filter fun b => b.lid == lid

/-- The stage of a stage launch. -/
def launchStage (s : State) (l : Launch) : Option (Pipe × Stage) :=
  (l.pipe.bind s.pipe?).bind fun p => (p.stages[l.stage]?).map fun st => (p, st)

/-- The launch of a stage other than a source stage, which admits blocks on demand (R359). -/
def onDemand (s : State) (l : Launch) : Bool :=
  match launchStage s l with
  | some (_, st) => !st.source
  | none => false

/-- Blocks of the grid. -/
def Launch.blocks (l : Launch) : Nat := l.gx * l.gy * l.gz

/-- Every block has been admitted; a launch on demand counts so from its acceptance (R335). -/
def allAdmitted (s : State) (l : Launch) : Bool := onDemand s l || (decide (l.next ≥ l.blocks) && l.again.isEmpty)

/-- No earlier launch of its queue still has blocks to admit (R335). -/
def queueClear (s : State) (l : Launch) : Bool :=
  match l.queue with
  | none => true
  | some (h, i) =>
    !(s.launches.any fun m =>
      match m.queue with
      | some (h', j) => m.ctx == l.ctx && h' == h && decide (j < i) && !allAdmitted s m
      | none => false)

/-- The wait of a continuation is met (R375). -/
def contReady (s : State) (c : Cont) : Bool :=
  match c.wait with
  | .ready => true
  | .event n t => eventMet s c.ctx n t
  | .room q need =>
    match ((s.launch? c.lid).bind Launch.pipe).bind s.pipe? with
    | none => true
    | some p =>
      match p.queues[q]? with
      | some q => decide (q.nrec - q.occupancy ≥ need)
      | none => true

/-- The next new block: one discarded at a stop, then the lowest identifier not yet admitted; on demand while the stage's queues hold a
record no one has claimed and fewer blocks than the grid are resident (R337, R359, R450). -/
def freshCand (s : State) (l : Launch) : Option Nat :=
  match launchStage s l with
  | some (p, st) =>
    if st.ended then none
    else if st.source then (match minBy id l.again with | some i => some i | none => if l.next < l.blocks then some l.next else none)
    else if (p.queues.any fun q => q.dst == st.index && decide (q.available > 0)) && decide ((launchBlocks s l.lid).length < l.blocks) then
      some (match minBy id l.again with | some i => i | none => l.next % 2 ^ 32)
    else none
  | none => match minBy id l.again with | some i => some i | none => if l.next < l.blocks then some l.next else none

def candidate (s : State) (l : Launch) : Option Cand :=
  match s.context? l.ctx with
  | none => none
  | some c =>
    if !jobRuns s l.ctx then none
    else if c.run = .starting then
      (s.images.filter fun im => im.ctx == l.ctx).findSome? fun im => (im.blocks.find? fun b => b.lid == l.lid).map fun b => .saved b.bid
    else if c.run ≠ .running then none
    else
      match s.conts.find? fun k => k.lid == l.lid && contReady s k with
      | some k => some (.cont k.record)
      | none => if queueClear s l then (freshCand s l).map .fresh else none

/-! ### The order of admission (R337, R362) -/

def insertBy {α : Type} (le : α → α → Bool) (x : α) : List α → List α
  | [] => [x]
  | y :: ys => if le x y then x :: y :: ys else y :: insertBy le x ys

def sortWith {α : Type} (le : α → α → Bool) (xs : List α) : List α := xs.foldl (fun acc x => insertBy (fun a b => !le b a) x acc) []

/-- Highest PRIO first, then the oldest acceptance; between two accepted in one clock the one taken in first, which R337 does not say (DESIGN
CHOICE, log entry 227). -/
def launchLe (a b : Launch) : Bool :=
  decide (a.prio > b.prio) || (a.prio == b.prio && (decide (a.accepted < b.accepted) || (a.accepted == b.accepted && decide (a.lid ≤ b.lid))))

/-- Put new elements, in order, into the places a test picks. -/
def refill {α : Type} (pick : α → Bool) : List α → List α → List α
  | [], _ => []
  | x :: xs, ys =>
    if pick x then
      match ys with
      | [] => x :: refill pick xs []
      | y :: ys => y :: refill pick xs ys
    else x :: refill pick xs ys

def launchDepth (s : State) (l : Launch) : Nat := match launchStage s l with | some (_, st) => st.depth | none => 0

/-- While a queue of a pipeline is high, its launches of one PRIO stand deepest first in the places they hold (R362). -/
def depthFirst (s : State) (ls : List Launch) (p : Pipe) : List Launch :=
  if !(p.queues.any StageQueue.high) then ls
  else
    ((ls.map Launch.prio).eraseDups).foldl (fun ls prio =>
      let pick (l : Launch) : Bool := l.pipe == some p.pid && l.prio == prio
      refill pick ls (sortWith (fun a b => decide (launchDepth s a ≥ launchDepth s b)) (ls.filter pick))) ls

/-- The launches that have something to admit, in order, each with it. -/
def admissionOrder (s : State) : List (Launch × Cand) :=
  let ls := s.pipes.foldl (depthFirst s) (sortWith launchLe s.launches)
  ls.filterMap fun l => (candidate s l).map fun c => (l, c)

/-! ### The choice of a core (R338 to R340, R349) -/

/-- Groups of what is admitted. -/
def candGroups (s : State) (l : Launch) (c : Cand) : Nat :=
  match c with
  | .saved bid => sumBy (fun im : SaveImage => (im.groups.filter fun g => g.bid == bid).length) s.images
  | .cont _ => 1
  | .fresh _ => l.gpb

/-- The core may hold blocks of the launch: its stage's cores once their other blocks have ended, else those of no pipeline (R358,
R359). -/
def coreAllowed (s : State) (l : Launch) (core : Nat) : Bool :=
  match l.pipe with
  | some pid =>
    (match launchStage s l with
     | some (_, st) => st.cores.contains core
     | none => false)
      && !((coreBlocks s core).any fun b => ((s.launch? b.lid).bind Launch.pipe) != some pid)
  | none => !(s.pipes.any fun p => p.pool.contains core)

/-- The resources of R340 but for energy and the reservations of cores. -/
def coreFits (s : State) (l : Launch) (n : Nat) (arena : Bool) (core : Nat) : Bool :=
  let bs := coreBlocks s core
  bs.all (fun b => b.carve == l.carve)
    && decide (sumBy Block.scr bs + l.scr ≤ carveScratch l.carve)
    && decide (bs.length < 32)
    && (!bitN l.flags 1 || bs.all fun b => b.engine.isNone)
    && decide (((launchBlocks s l.lid).filter fun b => b.core / 8 == core / 8).length < 8)
    && (!arena || (match s.context? l.ctx with | some c => (takeRuns c (l.priv * l.wg) n c.regions).isSome | none => false))
    && (homes s core l.wg l.win n).isSome

/-- The saved entry of the ray jobs' range, in a core's table (R299). -/
def rayLocks (j : RayJob) : List LockReq :=
  (if j.named then [sceneRange j.scene] else []) ++ (match j.locked, j.desc with | true, some bs => [codeRange 4 (sceneOf bs)] | _, _ => [])

/-- The block that a saved range-lock entry of a matrix word, PRUNE, raster batch or copy belongs to: that which issued the operation, or
for a copy's scratchpad, buffer or slot the one written to. -/
def lockBlock (s : State) (im : SaveImage) (core : Nat) (e : RltEntry) : Option Nat :=
  let prunes (g : Group) : Bool := (g.flights ++ g.aside.map Prod.snd).any fun fl => fl.kind == .prune && fl.ops.any fun o => o.tgt == e.owner
  let issued := ((im.blocks.find? fun b => b.engine.any fun x => x.ops.any fun o => o.seq == e.owner).map Block.bid).orElse fun _ =>
    ((im.groups.find? prunes).map Group.bid).orElse fun _ => (im.rasters.find? fun r => r.id == e.owner).map RasterJob.bid
  issued.orElse fun _ =>
    match (im.channels.flatMap fun c => c.running.toList ++ c.waiting).find? fun j => j.owner == e.owner with
    | some j => if e.space = 0 then j.own else j.bid
    | none =>
      (s.queues.findSome? fun q => (q.puts.find? fun p => copyOwner q.ctx q.header p.1 == e.owner).map Prod.snd).bind fun p =>
        if e.space = 0 then some p.2 else (im.blocks.find? fun b => b.core == core && b.lid == p.1).map Block.bid

/-- Entries put beside others: jobs share the entry of one range (R299). -/
def joinLock (xs : List (Nat × RltEntry)) (core : Nat) (e : RltEntry) : List (Nat × RltEntry) :=
  let same (p : Nat × RltEntry) : Bool := p.1 == core && p.2.engine == 4 && e.engine == 4 && p.2.ctx == e.ctx && p.2.space == e.space && p.2.base == e.base && p.2.len == e.len
  if xs.any same then xs.map fun p => if same p then (p.1, { p.2 with share := p.2.share + e.share }) else p else xs ++ [(core, e)]

/-- A saved block's ray jobs, raster batches and range locks go with it to another core (R449). -/
def SaveImage.moved (im : SaveImage) (s : State) (bid src dst : Nat) : SaveImage :=
  let mine := (im.rays.filter fun p => p.2.bid == bid).map Prod.snd
  let users (e : RltEntry) : Nat := sumBy (fun j : RayJob => ((rayLocks j).filter fun r => isJobLock j.ctx r e).length) mine
  let go (p : Nat × RltEntry) : Nat := if p.1 ≠ src then 0 else if p.2.engine = 4 then min p.2.share (users p.2) else if lockBlock s im src p.2 = some bid then p.2.share else 0
  let stay := im.locks.filterMap fun p => if go p = p.2.share then none else some (p.1, { p.2 with share := p.2.share - go p })
  { im with
    rays := im.rays.map fun p => if p.2.bid == bid then (dst, p.2) else p
    rasters := im.rasters.map fun r => if r.bid == bid then { r with core := dst } else r
    locks := (im.locks.filter fun p => go p != 0).foldl (fun xs p => joinLock xs dst { p.2 with share := go p }) stay }

/-- The image and core of a saved block. -/
def savedAt (s : State) (bid : Nat) : Option (SaveImage × Nat) :=
  s.images.findSome? fun im => (im.blocks.find? fun b => b.bid == bid).map fun b => (im, b.core)

/-- A core has room for the ray jobs and range locks that come back with a saved block, beside those of the blocks already back. -/
def savedFits (s : State) (bid core : Nat) : Bool :=
  match savedAt s bid with
  | none => false
  | some (im, src) =>
    let im := im.moved s bid src core
    let away (b : Option Nat) : Bool := b.any fun b => b != bid && im.blocks.any fun x => x.bid == b
    let c := (s.core? core).getD default
    decide (c.rays.length + (im.rays.filter fun p => p.1 == core && !away (some p.2.bid)).length ≤ 256)
      && decide ((im.locks.filter fun p => p.1 == core && !away (lockBlock s im core p.2)).length ≤ (c.rlt.filter Option.isNone).length)

/-- What is admitted fits a core where its launch may stand; a saved block is admitted by the same rules (R339, R340, R358, R359, R449). -/
def candFits (s : State) (l : Launch) (c : Cand) (core : Nat) : Bool :=
  let back := match c with | .saved bid => some bid | _ => none
  coreAllowed s l core && (((s.core? core).getD default).reserved.all fun r => r == l.lid) && coreFits s l (candGroups s l c) back.isNone core
    && back.all fun bid => savedFits s bid core

/-- The clusters in order of preference: the fewest blocks of the launch, then the lowest. -/
def clusterOrder (s : State) (lid : Nat) : List Nat :=
  let bs := (launchBlocks s lid).map fun b => b.core / 8
  sortWith (fun a b => decide ((bs.filter fun x => x == a).length ≤ (bs.filter fun x => x == b).length)) (List.range 64)

/-- The core on which the next block of a launch is placed, if any fits: in the first cluster that has one, the core with the most
free window entries (R338). A saved block goes back to the core it left while it fits there, else to any (R449; log entry 51). -/
def placeIn (s : State) (l : Launch) (c : Cand) (clusters : List Nat) : Option Nat :=
  let left := match c with | .saved bid => ((savedAt s bid).map Prod.snd).filter (candFits s l c) | _ => none
  match left with
  | some core => if clusters.contains (core / 8) then some core else none
  | none =>
    clusters.findSome? fun clu =>
      minBy (fun core => 4 * 32 * 512 - coreFree s core) ((clusterCores clu).filter (candFits s l c))

/-- The reservation of one more block of a launch, in nJ (R348). -/
def Launch.ask (l : Launch) : Nat := l.rho * (l.gpb * l.wg)

/-- The chip's budget as admission sees it, in nJ: zero while THERM is set (R349, R404). -/
def chipLimit (s : State) : Nat := if s.host.therm then 0 else s.chipBudget * 1000

/-- R349 for one more block of a launch. -/
def energyFits (s : State) (l : Launch) : Bool :=
  let mine := s.blocks.filter fun b => b.ctx == l.ctx
  let cap := match s.context? l.ctx with | some c => c.budget * 1000 | none => 0
  (s.blocks.isEmpty || decide (sumBy Block.reserve s.blocks + l.ask ≤ chipLimit s))
    && (cap == 0 || mine.isEmpty || decide (sumBy Block.reserve mine + l.ask ≤ cap))

/-- The next admission: the first launch whose block fits a core and the budgets. The first launch of the order waiting for energy
alone holds back every other. -/
def decideFrom (s : State) (clusters : Launch → List Nat) : Bool → List (Launch × Cand) → Option (Launch × Cand × Nat)
  | _, [] => none
  | first, (l, c) :: rest =>
    match placeIn s l c (clusters l) with
    | none => decideFrom s clusters false rest
    | some core =>
      if energyFits s l then some (l, c, core)
      else if first then none
      else decideFrom s clusters false rest

/-- One cluster admits one block in a clock (R337). -/
def decision (s : State) : Option (Launch × Cand × Nat) :=
  decideFrom s (fun l => (clusterOrder s l.lid).filter fun c => !s.admitted.contains c) true (admissionOrder s)

/-- The context whose block heads the order and waits for energy alone (R349). -/
def energyWaiter (s : State) : Option Nat :=
  match admissionOrder s with
  | [] => none
  | (l, c) :: _ => if (placeIn s l c (clusterOrder s l.lid)).isSome && !energyFits s l then some l.ctx else none

/-! ### Reserved cores (R339) -/

/-- The first 8 launches whose next block fits no core for a reason other than energy; one that already holds a core stays among them
until its block is admitted. -/
def reservers (s : State) : List (Launch × Cand) :=
  ((admissionOrder s).filter fun p =>
    (s.cores.any fun c => c.reserved == some p.1.lid) || (placeIn s p.1 p.2 (clusterOrder s p.1.lid)).isNone).take 8

/-- The highest CPRIO of a core's resident blocks. -/
def coreCprio (s : State) (core : Nat) : Nat := ((s.groups.filter fun g => g.core == core && g.alive).map Group.cprio).foldl Nat.max 0

/-- The core that a launch reserves. -/
def reserveCore (s : State) (l : Launch) : Option Nat :=
  let open_ := s.cores.filter fun k => k.reserved.isNone
  minBy (fun k => (coreCprio s k * 2 ^ 20 + coreFibres s k) * 2 ^ 10 + k) ((open_.map Core.core).filter (coreAllowed s l))

/-- Reservations end with their launches' places among the first 8, and new ones are made. -/
def updateReserved (s : State) : State :=
  let rs := reservers s
  let s := if s.cores.any fun c => c.reserved.any fun r => !(rs.any fun p => p.1.lid == r) then
      { s with cores := s.cores.map fun c => if c.reserved.any fun r => !(rs.any fun p => p.1.lid == r) then { c with reserved := none } else c }
    else s
  rs.foldl (fun s p =>
    if s.cores.any fun c => c.reserved == some p.1.lid then s
    else match reserveCore s p.1 with
      | some k => s.modCore k fun c => { c with reserved := some p.1.lid }
      | none => s) s

/-! ### Admission (R342) -/

/-- Once a core takes its first block of a launch it drops the context's Grinder lines (R152), and nothing its L1 holds of the context
stands before what its launch's publication made visible (R149; log entry 52). -/
def enterCore (s : State) (l : Launch) (core : Nat) : State :=
  let s := if l.cores.contains core then s
    else (grinderDrop s core l.ctx).modLaunch l.lid fun l => { l with cores := core :: l.cores }
  let s := s.modCore core fun c =>
    { c with l1 := c.l1.filter (fun x => x.ctx != l.ctx), reserved := if c.reserved = some l.lid then none else c.reserved }
  { s with admitted := core / 8 :: s.admitted, cores := s.cores.map fun c => if c.reserved = some l.lid then { c with reserved := none } else c }

/-- A k register at a group's start (R336). -/
def startK (l : Launch) (o : CodeObj) : List Reg :=
  (List.range 64).map fun n =>
    if n = 63 ∧ l.args ≠ 0 then ⟨w64 l.args, true, false⟩
    else match o.preload.find? fun p => p.1 == n with
      | some p => ⟨p.2, true, false⟩
      | none => Reg.zero

/-- A fibre at its start (R30). -/
def startFibre (win ord : Nat) : Fibre :=
  { live := true, v := List.replicate win Reg.zero, o := List.replicate 8 0, oset := 0, status := statusReset, safeord := ord, pend := [],
    hist := [], q := List.replicate 8 Stream.closed }

/-- An entry for every quad of lanes, at a segment. -/
def startEntries (lanes : Mask) (seg clock : Nat) : List Entry :=
  (List.range 8).filterMap fun j =>
    let m := lanes &&& (0xF#32 <<< (4 * j))
    if m = 0 then none else some ⟨j, m, seg, 0, [], none, none, clock, clock, false⟩

/-- A group with nothing in it, at a home. -/
def blankGroup (l : Launch) (gid bid index core pbase : Nat) (h : Home) : Group :=
  { gid := gid, ctx := l.ctx, lid := l.lid, bid := bid, index := index, wg := l.wg, core := core, sched := h.sched, slot := h.slot,
    base := h.base, win := l.win, fibres := [], k := List.replicate 64 Reg.zero, kpend := [], cprio := l.prio, lprio := l.prio,
    plimit := l.priv, pbase := pbase, carve := l.carve, obj := l.code, flights := [], aside := [], rqn := 0, entries := [], frame := none, frameVa := 0,
    savedObj := 0, trap := none, resume := [], saved := [], held := [], stop := .running, dbg := false, rft := 0, bars := [], mbars := [],
    priv := [], privDirty := [], privHome := [], privAway := [], privPoison := [], pre := false, capOpen := false, sync := 0, syncDue := none,
    trace := 0 }

/-- The ordinal of a segment's first safe point. -/
def segOrd (s : State) (ctx obj seg : Nat) : Nat := match s.object? ctx obj with | some o => (nth o.segs seg).safeord | none => 0

/-- A block at its start (R100, R109, R263). -/
def blankBlock (l : Launch) (bid linear core : Nat) : Block :=
  { bid := bid, ctx := l.ctx, lid := l.lid, linear := linear, core := core, gpb := l.gpb, wg := l.wg, win := l.win, carve := l.carve,
    scr := l.scr, scratch := [], scratchPoison := [], bars := List.replicate 16 ⟨0, none, false, 0⟩
    engine := if bitN l.flags 1 then some (Engine.start l.accn l.mstr) else none
    charge := 0, chargeRound := 0, reserve := l.ask, committed := false, priv := l.priv }

/-- Add a group, with its private region. -/
def addGroup (s : State) (g : Group) : State :=
  let s : State := { s with groups := s.groups ++ [g] }
  if g.plimit = 0 then s else s.modContext g.ctx fun c => { c with regions := (g.bid, g.pbase, g.plimit * g.wg) :: c.regions }

/-- A new block and its groups, which become ready together (R342); its first words follow what the launch's publication follows (R149, R161). -/
def admitFresh (s : State) (l : Launch) (id core : Nat) : State :=
  match homes s core l.wg l.win l.gpb, s.context? l.ctx, s.object? l.ctx l.code with
  | some hs, some c, some o =>
    match takeRuns c (l.priv * l.wg) l.gpb c.regions with
    | none => s
    | some runs =>
      let s := enterCore s l core
      let (bid, s) := s.fresh
      let s : State := { s with blocks := s.blocks ++ [blankBlock l bid id core] }
      let s := s.modLaunch l.lid fun l =>
        if l.again.contains id then { l with again := l.again.filter fun x => x != id } else { l with next := l.next + 1 }
      let ord := (nth o.segs l.entry).safeord
      (List.range l.gpb).foldl (fun s n =>
        let (gid, s) := s.fresh
        let s := addGroup s { blankGroup l gid bid n core (nth runs n) (nth hs n) with
          fibres := List.replicate l.wg (startFibre l.win ord), k := startK l o
          entries := startEntries (maskOf (List.range l.wg)) l.entry s.clock }
        (List.range l.wg).foldl (fun s lane => acqDraws s gid lane .device) s) s
  | _, _, _ => s

/-- A saved block and its groups, at their identifiers and lanes, on new homes (R449). They stay stopped until every block of the
context is back. -/
def admitSaved (s : State) (l : Launch) (bid core : Nat) : State :=
  match s.images.find? fun im => im.blocks.any fun b => b.bid == bid with
  | none => s
  | some im =>
    let gs := im.groups.filter fun g => g.bid == bid
    match homes s core l.wg l.win gs.length with
    | none => s
    | some hs =>
      let s := enterCore s l core
      let back : List Group := ((List.range gs.length).zip gs).map fun p =>
        let h := nth hs p.1
        { p.2 with core := core, sched := h.sched, slot := h.slot, base := h.base }
      { s with
        blocks := s.blocks ++ ((im.blocks.filter fun b => b.bid == bid).map fun b => { b with core := core, reserve := l.ask })
        groups := s.groups ++ back
        images := s.images.map fun x => if x.ctx == im.ctx then
            { x.moved s bid (((im.blocks.find? fun b => b.bid == bid).map Block.core).getD core) core with blocks := dropBy Block.bid bid x.blocks, groups := x.groups.filter fun g => g.bid != bid } else x }

/-! ### The end of a start (R449) -/

/-- A saved group goes on: at its resume points, or with the trap that it had raised; its next safe point is a SYNC (R481). -/
def goOn (s : State) (g : Group) : State :=
  let s := s.modGroup g.gid fun g => { g with sync := 0 }
  if g.trap.isSome then s.modGroup g.gid fun g => { g with stop := .trapping }
  else if g.stop = .stopped then restartGroup s g.gid
  else s

/-- Each core has room for what an image puts back on it. -/
def imageFits (s : State) (im : SaveImage) : Bool :=
  s.cores.all fun c =>
    decide (c.rays.length + (im.rays.filter fun p => p.1 == c.core).length ≤ 256)
      && decide ((im.locks.filter fun p => p.1 == c.core).length ≤ (c.rlt.filter Option.isNone).length)

/-- Once every saved block of a starting context is back, its channels, raster batches, ray jobs and range locks are too, and it runs:
each engine goes on at its unit. -/
def startFinish (s : State) (ctx : Nat) : State :=
  match s.images.find? (fun im => im.ctx == ctx), s.context? ctx with
  | some im, some c =>
    if c.run ≠ .starting ∨ im.blocks ≠ [] ∨ imageFits s im = false then s
    else
      let s := im.rays.foldl (fun s p => s.modCore p.1 fun c => { c with rays := c.rays ++ [{ p.2 with slot := freeRaySlot s p.1 }] }) s
      let s := im.locks.foldl (fun s p => s.modCore p.1 fun c => { c with rlt := putLock c.rlt p.2 }) s
      let s : State := { s with
        channels := s.channels ++ im.channels, rasters := s.rasters ++ im.rasters, images := s.images.filter fun x => x.ctx != ctx }
      let s := (s.groups.filter fun g => g.ctx == ctx).foldl goOn s
      s.modContext ctx fun c => { c with run := .running, acks := [], stopArg := none }
  | _, _ => s

def startsFinish (s : State) : State :=
  ((s.contexts.filter fun c => c.run == .starting).map Context.ctx).foldl startFinish s

/-- BLOCK_ADMIT: reservations are brought up to date, then the next block is placed on its core, if the core stands at its carve-out. -/
def blockAdmit (s0 : State) : State :=
  let s := updateReserved s0
  match decision s with
  | some (l, .fresh id, core) => if ((s.core? core).getD default).carve = l.carve then admitFresh s l id core else s
  | some (l, .saved bid, core) =>
    if ((s.core? core).getD default).carve = l.carve then startFinish (admitSaved s l bid core) l.ctx else s
  | _ => startsFinish s

def execBlockAdmit (s : State) : Outcome State Fault Refusal := .next (blockAdmit s)

/-- CARVE_OUT_CHANGE: a core that holds no block takes the setting of the block it is to admit; its dirty private lines went with
their groups, its L1 is invalidated, and scratchpad reads zero at a block's start (R109, R112, R115). -/
def carveOutChange (s : State) (core : Nat) : State :=
  match decision s with
  | some (l, _, k) =>
    if k ≠ core ∨ (s.core? core).isNone ∨ ((s.core? core).getD default).carve = l.carve then s
    else (((s.groups.filter fun g => g.core == core).map Group.gid).foldl writebackAll s).modCore core fun c =>
      { c with carve := l.carve, l1 := [] }
  | none => s

def execCarveOutChange (core : Nat) (s : State) : Outcome State Fault Refusal := .next (carveOutChange s core)

/-! ### Continuations (R366, R367) -/

/-- A fibre of a record (R366): its STATUS as a write of it leaves it, with the saved HELPER (R3, R33), its saved registers and its streams; every other register reads zero and is full. -/
def contFibre (bs : List Byte) (win ord : Nat) (streams : List (Nat × List Stream)) (lane : Nat) : Fibre :=
  let codes := (List.range 16).map fun j => byteField bs (48 + 2 * j) 2
  let v := (List.range win).map fun n =>
    match (List.range 16).find? fun j => nth codes j == n with
    | some j => ⟨w64 (byteField bs (256 + 256 * j + 8 * lane) 8), true, false⟩
    | none => Reg.zero
  let status := w64 (byteField bs (128 + 4 * lane) 4)
  { startFibre win ord with
    v := v, status := writeStatus (statusReset ||| (status &&& 0x1000000#64)) status
    q := match streams.find? fun p => p.1 == lane with | some p => p.2 | none => List.replicate 8 Stream.closed }

def contK (bs : List Byte) : List Reg :=
  let codes := (List.range 16).map fun j => byteField bs (48 + 2 * j) 2
  (List.range 64).map fun n =>
    match (List.range 16).find? fun j => nth codes j == 0x80 + n with
    | some j => ⟨w64 (byteField bs (256 + 256 * j) 8), true, false⟩
    | none => Reg.zero

/-- The group of a record. -/
def contGroup (s : State) (l : Launch) (k : Cont) (bs : List Byte) (gid bid core pbase : Nat) (h : Home) : Group :=
  let f := byteField bs
  let live := BitVec.ofNat 32 (f 24 8 % 2 ^ 32) ||| BitVec.ofNat 32 (f 24 8 / 2 ^ 32)
  let succ := f 8 4 % 2 ^ 18
  let ord := segOrd s l.ctx (f 0 8) succ
  { blankGroup l gid bid 0 core pbase h with
    fibres := (List.range l.wg).map fun n =>
      let x := contFibre bs l.win ord k.streams n
      if inMask live n then x else { x with live := false }
    k := contK bs, cprio := min (f 15 1 % 128) l.prio, obj := f 0 8
    entries := startEntries live succ s.clock }

/-- CONTINUATION_RESUME: the record that the dispatcher has come to is read and its group admitted as a one-group block of its launch
(R367); its first word acquires (R149). -/
def continuationResume (s : State) (ctx record : Nat) : State :=
  match decision s with
  | some (l, .cont r, core) =>
    if r ≠ record ∨ l.ctx ≠ ctx ∨ ((s.core? core).getD default).carve ≠ l.carve then s
    else
      match s.conts.find? (fun k => k.ctx == ctx && k.record == record), s.context? ctx, homes s core l.wg l.win 1 with
      | some k, some c, some [h] =>
        match takeRuns c (l.priv * l.wg) 1 c.regions, parkRead s tscAgent 1 ctx (c.recordAddr record) 8192 with
        | some runs, (s, .ok bs) =>
          let s := enterCore s l core
          let (bid, s) := s.fresh
          let (gid, s) := s.fresh
          let s : State := { s with
            blocks := s.blocks ++ [blankBlock l bid (byteField bs 16 4) core]
            conts := s.conts.filter fun k => !(k.ctx == ctx && k.record == record) }
          let s := s.modContext ctx fun c => { c with contUsed := c.contUsed.filter fun n => n != record }
          let s := addGroup s (contGroup s l k bs gid bid core (nth runs 0) h)
          let s := moveUsers s (contKey ctx record) gid
          match s.group? gid with
          | some g => (lanesOf g.liveMask).foldl (fun s n => acquireAt s core ctx gid n .device) s
          | none => s
        | _, (s, _) => s
      | _, _, _ => s
  | _ => s

def execContinuationResume (ctx record : Nat) (s : State) : Outcome State Fault Refusal := .next (continuationResume s ctx record)

/-! ### Completion (R343) -/

/-- An operation of the launch's fibres is still to complete, or something of the launch is still to run. -/
def launchBusy (s : State) (l : Launch) : Bool :=
  (s.blocks.any fun b => b.lid == l.lid) || (s.groups.any fun g => g.lid == l.lid) || (s.conts.any fun k => k.lid == l.lid)
    || (s.images.any fun im => im.blocks.any fun b => b.lid == l.lid)
    || (s.cores.any fun c => c.rays.any fun j => j.lid == l.lid)
    || (s.rasters.any fun r => !r.done && r.lid == l.lid)
    || (s.images.any fun im => im.rasters.any fun r => !r.done && r.lid == l.lid)
    || (s.queues.any fun q => q.puts.any fun p => p.2.1 == l.lid)

/-- Every block of the launch has been admitted and has ended (R97, R363). -/
def blocksEnded (s : State) (l : Launch) : Bool :=
  decide (l.next ≥ l.blocks) && l.again.isEmpty && !(s.blocks.any fun b => b.lid == l.lid) && !(s.conts.any fun k => k.lid == l.lid)
    && !(s.images.any fun im => im.blocks.any fun b => b.lid == l.lid)

/-- Every block has been admitted and no more can come. -/
def launchDone (s : State) (l : Launch) : Bool :=
  (match launchStage s l with
   | some (_, st) => st.ended
   | none => l.pipe.isSome || (decide (l.next ≥ l.blocks) && l.again.isEmpty)) && !launchBusy s l

/-- Perform every write that still waits in a core and that a launch's fibres have made, read or acquired (R144, R149). -/
def performLaunch (s : State) (lid : Nat) : State :=
  let pick (w : PendWrite) : Bool := w.lid == lid || w.lids.contains lid
  ((s.cores.filter fun c => c.pend.any pick).map Core.core).foldl (fun s c => performSome s c pick) s

/-- LAUNCH_COMPLETE: writes, event, status and RIDX, in that order; the context's vector is raised (R385, R399) and the launch gives its
table entry back (R332, R343). -/
def launchComplete (s : State) (lid : Nat) : State :=
  match s.launch? lid with
  | none => s
  | some l =>
    if !launchDone s l || !engineRuns s l.ctx .issue then s
    else
      let r := match l.queue with
        | some (h, i) => (match s.queue? l.ctx h with | some q => canEnd s q i | none => (s, true))
        | none => (s, true)
      if !r.2 then r.1
      else
        let s := performLaunch r.1 lid
        let s := if bitN l.flags 2 then signalEvent s l.ctx l.evt 1 else s
        let s := match l.queue with
          | some (h, i) => endPacket s l.ctx h i 2 0 0
          | none => s
        let s := match s.context? l.ctx with
          | some c => { s with msix := s.msix ++ [c.vec] }
          | none => s
        enterFired (purgeRetired { s with launches := dropBy Launch.lid lid s.launches })

def execLaunchComplete (lid : Nat) (s : State) : Outcome State Fault Refusal := .next (launchComplete s lid)

/-! ### Balancing rounds (R348, R360, R361) -/

/-- ρ at a round's end: from the charge of a launch's resident blocks over their fibres. -/
def nextRho (s : State) (l : Launch) : Nat :=
  let bs := launchBlocks s l.lid
  let fibres := sumBy (fun b : Block => b.gpb * b.wg) bs
  if fibres = 0 then l.rho
  else
    let m := (sumBy Block.chargeRound bs + 160000 * fibres - 1) / (160000 * fibres)
    max 1 ((l.rho + m + 1) / 2)

/-- The occupancy weight of a stage (R360). -/
def stageOcc (s : State) (p : Pipe) (st : Stage) : Nat :=
  if st.source then
    (match st.lid.bind s.launch? with
     | some l => if l.next < l.blocks ∨ l.again ≠ [] then 1024 else 0
     | none => 0)
  else sumBy (fun q : StageQueue => 1024 * q.occupancy / q.nrec) (p.queues.filter fun q => q.dst == st.index)

/-- The allotments that a round gives, by stage; an ended stage has none. -/
def allotments (s : State) (p : Pipe) : List (Nat × Nat) :=
  let live := p.stages.filter fun st => !st.ended
  let w (st : Stage) : Nat := stageOcc s p st * (st.prio + 1)
  let r := p.pool.length - sumBy Stage.minc live
  let wsum := sumBy w live
  if wsum = 0 then
    let given := p.pool.length - sumBy Stage.allot live
    let low := (live.find? fun st => st.lid.isSome).map Stage.index
    live.map fun st => (st.index, st.allot + if some st.index = low then given else 0)
  else
    let base := live.map fun st => (st, st.minc + r * w st / wsum)
    let left := r - sumBy (fun p : Stage × Nat => r * w p.1 / wsum) base
    let lucky := (takeMin (fun i => (wsum - r * w (nth p.stages i) % wsum) * 64 + i) left (live.map Stage.index))
    base.map fun q => (q.1.index, q.2 + if lucky.contains q.1.index then 1 else 0)

/-- A stage's own fibres on a core. -/
def stageFibres (s : State) (lid : Option Nat) (core : Nat) : Nat :=
  sumBy (fun g : Group => if g.core == core && some g.lid == lid then (lanesOf g.liveMask).length else 0) s.groups

/-- The cores a stage gives up: those with the fewest of its fibres, ties to the highest number (R361). -/
def givenUp (s : State) (st : Stage) (n : Nat) : List Nat :=
  takeMin (fun c => stageFibres s st.lid c * coreCount + (coreCount - 1 - c)) n st.cores

/-- Move cores to the new allotments. Freed cores, and those of ended stages that no stage has, go to the gaining stages in stage order
(R360, R361). -/
def reallot (s : State) (p : Pipe) (al : List (Nat × Nat)) : Pipe :=
  let want (st : Stage) : Nat := match al.find? fun x => x.1 == st.index with | some x => x.2 | none => 0
  let cut := p.stages.map fun st =>
    let g := givenUp s st (st.cores.length - want st)
    (st, st.cores.filter (fun c => !g.contains c), g)
  let freed := (cut.flatMap fun x => x.2.2) ++ p.pool.filter fun c => !p.stages.any fun st => st.cores.contains c
  let r := cut.foldl (fun (acc : List Stage × List Nat) x =>
    let n := want x.1 - x.2.1.length
    let cs := x.2.1 ++ acc.2.take n
    (acc.1 ++ [{ x.1 with cores := cs, allot := cs.length }], acc.2.drop n)) ([], freed)
  { p with stages := r.1 }

/-- BALANCING_ROUND_END: every 65,536 clocks the reservation rates, and the stages' cores and the tables of the pipelines that have their cores
and whose job is not frozen (R360, R475). -/
def balancingRoundEnd (s : State) : State :=
  if (s.clock - s.resetClock) / 65536 ≤ s.rounds then s
  else
    let s : State := { s with
      rounds := s.rounds + 1
      launches := s.launches.map fun l => { l with rho := nextRho s l }
      blocks := s.blocks.map fun b => { b with chargeRound := 0 }
      images := s.images.map fun im => { im with blocks := im.blocks.map fun b => { b with chargeRound := 0 } } }
    let live (p : Pipe) : Bool := !p.pool.isEmpty && jobRuns s p.ctx
    let s : State := { s with pipes := s.pipes.map fun p => if live p then reallot s p (allotments s p) else p }
    (s.pipes.filter live).foldl writeTable s

def execBalancingRoundEnd (s : State) : Outcome State Fault Refusal := .next (balancingRoundEnd s)

/-! ### The end of a stage (R363) -/

/-- Every live fibre of a group waits in a DEQ. -/
def allInDeq (g : Group) : Bool :=
  (lanesOf g.liveMask).all fun l => g.flights.any fun fl => fl.kind == .deq && fl.held.isEmpty
    && inMask (match fl.ops with | o :: _ => BitVec.ofNat 32 (nth o.data 1).toNat | [] => 0) l

/-- A stage other than a source stage may end. -/
def drained (s : State) (p : Pipe) (st : Stage) : Bool :=
  (p.queues.filter fun q => q.dst == st.index).all (fun q =>
      q.head == q.tail && q.unpublished.isEmpty && (q.src == st.index || (nth p.stages q.src).ended))
    && (s.groups.filter fun g => some g.lid == st.lid).all (fun g => !g.alive || allInDeq g)
    && !(s.conts.any fun k => some k.lid == st.lid)
    && !(s.images.any fun im => im.blocks.any fun b => some b.lid == st.lid)

def stageMayEnd (s : State) (p : Pipe) (st : Stage) : Bool :=
  match st.lid.bind s.launch? with
  | none => false
  | some l => if st.source then blocksEnded s l else drained s p st

/-- STAGE_END: STATE turns 2, every waiting DEQ ends its group, and the pipeline ends with its last stage. -/
def stageEnd (s : State) (pid n : Nat) : State :=
  match s.pipe? pid with
  | none => s
  | some p =>
    match p.stages[n]? with
    | none => s
    | some st =>
      if st.ended || !engineRuns s p.ctx .issue || !stageMayEnd s p st then s
      else
        let p := p.modStage n fun st => { st with ended := true }
        let s := writeTable (s.modPipe pid fun _ => p) p
        let s := (s.groups.filter fun g => some g.lid == st.lid).foldl (fun s g =>
          g.flights.foldl (fun s fl => (deqStep s g.gid fl.seq).getD s) s) s
        if p.stages.all Stage.ended then enterFired (claimPools { s with pipes := dropBy Pipe.pid pid s.pipes }) else s

def execStageEnd (pipe stage : Nat) (s : State) : Outcome State Fault Refusal := .next (stageEnd s pipe stage)

end Sys2Proof.Machine
end

