-- ==== Sys2Proof/Machine/Sched.lean ====
section
/-! DEFINITION. The sorter: which entries are ready, which batch issues, batches formed from entries (R76 to R82, R344, R362), the
breakpoint before a word (R466), and what the clock counts (R349, R482, R483). -/

namespace Sys2Proof.Machine

open Host (Outcome)

/-! ### Who may issue -/

/-- A trigger of a context's job waits to start its wave: no word of the job issues before it has. -/
def trigWaits (s : State) (ctx : Nat) : Bool :=
  s.trigs.any fun t => (s.context? t.1).map Context.jobKey == (s.context? ctx).map Context.jobKey

/-- The step in progress of a group (R477). -/
def stepOf (s : State) (gid : Nat) : Option StepSt :=
  match s.stepping with
  | some st => if st.gid = gid then some st else none
  | none => none

/-- Words of a group may issue: it is not stopped, its context runs or stops with vector issue still to acknowledge, and its job runs
or it is being stepped (R445, R446, R472, R477). -/
def groupMay (s : State) (g : Group) : Bool :=
  g.stop == .running && !g.dbg && !trigWaits s g.ctx && (engineRuns s g.ctx .issue || (stepOf s g.gid).isSome)

/-- The context of a group is being stopped. -/
def stopsNow (s : State) (g : Group) : Bool := match s.context? g.ctx with | some c => c.run != .running | none => true

/-- The word a batch issues next. -/
def nextWord (s : State) (b : Batch) : Except Cause Instr := (fetchInstr s b).2

/-- The batch stands before a safe point. -/
def atSafe (s : State) (b : Batch) : Bool :=
  b.wait.isNone && b.rep.isNone && match nextWord s b with | .ok i => stopBit i | .error _ => false

/-- A stepped batch may go on: none of its lanes has reached a successor, and it does not stand at a safe point that its lanes have come
to in this step (R477). -/
def stepMay (s : State) (b : Batch) (st : StepSt) (lanes : Mask) : Bool :=
  lanes &&& st.arrived == 0
    && (lanes &&& st.moved == 0 || !atSafe s b
        || (lanesOf lanes).all fun l => st.passed.any fun p => inMask p.1 l && p.2 == (b.seg, b.woff))

/-- A group of a batch is throttled: a queue its stage feeds, other than a self-loop, is high (R362). -/
def throttled (s : State) (g : Group) : Bool :=
  match groupPipe s g with
  | none => false
  | some p => p.queues.any fun q => q.high && q.src == groupStage s g && q.dst != q.src

/-- A batch may try its next word in this clock. -/
def batchMay (s : State) (b : Batch) : Bool :=
  let gs := batchGroups s b
  !s.tried.contains b.id && decide (b.sleepUntil ≤ s.clock) && !b.atPassEnd && fetchable s b
    && gs.all (fun p => groupMay s p.1)
    && gs.all (fun p => match stepOf s p.1.gid with | some st => stepMay s b st p.2 | none => true)
    && !(gs.any (fun p => stopsNow s p.1) && (b.wait.isSome || atSafe s b))
    && !((match b.last with | some c => decide (s.clock ≤ c + 1) | none => false) && gs.any fun p => throttled s p.1)

/-! ### The order of issue (R81) -/

/-- CPRIO, age and slot as one number: the smallest goes first. -/
def issueKey (cprio time slot : Nat) : Nat := ((127 - cprio) * 2 ^ 64 + time) * 8 + slot

def maxOf (xs : List Nat) : Nat := xs.foldl Nat.max 0
def minOf (xs : List Nat) : Nat := (minBy id xs).getD 0

/-- The home quad slots of lanes of a group. -/
def homeSlots (g : Group) (lanes : Mask) : List Nat :=
  ((List.range 8).filter fun j => lanes &&& (0xF#32 <<< (4 * j)) != 0).map (g.slot + ·)

def batchKey (s : State) (b : Batch) : Nat :=
  let gs := batchGroups s b
  issueKey (maxOf (gs.map fun p => p.1.cprio)) b.time (minOf (gs.flatMap fun p => homeSlots p.1 p.2))

/-- The batch of a scheduler that goes first. -/
def bestBatch (s : State) (core sched : Nat) : Option Batch :=
  minBy (batchKey s) (s.batches.filter fun b => b.core == core && b.sched == sched && batchMay s b)

/-! ### Entries (R77, R80) -/

/-- Entries of one group that issue together: one, or all of an assembled group. -/
structure EntryUnit where
  gid : Nat
  ctx : Nat
  obj : Nat
  seg : Nat
  woff : Nat
  rep : Option RepSt
  wait : Option Wait
  loops : List LoopLvl
  lanes : Mask
  slots : List Nat
  cprio : Nat
  time : Nat
  since : Nat
  bp : Bool
deriving DecidableEq, Repr, Inhabited

/-- The assemble mode that an entry obeys: only at a segment's first word. -/
def entryAsm (s : State) (g : Group) (e : Entry) : Nat :=
  if e.woff ≠ 0 ∨ e.rep.isSome ∨ e.wait.isSome then 0
  else match s.object? g.ctx g.obj with | some o => (nth o.segs e.seg).asm | none => 0

/-- Lanes of a group that have named a segment and wait at its first word. -/
def atSegment (g : Group) (seg : Nat) : Mask :=
  (g.entries.filter fun e => e.seg == seg && e.woff == 0 && e.rep.isNone && e.wait.isNone).foldl (fun m e => m ||| e.lanes) 0

/-- The assemble rule (R80). -/
def assembled (s : State) (g : Group) (e : Entry) : Bool :=
  match entryAsm s g e with
  | 1 => g.liveMask &&& (0xF#32 <<< (4 * e.quad)) == e.lanes
  | 2 => atSegment g e.seg == g.liveMask
  | _ => true

/-- The batch an entry would make by itself. -/
def soloBatch (s : State) (g : Group) (e : Entry) : Batch :=
  ⟨0, g.core, g.sched, [⟨g.gid, e.lanes, e.loops⟩], g.obj, e.seg, e.woff, e.rep, e.time, 0, s.clock, e.wait, none, e.bp, 0⟩

/-- The first word's sources allow issue in every lane of the entry. A word that decode refuses issues and traps. -/
def sourcesReady (s : State) (g : Group) (e : Entry) : Bool :=
  let b := soloBatch s g e
  match nextWord s b with
  | .ok i =>
    let present := (Member.mk g.gid e.lanes e.loops).present (isEnd i)
    (partsOf i).all fun j => !mustWait s (srcCtx s b g) g present (partLanes g present j) j
  | .error _ => true

/-- A stop has nothing to wait for in an entry: it waits in a word, or stands before a safe point (R446). -/
def entryStops (s : State) (g : Group) (e : Entry) : Bool := e.wait.isSome || atSafe s (soloBatch s g e)

/-- An entry is ready (R77, R80). Its group may form batches; while it is being stopped, only to reach its next safe point (R446). -/
def entryReady (s : State) (g : Group) (e : Entry) : Bool :=
  groupMay s g && !(stopsNow s g && entryStops s g e) && assembled s g e && sourcesReady s g e
    && match stepOf s g.gid with
      | some st => stepMay s (soloBatch s g e) st e.lanes
      | none => true

def unitOf (g : Group) (es : List Entry) (e : Entry) : EntryUnit :=
  let lanes := es.foldl (fun m x => m ||| x.lanes) 0
  ⟨g.gid, g.ctx, g.obj, e.seg, e.woff, e.rep, e.wait, e.loops, lanes, homeSlots g lanes, g.cprio, minOf (es.map Entry.time), maxOf (es.map Entry.since), es.all Entry.bp⟩

/-- The ready units of a group. -/
def groupUnits (s : State) (g : Group) : List EntryUnit :=
  (g.entries.filter (entryReady s g)).foldl (fun us e =>
    if entryAsm s g e = 2 then
      let all := g.entries.filter fun x => x.seg == e.seg && x.woff == 0 && x.rep.isNone && x.wait.isNone
      if us.any (fun u => u.seg == e.seg && u.woff == 0) || !all.all (entryReady s g) then us else us ++ [unitOf g all e]
    else us ++ [unitOf g [e] e]) []

/-- The ready units of a scheduler. -/
def readyUnits (s : State) (core sched : Nat) : List EntryUnit :=
  (s.groups.filter fun g => g.core == core && g.sched == sched && !g.entries.isEmpty).flatMap (groupUnits s)

/-- The oldest unit, ties to the lowest home slot. -/
def oldestUnit (us : List EntryUnit) : Option EntryUnit := minBy (fun u => u.time * 8 + minOf u.slots) us

/-- A unit may join a batch: at the same segment's first word of the same object, or at the same point of the same group (R76, R81); a breakpoint
has stopped both there or neither (R466). -/
def joins (u v : EntryUnit) : Bool :=
  u.ctx == v.ctx && u.obj == v.obj && u.seg == v.seg && u.bp == v.bp
    && ((u.woff == 0 && v.woff == 0 && u.rep.isNone && v.rep.isNone && u.wait.isNone && v.wait.isNone)
        || (u.gid == v.gid && u.woff == v.woff && u.rep == v.rep && u.wait == v.wait && u.loops == v.loops))

/-- The other units for a batch, oldest first, each where its slots are free. -/
def gather (u : EntryUnit) : Nat → List EntryUnit → List EntryUnit → List EntryUnit
  | 0, _, acc => acc
  | n + 1, us, acc =>
    match oldestUnit (us.filter fun v => !acc.contains v && joins u v && v.slots.all fun x => !(acc.any fun w => w.slots.contains x)) with
    | none => acc
    | some v => gather u n us (acc ++ [v])

/-- The units of the batch that a scheduler would form (R81). A stepped group forms one by itself. -/
def newBatch (s : State) (core sched : Nat) : List EntryUnit :=
  let us := readyUnits s core sched
  match oldestUnit us with
  | none => []
  | some u => gather u 8 us [u]

/-- A unit that has waited 4096 issue clocks (R82). -/
def starved (s : State) (core sched : Nat) : Option EntryUnit :=
  oldestUnit ((readyUnits s core sched).filter fun u => decide (s.clock ≥ u.since + 4096))

def unitsKey (us : List EntryUnit) : Nat :=
  issueKey (maxOf (us.map EntryUnit.cprio)) (minOf (us.map EntryUnit.time)) (minOf (us.flatMap EntryUnit.slots))

/-- A scheduler forms a batch now: it has not issued in this clock, nothing is at issue, and the new batch goes before its others or an
entry has waited out its bound (R81, R82, R345; log entry 199). -/
def formsNow (s : State) (core sched : Nat) : Bool :=
  s.issue.isNone && !s.issued.contains (core, sched)
    && ((starved s core sched).isSome
      || match newBatch s core sched with
        | [] => false
        | us => (match bestBatch s core sched with | some b => decide (unitsKey us < batchKey s b) | none => true))

/-- Members of a batch by group, in the order of their issue lanes (R72); lanes of one group join. -/
def membersOf (us : List EntryUnit) : List Member :=
  (sortWith (fun a b => decide (minOf a.slots ≤ minOf b.slots)) us).foldl (fun ms u =>
    if ms.any fun m => m.gid == u.gid then ms.map fun m => if m.gid == u.gid then { m with lanes := m.lanes ||| u.lanes } else m
    else ms ++ [⟨u.gid, u.lanes, u.loops⟩]) []

/-- Units leave the sorter for a new batch. -/
def takeUnits (s : State) (core sched : Nat) (us : List EntryUnit) : State × Nat :=
  match us with
  | [] => (s, 0)
  | u :: _ =>
    let (id, s) := s.fresh
    let s := us.foldl (fun s v => s.modGroup v.gid fun g =>
      { g with entries := g.entries.filter fun e =>
          !(e.seg == v.seg && e.woff == v.woff && e.rep == v.rep && e.wait == v.wait && e.loops == v.loops && e.lanes &&& v.lanes != 0) }) s
    ({ s with batches := s.batches ++
        [⟨id, core, sched, membersOf us, u.obj, u.seg, u.woff, u.rep, minOf (us.map EntryUnit.time), 0, s.clock, u.wait, none, u.bp, id⟩] }, id)

/-- BATCH_FORM (R81). A starved entry goes alone, and first (R82). -/
def batchForm (s : State) (core sched : Nat) : State :=
  if formsNow s core sched && (starved s core sched).isNone then (takeUnits s core sched (newBatch s core sched)).1 else s

def execBatchForm (core sched : Nat) (s : State) : Outcome State Fault Refusal := .next (batchForm s core sched)

/-! ### Breakpoints (R466) -/

/-- The groups of a batch with a present fibre at a word; helpers match nothing (R79, R89). -/
def breakGroups (s : State) (b : Batch) (i : Instr) : List Group :=
  b.members.filterMap fun m => (s.group? m.gid).filter fun g => g.workers &&& m.present (isEnd i) != 0

/-- The lowest breakpoint entry that a batch about to issue a safe point meets, with that safe point's ordinal, in a running job or in the step
of its group. -/
def breakHit (s : State) (b : Batch) : Option (Nat × Nat × Group) :=
  match b.bp || !atSafe s b, nextWord s b with
  | false, .ok i =>
    (match breakGroups s b i with
     | [] => none
     | g :: _ =>
       match (s.object? g.ctx b.obj).bind fun o => o.safeAt b.seg b.woff with
       | none => none
       | some (ord, _) =>
         if !armed s g.ctx 1 && !(bitN ((s.context? g.ctx).getD default).trig 1 && (stepOf s g.gid).isSome) then none
         else
           ((List.range s.bps.length).find? fun n =>
             match nth s.bps n with
             | some e => e.ctx == g.ctx && e.handle == b.obj % 2 ^ 32 && e.ordinal == ord
             | none => false).map fun n => (n, ord, g))
  | _, _ => none

/-- The fibres of the batch stop before the word, and a halt wave starts; one met in a step is held in its group and may start one after the
resume (R466, R470). -/
def breakStop (s : State) (b : Batch) (n ord : Nat) (g : Group) : State :=
  let s := s.modBatch b.id fun b => { b with bp := true }
  if jobRuns s g.ctx then trigger s g.ctx 1 (breakRec (groupTrig s g 0 0x0F b.seg b.woff n) b.obj ord)
  else b.members.foldl (fun s m => raiseTrap s m.gid (afterTrap b g .brk (4 + breakFlag) m.lanes n 0) m.lanes) s

/-- A batch takes the issue slot of its scheduler, or stops at a breakpoint. -/
def issueBatch (s : State) (core sched : Nat) (b : Batch) : State :=
  match breakHit s b with
  | some (n, ord, g) => breakStop s b n ord g
  | none => { s with issue := some (.batch b.id), issued := (core, sched) :: s.issued }

/-- STARVED_ENTRY_ISSUE: at the next clock in which its scheduler issues a new batch, a starved entry is that batch (R82). -/
def starvedIssue (s : State) (core sched : Nat) : State :=
  match formsNow s core sched, starved s core sched with
  | true, some u =>
    let r := takeUnits s core sched [u]
    (match r.1.batch? r.2 with
     | some b => issueBatch r.1 core sched b
     | none => r.1)
  | _, _ => s

def execStarvedEntryIssue (core sched : Nat) (s : State) : Outcome State Fault Refusal := .next (starvedIssue s core sched)

/-! ### Profiling (R483) -/

/-- The record of a tagged word (R483). Its four times are open. -/
def profRec (s : State) (g : Group) (t : ProfTag) : List Byte :=
  let f (n : Nat) : List Byte := toBytes ((s.freeVal (8101 + n)).toNat % 65536) 2
  toBytes 7 1 ++ toBytes g.index 1 ++ toBytes (t.ord % 65536) 2 ++ toBytes t.off 4 ++ f 0 ++ f 1 ++ f 2 ++ f 3
    ++ toBytes t.level 8 ++ toBytes s.gts 8

/-- The tagged word has issued and none of it is in flight any more. -/
def profDone (s : State) (g : Group) (t : ProfTag) : Bool :=
  s.issue.isNone && !(g.flights.any fun fl => fl.batch == t.batch && fl.woff == t.woff && decide (t.seq ≤ fl.seq) && decide (fl.seq < t.seq + 64))

/-- PROF_TAG: a word that has been tagged at its issue is recorded once it has written back. -/
def profTag (s : State) (core sched : Nat) : State :=
  let k := profKey core sched
  match s.prof.find? fun p => p.sched == k with
  | none => s
  | some p =>
    match p.tag with
    | none => s
    | some t =>
      match s.group? t.gid, s.context? p.ctx with
      | some g, some c =>
        if !profDone s g t then s
        else
          let x := lfsrStep p.lfsr
          let q : Prof := { p with tag := none, lfsr := x, left := profSpacing c x }
          traceRec { s with prof := q :: s.prof.filter fun y => y.sched != k } g (t.ord, t.off) (profRec s g t)
      | _, _ => { s with prof := { p with tag := none } :: s.prof.filter fun y => y.sched != k }

def execProfTag (core sched : Nat) (s : State) : Outcome State Fault Refusal := .next (profTag s core sched)

/-- TRACE_SYNC: a SYNC that is due is written (R481). -/
def execTraceSync (gid : Nat) (s : State) : Outcome State Fault Refusal := .next (flushSync s gid)

/-! ### BATCH_ISSUE (R81) -/

/-- The batch that goes first takes the issue slot, unless a new batch goes before it; at a breakpoint it stops instead. -/
def batchIssue (s : State) (core sched : Nat) : State :=
  if s.issue.isSome || s.issued.contains (core, sched) || formsNow s core sched then s
  else
    match bestBatch s core sched with
    | none => s
    | some b => issueBatch s core sched b

def execBatchIssue (core sched : Nat) (s : State) : Outcome State Fault Refusal := .next (batchIssue s core sched)

/-! ### The clock -/

/-- A batch found unable to issue in this clock stands before an empty source (R482, event 5). -/
def stalledOn (s : State) (b : Batch) : Option Nat :=
  match nextWord s b, batchGroups s b with
  | .ok i, (g, lanes) :: _ =>
    if (batchGroups s b).any fun p => (partsOf i).any fun j =>
        mustWait s (srcCtx s b p.1) p.1 lanes (partLanes p.1 p.2 j) j then some g.ctx else none
  | _, _ => none

/-- Entries that are not ready wait anew from the next clock (R82). -/
def refreshEntries (s : State) : State :=
  if s.groups.all fun g => g.entries.isEmpty then s
  else
    { s with groups := s.groups.map fun g =>
        { g with entries := g.entries.map fun e => if entryReady s g e then e else { e with since := s.clock + 1 } } }

/-- The contexts that are not stopped count the clock (R482). -/
def Context.onChip (c : Context) : Bool := c.run == .running || c.run == .stopping

/-- The clock goes on (R12, R81), and with it what happens on other chips. -/
def tickClock (s : State) : State :=
  let s := match energyWaiter s with
    | some ctx => countEvent (s.modContext ctx fun c => { c with ewait := c.ewait + 1 }) ctx 9 1
    | none => s
  let s := s.tried.foldl (fun s id =>
    match (s.batch? id).bind (stalledOn s) with
    | some ctx => countEvent s ctx 5 1
    | none => s) s
  let s := refreshEntries s
  takeNews { s with
    clock := s.clock + 1, issued := [], tried := [], admitted := []
    contexts := s.contexts.map fun c => if c.onChip then { c with act := c.act + 1 } else c }

end Sys2Proof.Machine
end

