-- ==== Sys2Proof/Machine/Host.lean ====
section
/-! DEFINITION. The outside of the chip: walks and fault records (R392 to R398), host accesses (R399, R162), peer requests (R402, R473),
the control window and the commands of R400 and R401. -/

namespace Sys2Proof.Machine

open Host (Outcome)

/-! ### Walks, fault records and traps that wait -/

/-- The agents that stand for the walkers and for peers' requests: no core bears their numbers. -/
def walkAgent : Nat := 578
def peerAgent : Nat := 579

/-- PAGE_WALK: the walk that an access of a context asks for (R392, R393): a leaf that allows it takes A, and D for a write; a page not
present has its fault filed (R396). -/
def pageWalk (s : State) (ctx va : Nat) (acc : Access) : State :=
  match s.context? ctx with
  | none => s
  | some c =>
    match translate s walkAgent c va acc 0 [] with
    | (s, .error (.page np)) => fileFault s ctx va 0 acc np
    | (s, _) => s

def execPageWalk (ctx va : Nat) (access : Access) (s : State) : Outcome State Fault Refusal := .next (pageWalk s ctx va access)

/-- FAULT_RECORD_FLUSH (R396). -/
def execFaultRecordFlush (s : State) : Outcome State Fault Refusal := .next (flushFault s)

/-- TRAP_TAKE: a raised trap that waited for a frame, a ring slot, a ray job or the resume of its job is taken (R428); one met while its job
did not run may start a wave first (R470). An RFT whose frame's read a peer held reads it again (R402, R442). -/
def trapTake (s : State) (gid : Nat) : State :=
  match s.group? gid with
  | none => s
  | some g =>
    if !jobRuns s g.ctx || trigWaits s g.ctx then s
    else
      match g.trap with
      | none => if g.stop = .running then tryReturn s gid else s
      | some t => if g.stop = .trapping then takeOrWave s g t else s

def execTrapTake (gid : Nat) (s : State) : Outcome State Fault Refusal := .next (trapTake s gid)

/-! ### The host's accesses through BAR2 (R162, R399) -/

/-- A write to a sealed frame is discarded and logged (R395). -/
def sealedWrite (s : State) (ctx pa : Nat) : State := { s with errlog := s.errlog ++ [⟨3, ctx, 0, 0, pa / 65536 * 65536⟩], msix := s.msix ++ [2] }

/-- A write to local GDDR, frame by frame. -/
def bar2Write (s : State) (pa : Nat) (bs : List Byte) : State :=
  (pageParts pa bs.length).foldl (fun s p =>
    if s.isSealed p.1 then sealedWrite s 0xFFF p.1 else s.writePa p.1 ((bs.drop (p.1 - pa)).take p.2)) s

def execHostBar2Write (pa : Nat) (bytes : List Byte) (s : State) : Outcome State Fault Refusal :=
  if pa + bytes.length > gddrSize then .fault (.noSuchFrame pa)
  else if s.host.ready then .next (bar2Write s pa bytes)
  else .next s

def execHostBar2Read (pa n : Nat) (s : State) : Outcome State Fault Refusal :=
  if pa + n > gddrSize then .fault (.noSuchFrame pa)
  else if s.host.ready then .next { s with hostData := s.readPa pa n }
  else .next s

/-- The sizes a completer takes (R399), naturally aligned. -/
def hostAtomicOk (op : HostAtomic) (pa size : Nat) : Bool :=
  (size == 4 || size == 8 || (size == 16 && op == .cas)) && pa % size == 0

/-- What an AtomicOp leaves; none for a CAS that does not match. -/
def hostAtomicNew (op : HostAtomic) (size old a b : Nat) : Option Nat :=
  match op with
  | .fetchAdd => some ((old + a) % 2 ^ (8 * size))
  | .swap => some (a % 2 ^ (8 * size))
  | .cas => if old = a % 2 ^ (8 * size) then some (b % 2 ^ (8 * size)) else none

def hostAtomic (s : State) (op : HostAtomic) (pa size a b : Nat) : State :=
  if !hostAtomicOk op pa size || !s.host.ready then s
  else
    let old := s.readPaN pa size
    let s : State := { s with hostData := toBytes old size }
    match hostAtomicNew op size old a b with
    | none => s
    | some v => if s.isSealed pa then sealedWrite s 0xFFF pa else s.writePa pa (toBytes v size)

def execHostAtomicop (op : HostAtomic) (pa size a b : Nat) (s : State) : Outcome State Fault Refusal :=
  if pa + size > gddrSize then .fault (.noSuchFrame pa) else .next (hostAtomic s op pa size a b)

/-! ### Peer requests (R402, R473) -/

/-- The context that holds a job here. -/
def State.jobContext? (s : State) (job : Nat) : Option Context := if job = 0xFFFF then none else s.contexts.find? fun c => c.job == job

/-- A response leaves the chip, or waits in the freeze buffer while the job is not running. -/
def respond (s : State) (job : Nat) (m : FabricMsg) : State :=
  if s.jobState job == .running then { s with outbox := s.outbox ++ [m] }
  else { s with jobs := s.jobs.map fun j => if j.job == job then { j with held := j.held ++ [m] } else j }

/-- What a peer's atomic leaves: the operations of R45's selector, or a compare-and-swap. -/
def peerAtomicNew (r : PeerReq) (old : Nat) : Option Nat :=
  let n := r.size
  if r.op = 7 then (if old = ofBytes (r.data.take n) then some (ofBytes ((r.data.drop n).take n)) else none)
  else some (atomOp r.ty r.op old (ofBytes (r.data.take n)))

/-- A request at translated parts: its data, whether any is poisoned, and the writes. -/
def peerPerform (s : State) (r : PeerReq) (parts : List (Nat × Nat × Target)) : State × Bool × List Byte :=
  let x := homeBytes s parts
  let put (s : State) (bs : List Byte) : State := parts.foldl (fun s p => writeTarget s p.2.2 ((bs.drop (p.1 - r.va)).take p.2.1)) s
  match r.access with
  | .read | .fetch => (s, x.2, x.1)
  | .write => (put s (r.data.take r.size), false, [])
  | .atomic | .reduce =>
    if x.2 then (s, true, [])
    else
      match peerAtomicNew r (ofBytes x.1) with
      | none => (s, false, x.1)
      | some v => (put s (toBytes v r.size), false, if r.access = .reduce then [] else x.1)

/-- The sealed frame a request's write would reach, if its pages are otherwise allowed (R395). -/
def peerSealed (s : State) (c : Context) (r : PeerReq) : Option Nat :=
  if !accWrites r.access then none
  else
    (pageParts r.va r.size).findSome? fun p =>
      match walk s c p.1 with
      | .leaf _ e bits =>
        (match leafTarget e bits p.1 with
         | .local pa => if permits e r.access && s.isSealed pa then some pa else none
         | _ => none)
      | _ => none

/-- An answer to a request: a step's leaves at once, whatever the job's state (R473, R477). -/
def answerPeer (s : State) (r : PeerReq) (m : FabricMsg) : State :=
  if r.step then { s with outbox := s.outbox ++ [m] } else respond s r.job m

/-- A request is translated by the context of its job and performs, ends in an access fault, or parks at a page fault, filed with AGENT
7 (R402); where the page leads on to a peer that does not answer yet, it goes back to its sender. NP is 0 for a write to a leaf whose D is clear in the sender's tables, which the request does not tell (R396; log entry 10). -/
def peerServe (s : State) (r : PeerReq) : State :=
  match s.jobContext? r.job with
  | none => answerPeer s r (.response r.tag false false [])
  | some c =>
    match peerSealed s c r with
    | some pa => answerPeer (sealedWrite s c.ctx pa) r (.response r.tag true false [])
    | none =>
      match portParts s peerAgent c.ctx r.va r.size r.access r.data with
      | (s, .error (.page va np)) =>
        { fileFault s c.ctx va 7 r.access (np && (!accWrites r.access || s.choose 6 true false)) with heldPeers := s.heldPeers ++ [r] }
      | (s, .error (.held _)) => { s with outbox := s.outbox ++ [.returned r.tag] }
      | (s, .error _) => answerPeer s r (.response r.tag false false [])
      | (s, .ok parts) =>
        let x := peerPerform s r parts
        answerPeer x.1 r (.response r.tag true x.2.1 x.2.2)

/-- A request is accepted while its job runs here, or belongs to no job here, and a step's while the job is frozen; else it goes back to
its sender (R473, R477). -/
def peerRequest (s : State) (r : PeerReq) : State :=
  if !s.host.ready then s
  else
    match s.jobContext? r.job with
    | some c => if s.jobState c.jobKey == .running || (r.step && s.jobState c.jobKey == .frozen) then peerServe s r else { s with outbox := s.outbox ++ [.returned r.tag] }
    | none => peerServe s r

def execPeerRequest (r : PeerReq) (s : State) : Outcome State Fault Refusal := .next (peerRequest s r)

/-! ### The control window (R400) -/

/-- HSTAT. -/
def hstat (h : HostRegs) : Nat :=
  (if h.ready then 1 else 0) + (if h.busy then 2 else 0) + (if h.overrun then 4 else 0) + (if h.therm then 8 else 0)

/-- HSTAT_READ. -/
def execHstatRead (s : State) : Outcome State Fault Refusal :=
  .next { s with hostData := toBytes (hstat s.host) 8, host := { s.host with overrun := false } }

/-- What a host read of eight bytes of the window answers. Only HSTAT's has an effect, which is HSTAT_READ; before boot ends the part
answers IDENT and HSTAT alone (R400, R403, R455, R460). -/
def registerRead (s : State) (off : Nat) : Option Word :=
  let h := s.host
  if off = 0 then some (w64 (0x512A + Config.stepping.toNat * 2 ^ 16))
  else if off = 0x08 then some (w64 (hstat h))
  else if !h.ready then none
  else if off = 0x10 then some (w64 h.ctxt)
  else if off = 0x18 then some (w64 h.frbase)
  else if off = 0x20 then some (w64 (h.frlog + h.frhead * 2 ^ 16 + h.frtail * 2 ^ 32))
  else if off = 0x100 then some (w64 h.cmd)
  else if off = 0x108 then some h.arg0
  else if off = 0x110 then some h.arg1
  else if off = 0x118 then some h.arg2
  else if off = 0x120 then some h.arg3
  else if off = 0x128 then some h.result
  else if off % 16 = 0 ∧ 0x400 ≤ off ∧ off < 0x4A0 then some (w64 (s.secnt.getD ((off - 0x400) / 16) (0, 0)).1)
  else if off % 16 = 8 ∧ 0x400 ≤ off ∧ off < 0x4A0 then some (w64 (s.secnt.getD ((off - 0x400) / 16) (0, 0)).2)
  else if off % 8 = 0 ∧ 0x600 ≤ off ∧ off < 0x680 then s.progBuf[(off - 0x600) / 8]?
  else if off % 8 = 0 ∧ 0x700 ≤ off ∧ off < 0x800 then s.mailbox[(off - 0x700) / 8]?
  else none

/-- FRCTL's writable fields: FRLOG and FRHEAD. -/
def writeFrctl (h : HostRegs) (v : Word) : HostRegs := { h with frlog := field v 0 5, frhead := field v 16 16 }

/-- A write to CMD or to an argument: it takes effect while no command runs. -/
def writeCommand (s : State) (off : Nat) (v : Word) : State :=
  let h := s.host
  if h.busy then { s with host := { h with overrun := true } }
  else if off = 0x100 then
    let code := field v 0 8
    { s with host := { h with cmd := code, busy := true }, hostCmd := some ⟨code, h.arg0, h.arg1, h.arg2, h.arg3, none⟩ }
  else if off = 0x108 then { s with host := { h with arg0 := v } }
  else if off = 0x110 then { s with host := { h with arg1 := v } }
  else if off = 0x118 then { s with host := { h with arg2 := v } }
  else { s with host := { h with arg3 := v } }

/-- A write of eight bytes to a register of the window; a read-only or unnamed offset takes nothing, and before boot ends the part
answers no write (R400, R403, R460). -/
def registerWrite (s : State) (off : Nat) (v : Word) : State :=
  let h := s.host
  if !h.ready then s
  else if off = 0x10 then
    (if s.contexts.isEmpty then { s with host := { h with ctxt := field v 7 45 * 128 } } else s)
  else if off = 0x18 then { s with host := { h with frbase := field v 5 47 * 32 } }
  else if off = 0x20 then { s with host := writeFrctl h v }
  else if off % 8 = 0 ∧ 0x100 ≤ off ∧ off ≤ 0x120 then writeCommand s off v
  else if off % 8 = 0 ∧ 0x600 ≤ off ∧ off < 0x680 then { s with progBuf := s.progBuf.set ((off - 0x600) / 8) v }
  else if off % 8 = 0 ∧ 0x700 ≤ off ∧ off < 0x800 then { s with mailbox := s.mailbox.set ((off - 0x700) / 8) v }
  else s

def execHostRegisterWrite (off : Nat) (value : Word) (s : State) : Outcome State Fault Refusal := .next (registerWrite s off value)

/-! ### Commands -/

/-- A command of the table of R401, R445 or R458. -/
def knownCommand (code : Nat) : Bool := (decide (1 ≤ code) && decide (code ≤ 0x0B)) || (decide (0x10 ≤ code) && decide (code ≤ 0x1B))

/-- The command under way has this code and is still to act. -/
def cmdNow (s : State) (code : Nat) : Option HostCmd :=
  match s.hostCmd with
  | some c => if c.code = code ∧ c.result.isNone then some c else none
  | none => none

/-- A command has acted. -/
def cmdEnd (s : State) (r : Nat) : State := { s with hostCmd := s.hostCmd.map fun c => { c with result := some r } }

/-- COMMAND_DONE: RESULT is written, BUSY clears and vector 1 is raised. A code that names no command ends with RESULT 1. -/
def commandDone (s : State) : State :=
  match s.hostCmd with
  | none => s
  | some c =>
    match c.result.or (if knownCommand c.code then none else some 1) with
    | none => s
    | some r => { s with host := { s.host with result := w64 r, busy := false }, hostCmd := none, msix := s.msix ++ [1] }

def execCommandDone (s : State) : Outcome State Fault Refusal := .next (commandDone s)

/-! ### Contexts -/

/-- A context descriptor obeys R385. -/
def descriptorOk (s : State) (bs : List Byte) : Bool :=
  let f := byteField bs
  f 0 8 % 2 ^ 21 == 0 && decide (f 0 8 + 2 ^ 21 ≤ gddrSize) && decide (f 8 1 ≤ 2) && f 9 1 == 0
    && (f 10 2 == 0xFFFF || !(s.contexts.any fun c => c.job == f 10 2))
    && decide (4 ≤ f 12 2) && decide (f 12 2 ≤ 2047) && f 14 2 == 0
    && f 24 8 % 65536 == 0 && f 40 8 % 8192 == 0 && f 52 4 == 0 && f 56 8 % 4096 == 0 && f 68 4 == 0 && f 80 48 == 0

/-- A context from its descriptor: its account, events and channels start at zero (R385, R401). -/
def contextOf (ctx : Nat) (bs : List Byte) : Context :=
  let f := byteField bs
  { ctx := ctx, root := f 0 8, fpol := f 8 1, job := f 10 2, vec := f 12 2, seed := w64 (f 16 8), parena := f 24 8, psize := f 32 8,
    cpool := f 40 8, ccount := f 48 4, ovf := f 56 8, ovfsz := f 64 4, trbuf := f 72 8, run := .running, acks := [], energy := 0, ewait := 0,
    budget := 0, trapbase := 0, trapframe := 0, frames := [], events := [], regions := [], contUsed := [], trig := 0, tracectl := 0,
    pmctl := w64 (4 * 2 ^ 36), dbgmbox := 0, act := 0, pmc := List.replicate 6 0, traceGap := false, stopArg := none, stopAt := 0 }

/-- The loader of a context, slot 1 (R412): one segment of two words. -/
def loaderObj (ctx : Nat) : CodeObj :=
  { ctx := ctx, slot := 1, count := 0, exec := 0, objid := 0, code := 0, segs := [⟨0, 2, 0, 0, 0⟩], safes := [⟨0, 0, 0⟩],
    maps := [2 ^ 0xBF], streams := [], entry := 0, preload := [], pipeline := none, loader := true, retired := false }

/-- CTX_CREATE (R385, R401). -/
def ctxCreate (s : State) : State :=
  match cmdNow s 0x01 with
  | none => s
  | some k =>
    let ctx := k.a0.toNat
    let at_ := s.host.ctxt + 128 * ctx
    if ctx ≥ 4096 ∨ at_ + 128 > gddrSize then cmdEnd s 2
    else if (s.context? ctx).isSome then cmdEnd s 3
    else
      let bs := s.readPa at_ 128
      if s.poisoned at_ 128 ∨ descriptorOk s bs = false then cmdEnd s 2
      else cmdEnd { s with contexts := s.contexts ++ [contextOf ctx bs], objects := s.objects ++ [loaderObj ctx] } 0

def execCtxCreate (s : State) : Outcome State Fault Refusal := .next (ctxCreate s)

/-- A core without anything of a context: writes already performed at the core go to their homes first. -/
def coreWithout (lids : List Nat) (ctx : Nat) (c : Core) : Core :=
  { c with
    l1 := c.l1.filter fun l => l.ctx != ctx, pend := c.pend.filter fun w => w.ctx != ctx, grinder := c.grinder.filter fun l => l.ctx != ctx
    icache := c.icache.filter fun l => l.1 != ctx, iwant := c.iwant.filter fun l => l.1 != ctx
    rlt := c.rlt.map fun e => if e.any fun x => x.ctx == ctx then none else e
    rays := c.rays.filter fun j => j.ctx != ctx
    reserved := if c.reserved.any lids.contains then none else c.reserved }

/-- Whether the issue slot holds work of a context. -/
def issueOf (s : State) (ctx : Nat) : Bool :=
  match s.issue with
  | some (.batch id) => (match s.batch? id with
    | some b => b.members.any fun m => (s.group? m.gid).any fun g => g.ctx == ctx
    | none => true)
  | some (.msq bid) => (s.block? bid).any fun b => b.ctx == ctx
  | some (.stuff gid) => (s.group? gid).any fun g => g.ctx == ctx
  | none => false

/-- Everything that waits in a core for its home performs there. -/
def performContext (s : State) (ctx : Nat) : State :=
  ((s.cores.filter fun c => c.pend.any fun w => w.ctx == ctx).map Core.core).foldl (fun s c => performSome s c fun w => w.ctx == ctx) s

/-- All that a context has on the chip is gone: peers' parked requests end as access faults (R401, R402). -/
def dropContext (s : State) (c : Context) : State :=
  let ctx := c.ctx
  let s := performContext s ctx
  let gone := s.heldPeers.filter fun r => r.job == c.job
  let s := gone.foldl (fun s r => { s with outbox := s.outbox ++ [.response r.tag false false []] }) s
  let lids := (s.launches.filter fun l => l.ctx == ctx).map Launch.lid
  let gids := (s.groups.filter fun g => g.ctx == ctx).map Group.gid
  { s with
    issue := if issueOf s ctx then none else s.issue
    tlb := s.tlb.filter fun t => t.ctx != ctx
    pins := s.pins.filter fun p => p.ctx != ctx
    parks := s.parks.filter fun p => p.ctx != ctx
    cores := s.cores.map (coreWithout lids ctx)
    groups := s.groups.filter fun g => g.ctx != ctx
    blocks := s.blocks.filter fun b => b.ctx != ctx
    batches := s.batches.filter fun b => !(b.members.any fun m => gids.contains m.gid)
    contexts := dropBy Context.ctx ctx s.contexts
    objects := s.objects.filter fun o => o.ctx != ctx
    queues := s.queues.filter fun q => q.ctx != ctx
    channels := s.channels.filter fun x => x.ctx != ctx
    launches := s.launches.filter fun l => l.ctx != ctx
    rasters := s.rasters.filter fun r => r.ctx != ctx
    pipes := s.pipes.filter fun p => p.ctx != ctx
    conts := s.conts.filter fun k => k.ctx != ctx
    counters := s.counters.filter fun k => k.ctx != ctx
    faults := s.faults.filter fun r => r.ctx != ctx
    heldPeers := s.heldPeers.filter fun r => r.job != c.job
    images := s.images.filter fun im => im.ctx != ctx
    jobs := dropBy Job.job c.jobKey s.jobs
    trigs := s.trigs.filter fun t => t.1 != ctx
    stepping := if s.stepping.any fun st => st.ctx == ctx then none else s.stepping
    stuff := if s.stuff.any fun x => gids.contains x.gid then none else s.stuff
    prof := s.prof.filter fun p => p.ctx != ctx }

/-- CTX_DESTROY (R401). -/
def ctxDestroy (s : State) : State :=
  match cmdNow s 0x02 with
  | none => s
  | some k =>
    match s.context? k.a0.toNat with
    | none => cmdEnd s 3
    | some c => enterFired (claimPools (cmdEnd (dropContext s c) 0))

def execCtxDestroy (s : State) : Outcome State Fault Refusal := .next (ctxDestroy s)

/-! ### Queues (R164, R401) -/

/-- A queue header obeys R164. -/
def headerOk (bs : List Byte) : Bool :=
  let f := byteField bs
  (bs.drop 8).take 120 == List.replicate 120 0 && f 136 8 % 64 == 0 && decide (1 ≤ f 144 1) && decide (f 144 1 ≤ 16) && decide (f 145 1 ≤ 1)
    && decide (f 146 1 < 64) && (f 145 1 == 0 || f 146 1 == 0) && f 147 45 == 0

/-- A queue from its header; its consumer starts at RIDX. -/
def queueOf (ctx va : Nat) (bs : List Byte) : QueueReg :=
  let f := byteField bs
  { ctx := ctx, header := va, cls := f 145 1, clu := f 146 1, base := f 136 8, log2c := f 144 1, next := f 128 8, openIdx := [], bound := none,
    puts := [], closing := false }

/-- Registered queues a chip holds. -/
def queueTable : Nat := 8192

/-- QUEUE_REG. A header that cannot be read fails R164 too, and a fault that its read meets is filed (R396); a peer may hold the read. -/
def queueReg (s : State) : State :=
  match cmdNow s 0x03 with
  | none => s
  | some k =>
    let ctx := k.a0.toNat
    let va := k.a1.toNat
    if (s.context? ctx).isNone then cmdEnd s 3
    else if va % 128 ≠ 0 ∨ s.queues.length ≥ queueTable ∨ (s.queue? ctx va).isSome then cmdEnd s 2
    else
      match engineRead s tscAgent ctx va 192 with
      | (s, .error (.page a np)) => cmdEnd (fileFault s ctx a 1 .read np) 2
      | (s, .error (.held _)) => s
      | (s, .error _) => cmdEnd s 2
      | (s, .ok bs) => if headerOk bs then cmdEnd { s with queues := s.queues ++ [queueOf ctx va bs] } 0 else cmdEnd s 2

def execQueueReg (s : State) : Outcome State Fault Refusal := .next (queueReg s)

/-- The registered queue of a header address; the command names no context, so the one registered first (log entry 55). -/
def queueAt (s : State) (va : Nat) : Option QueueReg := s.queues.find? fun q => q.header == va

/-- QUEUE_BIND. -/
def queueBind (s : State) : State :=
  match cmdNow s 0x04 with
  | none => s
  | some k =>
    match s.queues.find? fun q => q.header == k.a0.toNat && q.cls == 0 with
    | none => cmdEnd s 2
    | some q =>
      match s.queue? q.ctx k.a1.toNat with
      | some l => if l.cls ≠ 1 then cmdEnd s 2
        else cmdEnd (s.modQueue q.ctx q.header fun q => { q with bound := some (k.a1.toNat, k.a2.toNat) }) 0
      | none => cmdEnd s 2

def execQueueBind (s : State) : Outcome State Fault Refusal := .next (queueBind s)

/-- QUEUE_UNREG: no further packet is taken; it completes once no packet in hand is left. -/
def queueUnreg (s : State) : State :=
  match cmdNow s 0x05 with
  | none => s
  | some k =>
    match queueAt s k.a0.toNat with
    | none => cmdEnd s 2
    | some q =>
      if q.openIdx.isEmpty then
        cmdEnd { s with queues := s.queues.filter fun x => !(x.ctx == q.ctx && x.header == q.header) } 0
      else s.modQueue q.ctx q.header fun q => { q with closing := true }

def execQueueUnreg (s : State) : Outcome State Fault Refusal := .next (queueUnreg s)

/-! ### TLB_INVAL (R394) -/

/-- A pin stands while its page's leaf says so (R117). -/
def pinStands (s : State) (p : Pin) : Bool :=
  match s.context? p.ctx with
  | none => false
  | some c =>
    match walk s c (p.page * 65536) with
    | .leaf _ e bits => ptePin e && leafTarget e bits (p.page * 65536) == .local (p.frame * 65536)
    | _ => false

/-- The accesses translated before perform, then no leaf of the pages is held any more, nor a pin that a leaf no longer asks for. -/
def tlbInval (s : State) : State :=
  match cmdNow s 0x06 with
  | none => s
  | some k =>
    let ctx := k.a0.toNat
    let n := if k.a2.toNat = 0 then 2 ^ 57 else 65536 * k.a2.toNat
    let va := if k.a2.toNat = 0 then 0 else k.a1.toNat / 65536 * 65536
    if (s.context? ctx).isNone then cmdEnd s 3
    else
      let hit (w : PendWrite) : Bool := w.ctx == ctx && overlap w.va w.bytes.length va n
      let s := ((s.cores.filter fun c => c.pend.any hit).map Core.core).foldl (fun s c => performSome s c hit) s
      cmdEnd { s with
        tlb := s.tlb.filter fun t => !(t.ctx == ctx && overlap (t.base * 2 ^ t.bits) (2 ^ t.bits) va n)
        pins := s.pins.filter fun p => p.ctx != ctx || pinStands s p } 0

def execTlbInval (s : State) : Outcome State Fault Refusal := .next (tlbInval s)

/-! ### FAULT_RESUME and FAULT_FAIL (R398) -/

/-- The open record of a ring slot: of two, the one that stands in it now, which is the model's choice (log entry 229). -/
def recordAt (s : State) (slot : Nat) : Option FaultRec :=
  (s.faults.find? fun r => r.slot == some slot && !r.reused).or (s.faults.find? fun r => r.slot == some slot)

/-- The record closes. -/
def closeRecord (s : State) (r : FaultRec) : State := { s with faults := s.faults.filter fun x => !(x.ctx == r.ctx && x.vpage == r.vpage) }

/-- Lanes of a flight that a page holds: taken off the held list, or their cause changed. -/
def releaseHeld (page : Nat) (fail : Bool) (fl : Flight) : Flight :=
  { fl with held := fl.held.filterMap fun h =>
      if h.2.1 = .pageFault ∧ h.2.2 / 65536 = page then (if fail then some (h.1, .accessFault, h.2.2) else none) else some h }

/-- Every parked word of the context's groups, those in a save image among them. -/
def releaseWords (s : State) (r : FaultRec) (fail : Bool) : State :=
  let fix (g : Group) : Group :=
    if g.ctx == r.ctx then
      { g with
        flights := g.flights.map (releaseHeld r.vpage fail)
        aside := g.aside.map fun p => (p.1, releaseHeld r.vpage fail p.2)
        fibres := g.fibres.map fun x => { x with q := x.q.map (Stream.release r.vpage fail) } }
    else g
  { s with groups := s.groups.map fix, images := s.images.map fun im => { im with groups := im.groups.map fix } }

/-- Peers' requests parked on the page go on. -/
def releasePeers (s : State) (c : Context) (page : Nat) (serve : State → PeerReq → State) : State :=
  let mine (r : PeerReq) : Bool := r.job == c.job && (pageParts r.va r.size).any fun p => p.1 / 65536 == page
  let rs := s.heldPeers.filter mine
  rs.foldl serve { s with heldPeers := s.heldPeers.filter fun r => !mine r }

/-- Writes of the task scheduler to tables that a page held: made again, the tables whole, when its record is resumed (R398). -/
def tablesAgain (s : State) (r : FaultRec) (held : Bool) : State :=
  if held then (s.pipes.filter fun p => p.ctx == r.ctx).foldl writeTable s else s

/-- A write to a table waits for the page of a record. -/
def tableHeld (s : State) (r : FaultRec) : Bool := s.parks.any fun p => p.agent == tableAgent && p.ctx == r.ctx && p.page == r.vpage

def faultResume (s : State) : State :=
  match cmdNow s 0x07 with
  | none => s
  | some k =>
    match recordAt s k.a0.toNat with
    | none => cmdEnd s 2
    | some r =>
      let held := tableHeld s r
      let s := releaseWords (closeRecord s r) r false
      let s := tablesAgain { s with parks := s.parks.filter fun p => !(p.ctx == r.ctx && p.page == r.vpage) } r held
      let s := match s.context? r.ctx with
        | some c => releasePeers s c r.vpage peerServe
        | none => s
      cmdEnd (enterFired s) 0

def execFaultResume (s : State) : Outcome State Fault Refusal := .next (faultResume s)

/-- Jobs of the engines that are parked at a page of a record fail, and a table's write that waits for it is lost. -/
def failJobs (s : State) (r : FaultRec) : State :=
  let at_ (ctx : Nat) (fault : Option Nat) : Bool := ctx == r.ctx && fault.any fun va => va / 65536 == r.vpage
  let ray (j : RayJob) : RayJob := if at_ j.ctx j.fault then { j with failed := true } else j
  let ras (j : RasterJob) : RasterJob := if at_ j.ctx j.fault then { j with failed := true } else j
  let chan (c : Channel) : Channel :=
    { c with running := c.running.map fun j => if at_ c.ctx j.fault then { j with failed := true } else j }
  { s with
    parks := (s.parks.filter fun p => !(p.agent == tableAgent && p.ctx == r.ctx && p.page == r.vpage)).map fun p =>
      if p.ctx == r.ctx && p.page == r.vpage then { p with failed := true } else p
    cores := s.cores.map fun c => { c with rays := c.rays.map ray }
    rasters := s.rasters.map ras
    channels := s.channels.map chan
    images := s.images.map fun im =>
      { im with rays := im.rays.map fun p => (p.1, ray p.2), rasters := im.rasters.map ras, channels := im.channels.map chan } }

/-- Words that now end in an access fault trap at their groups' boundaries. -/
def raiseAll (s : State) (ctx : Nat) : State :=
  ((s.groups.filter fun g => g.ctx == ctx && !g.flights.isEmpty).map Group.gid).foldl raiseHeld s

def faultFail (s : State) : State :=
  match cmdNow s 0x08 with
  | none => s
  | some k =>
    match recordAt s k.a0.toNat with
    | none => cmdEnd s 2
    | some r =>
      let s := failJobs (releaseWords (closeRecord s r) r true) r
      let s := match s.context? r.ctx with
        | some c => releasePeers s c r.vpage fun s q => answerPeer s q (.response q.tag false false [])
        | none => s
      cmdEnd (enterFired (raiseAll s r.ctx)) 0

def execFaultFail (s : State) : Outcome State Fault Refusal := .next (faultFail s)

/-! ### SEAL, UNSEAL and SET_BUDGET (R395, R401) -/

/-- The frames a command names; none where they are not frames of the local GDDR. -/
def commandFrames (k : HostCmd) : Option (List Nat) :=
  if k.a0.toNat % 65536 ≠ 0 ∨ k.a0.toNat + 65536 * k.a1.toNat > gddrSize then none
  else some ((List.range k.a1.toNat).map fun i => k.a0.toNat + 65536 * i)

def sealFrames (s : State) : State :=
  match cmdNow s 0x09 with
  | none => s
  | some k =>
    match commandFrames k with
    | none => cmdEnd s 2
    | some fs => cmdEnd (sealAll s fs) 0

def execSealFrames (s : State) : Outcome State Fault Refusal := .next (sealFrames s)

/-- Instruction-cache lines of frames are discarded on every core. -/
def icacheDropFrames (s : State) (frames : List Nat) : State :=
  let keep (x : Nat × Nat) : Bool :=
    match s.context? x.1 with
    | none => false
    | some c =>
      match walk s c (x.2 * 128) with
      | .leaf _ e bits => (match leafTarget e bits (x.2 * 128) with
        | .local pa => !frames.contains (pa / 65536 * 65536)
        | _ => true)
      | _ => false
  { s with cores := s.cores.map fun c => if c.icache.isEmpty then c else { c with icache := c.icache.filter keep } }

def unsealFrames (s : State) : State :=
  match cmdNow s 0x0A with
  | none => s
  | some k =>
    match commandFrames k with
    | none => cmdEnd s 2
    | some fs => cmdEnd (unsealAll (icacheDropFrames s fs) fs) 0

def execUnsealFrames (s : State) : Outcome State Fault Refusal := .next (unsealFrames s)

def setBudget (s : State) : State :=
  match cmdNow s 0x0B with
  | none => s
  | some k => if k.a0.toNat ≥ 2 ^ 32 then cmdEnd s 2 else cmdEnd { s with chipBudget := k.a0.toNat } 0

def execSetBudget (s : State) : Outcome State Fault Refusal := .next (setBudget s)

end Sys2Proof.Machine
end

