-- ==== Sys2Proof/Machine/Float.lean ====
section
/-! DEFINITION. The floating, conversion and scaling instructions, opcodes 0x50 to 0x6B (R239 to R255): each lane's result and
flags, and the meaning of each row. -/

namespace Sys2Proof.Machine

open Host (Outcome)

/-- Element `j` of a source as a datum of the word's type, flushed under FI (R199, R240). -/
def fin (f : Fields) (j : Nat) (w : Word) : FV :=
  let t := tyOf f
  (fmtOfTy t).flushIn f.fi ((fmtOfTy t).decode (elem t.width j w))

/-- A word's result from one result per element. -/
def packOut (t : Ty) (rs : List (Nat × Flags)) : LaneOut := outWF (pack t.width (rs.map Prod.fst), rs.foldl (fun a r => a ||| r.2) 0)

/-- An element-wise float result. -/
def floatOut (f : Fields) (fn : Fmt → Nat → FV × Flags) : LaneOut :=
  let t := tyOf f
  packOut t ((List.range t.count).map fun j => let r := fn (fmtOfTy t) j; ((fmtOfTy t).encode r.1, r.2))

def resFadd (f : Fields) (x : LaneIn) : LaneOut := floatOut f fun m j => fvAdd m (rctx f x f.sat j) (fin f j x.a) (fin f j x.b)
def resFsub (f : Fields) (x : LaneIn) : LaneOut := floatOut f fun m j => fvAdd m (rctx f x f.sat j) (fin f j x.a) (fin f j x.b).negate
def resFmul (f : Fields) (x : LaneIn) : LaneOut := floatOut f fun m j => fvMul m (rctx f x f.sat j) (fin f j x.a) (fin f j x.b)
def resFma (f : Fields) (x : LaneIn) : LaneOut :=
  floatOut f fun m j => fvFma m (rctx f x f.sat j) (fin f j x.a) (fin f j x.b) (fin f j x.c)
def resFmin (f : Fields) (x : LaneIn) : LaneOut := floatOut f fun m j => fvMinMax m f.fo false true (fin f j x.a) (fin f j x.b)
def resFmax (f : Fields) (x : LaneIn) : LaneOut := floatOut f fun m j => fvMinMax m f.fo true true (fin f j x.a) (fin f j x.b)
def resFminn (f : Fields) (x : LaneIn) : LaneOut := floatOut f fun m j => fvMinMax m f.fo false false (fin f j x.a) (fin f j x.b)
def resFmaxn (f : Fields) (x : LaneIn) : LaneOut := floatOut f fun m j => fvMinMax m f.fo true false (fin f j x.a) (fin f j x.b)

def resFcmp (f : Fields) (x : LaneIn) : LaneOut :=
  let r := fcmpFV (f.sc.toNat % 16) (fin f 0 x.a) (fin f 0 x.b)
  ⟨[], some r.1, r.2⟩

def resFclass (f : Fields) (x : LaneIn) : LaneOut :=
  packOut (tyOf f) ((List.range (tyOf f).count).map fun j => (fclassFV (fmtOfTy (tyOf f)) (fin f j x.a), 0))

/-- FNEG and FABS move bits; FI and FO flush (R245). -/
def signElem (f : Fields) (j : Nat) (w : Word) (fn : Nat → Nat → Nat) : Nat × Flags :=
  let t := tyOf f
  let m := fmtOfTy t
  let p := elem t.width j w
  let sign := 2 ^ (t.width - 1)
  let p := if f.fi && m.isSub (m.decode p) then p / sign * sign else p
  let q := fn sign p
  if f.fo && m.isSub (m.decode q) then (q / sign * sign, fUF ||| fNX) else (q, 0)

def resFneg (f : Fields) (x : LaneIn) : LaneOut :=
  packOut (tyOf f) ((List.range (tyOf f).count).map fun j => signElem f j x.a fun sign p => Nat.xor p sign)
def resFabs (f : Fields) (x : LaneIn) : LaneOut :=
  packOut (tyOf f) ((List.range (tyOf f).count).map fun j => signElem f j x.a fun sign p => p % sign)

def resFrint (f : Fields) (x : LaneIn) : LaneOut := floatOut f fun m j => frintFV m (rctx f x false j) (fin f j x.a)
def resFfract (f : Fields) (x : LaneIn) : LaneOut := floatOut f fun m j => ffractFV m f.fo (fin f j x.a)
/-- FLDEXP's scale is b's element, signed (R247). -/
def resFldexp (f : Fields) (x : LaneIn) : LaneOut :=
  floatOut f fun m j => fldexpFV m (rctx f x f.sat j) (fin f j x.a) (sextN (elem (tyOf f).width j x.b) (tyOf f).width)

/-- FFREXP writes significands and exponents (R247). -/
def resFfrexp (f : Fields) (x : LaneIn) : LaneOut :=
  let t := tyOf f
  let m := fmtOfTy t
  let rs := (List.range t.count).map fun j => ffrexpFV m f.fo (fin f j x.a)
  ⟨[pack t.width (rs.map fun r => m.encode r.1), pack t.width (rs.map fun r => wrapN r.2.1 t.width)], none,
   rs.foldl (fun a r => a ||| r.2.2) 0⟩

def resFrcp (f : Fields) (x : LaneIn) : LaneOut := floatOut f fun m j => frcpFV m (rctx f x f.sat j) (fin f j x.a)
def resFsqrt (f : Fields) (x : LaneIn) : LaneOut := floatOut f fun m j => fsqrtFV m (rctx f x false j) (fin f j x.a)
def resFdiv (f : Fields) (x : LaneIn) : LaneOut := floatOut f fun m j => fdivFV m (rctx f x f.sat j) (fin f j x.a) (fin f j x.b)

/-- The faithful neighbour the part takes for an operand: the same for equal inputs (R248; log entry 4). Inputs are equal under one TY code: f32
and f32x2 may differ (DESIGN CHOICE, log entry 233). -/
def neighbour (op : Nat) (f : Fields) (j : Nat) (w : Word) : Bool :=
  Config.faithfulUp (op * 16 + f.ty.toNat) (w64 (elem (tyOf f).width j w))
def trigPick (op : Nat) (f : Fields) (j : Nat) (w : Word) : Nat :=
  Config.sinPick (op * 16 + f.ty.toNat) (w64 (elem (tyOf f).width j w))

def resFrsq (f : Fields) (x : LaneIn) : LaneOut := floatOut f fun m j => frsqFV m f.fo (neighbour 0x61 f j x.a) (fin f j x.a)
def resFexp2 (f : Fields) (x : LaneIn) : LaneOut := floatOut f fun m j => fexp2FV m f.sat f.fo (neighbour 0x64 f j x.a) (fin f j x.a)
def resFlog2 (f : Fields) (x : LaneIn) : LaneOut := floatOut f fun m j => flog2FV m f.fo (neighbour 0x65 f j x.a) (fin f j x.a)
def resFsin (f : Fields) (x : LaneIn) : LaneOut := floatOut f fun m j => trigFV m false f.fo (trigPick 0x66 f j x.a) (fin f j x.a)
def resFcos (f : Fields) (x : LaneIn) : LaneOut := floatOut f fun m j => trigFV m true f.fo (trigPick 0x67 f j x.a) (fin f j x.a)

/-! ### Conversions (R250 to R252) -/

/-- One element converted between the types of a CVT word; FI flushes a floating source. -/
def cvtElem (dst src : Ty) (fi : Bool) (c : RCtx) (p : Nat) : Nat × Flags :=
  let v : FV := if src.isFloat then (fmtOfTy src).flushIn fi ((fmtOfTy src).decode p) else fvOfInt ((shapeOf src 0).val p)
  if dst.isFloat then
    let r := (fmtOfTy dst).convert c v
    ((fmtOfTy dst).encode r.1, r.2)
  else toIntFV (shapeOf dst 0) c v

def resCvt (f : Fields) (x : LaneIn) : LaneOut :=
  let d := tyOf f
  let t := Ty.ofCode (f.sb.toNat % 16)
  let src (j : Nat) : Nat :=
    if d.count = t.count then elem t.width j x.a
    else if d.count > t.count then (if j < t.count then elem t.width j x.a else elem t.width (j - t.count) x.c)
    else elem t.width (d.count * field x.c 0 1 + j) x.a
  packOut d ((List.range d.count).map fun j => cvtElem d t f.fi (rctx f x f.sat j) (src j))

/-- CVT8's format code (R64, R252). -/
def cvt8Fmt (f : Fields) : Nat := f.sb.toNat % 32

/-- One element toward binary8: i8 and n8 clamp as integers, a float format converts. -/
def toB8 (code : Nat) (c : RCtx) (v : FV) : Nat × Flags :=
  if code < 2 then toIntFV ⟨8, 8, decide (code = 0)⟩ c v
  else
    let r := (fmtOfX8 code).convert c v
    ((fmtOfX8 code).encode r.1, r.2)

/-- One byte widened. -/
def fromB8 (wide : Fmt) (code : Nat) (fi : Bool) (c : RCtx) (p : Nat) : Nat × Flags :=
  let v : FV := if code < 2 then fvOfInt (if code = 0 then sextN p 8 else (p % 256 : Nat))
    else (fmtOfX8 code).flushIn fi ((fmtOfX8 code).decode p)
  let r := wide.convert c v
  (wide.encode r.1, r.2)

def resCvt8 (f : Fields) (x : LaneIn) : LaneOut :=
  let t := tyOf f
  let m := fmtOfTy t
  let n := t.count
  let part := f.sb.toNat / 64
  if f.sb.getLsbD 5 then
    packOut t ((List.range n).map fun j => fromB8 m (cvt8Fmt f) f.fi (rctx f x f.sat j) (elem 8 (part * n + j) x.a))
  else
    let rs := (List.range n).map fun j => toB8 (cvt8Fmt f) (rctx f x f.sat (part * n + j)) (fin f j x.a)
    let bytes := (List.range 8).map fun k =>
      if part * n ≤ k ∧ k < part * n + n then (nth rs (k - part * n)).1 else elem 8 k x.d
    outWF (pack 8 bytes, rs.foldl (fun a r => a ||| r.2) 0)

/-! ### FDOT2 and SCACC (R253, R254) -/

/-- Products kept exact, with their flags. -/
def exactProducts (ps : List (FV × FV)) : List FV × Flags :=
  ps.foldl (fun acc p => let r := fvMulExact p.1 p.2; (acc.1 ++ [r.1], acc.2 ||| r.2)) ([], 0)

/-- One FP32 accumulation with one rounding. -/
def dotElem (fi : Bool) (c : RCtx) (acc : Nat) (ps : List (FV × FV)) : Nat × Flags :=
  let a := fp32.flushIn fi (fp32.decode acc)
  let q := exactProducts ps
  let r := sumRound fp32 c (a :: q.1) (q.2 ||| nvOf [a])
  (fp32.encode r.1, r.2)

def resFdot2 (f : Fields) (x : LaneIn) : LaneOut :=
  let x8 := f.ty == 14
  let m := if x8 then fmtOfX8 (f.sc.toNat % 32) else fmtOfTy (tyOf f)
  let n := if x8 then 4 else 2
  let el (w : Word) (k : Nat) : FV := m.flushIn f.fi (m.decode (elem m.width k w))
  let rs := (List.range 2).map fun j =>
    dotElem f.fi (rctx f x f.sat j) (elem 32 j (accOf f x)) ((List.range n).map fun i => (el x.a (n * j + i), el x.b (n * j + i)))
  outWF (pack 32 (rs.map Prod.fst), rs.foldl (fun a r => a ||| r.2) 0)

/-- SCACC's product: NaN where a factor is NaN, signalling only from x; 0 × ∞ invalid. -/
def scaccTerm (sa sb x : FV) : FV × Flags :=
  if sa.isNaN || sb.isNaN || x.isNaN then (.nan false, nvOf [x])
  else
    let p := fvMulExact sa sb
    let zero := sa.isZero || sb.isZero || x.isZero
    let inf := sa.isInf || sb.isInf || x.isInf
    if zero && inf then (.nan false, fNV) else fvMulExact p.1 x

def resScacc (f : Fields) (x : LaneIn) : LaneOut :=
  let m := fmtOfX8 (f.sc.toNat % 32)
  let sc (k : Nat) : FV := m.flushIn f.fi (m.decode (elem 8 k x.b))
  let rs := (List.range 2).map fun j =>
    let d := fp32.flushIn f.fi (fp32.decode (elem 32 j x.d))
    let v := fp32.flushIn f.fi (fp32.decode (elem 32 j x.a))
    let p := if d.isNaN then (.nan false, nvOf [v]) else scaccTerm (sc j) (sc (4 + j)) v
    let r := sumRound fp32 (rctx f x f.sat j) [d, p.1] (p.2 ||| nvOf [d])
    (fp32.encode r.1, r.2)
  outWF (pack 32 (rs.map Prod.fst), rs.foldl (fun a r => a ||| r.2) 0)

def execFadd (f : Fields) (s : State) : Outcome State Fault Refusal := .next (fixedWord (.fadd f) (resFadd f) s)
def execFsub (f : Fields) (s : State) : Outcome State Fault Refusal := .next (fixedWord (.fsub f) (resFsub f) s)
def execFmul (f : Fields) (s : State) : Outcome State Fault Refusal := .next (fixedWord (.fmul f) (resFmul f) s)
def execFma (f : Fields) (s : State) : Outcome State Fault Refusal := .next (fixedWord (.fma f) (resFma f) s)
def execFmin (f : Fields) (s : State) : Outcome State Fault Refusal := .next (fixedWord (.fmin f) (resFmin f) s)
def execFmax (f : Fields) (s : State) : Outcome State Fault Refusal := .next (fixedWord (.fmax f) (resFmax f) s)
def execFminn (f : Fields) (s : State) : Outcome State Fault Refusal := .next (fixedWord (.fminn f) (resFminn f) s)
def execFmaxn (f : Fields) (s : State) : Outcome State Fault Refusal := .next (fixedWord (.fmaxn f) (resFmaxn f) s)
def execFcmp (f : Fields) (s : State) : Outcome State Fault Refusal := .next (fixedWord (.fcmp f) (resFcmp f) s)
def execFclass (f : Fields) (s : State) : Outcome State Fault Refusal := .next (fixedWord (.fclass f) (resFclass f) s)
def execFneg (f : Fields) (s : State) : Outcome State Fault Refusal := .next (fixedWord (.fneg f) (resFneg f) s)
def execFabs (f : Fields) (s : State) : Outcome State Fault Refusal := .next (fixedWord (.fabs f) (resFabs f) s)
def execFrint (f : Fields) (s : State) : Outcome State Fault Refusal := .next (fixedWord (.frint f) (resFrint f) s)
def execFfract (f : Fields) (s : State) : Outcome State Fault Refusal := .next (fixedWord (.ffract f) (resFfract f) s)
def execFldexp (f : Fields) (s : State) : Outcome State Fault Refusal := .next (fixedWord (.fldexp f) (resFldexp f) s)
def execFfrexp (f : Fields) (s : State) : Outcome State Fault Refusal := .next (fixedWord (.ffrexp f) (resFfrexp f) s)
def execFrcp (f : Fields) (s : State) : Outcome State Fault Refusal := .next (lateWord (.frcp f) (resFrcp f) s)
def execFrsq (f : Fields) (s : State) : Outcome State Fault Refusal := .next (lateWord (.frsq f) (resFrsq f) s)
def execFsqrt (f : Fields) (s : State) : Outcome State Fault Refusal := .next (lateWord (.fsqrt f) (resFsqrt f) s)
def execFdiv (f : Fields) (s : State) : Outcome State Fault Refusal := .next (lateWord (.fdiv f) (resFdiv f) s)
def execFexp2 (f : Fields) (s : State) : Outcome State Fault Refusal := .next (lateWord (.fexp2 f) (resFexp2 f) s)
def execFlog2 (f : Fields) (s : State) : Outcome State Fault Refusal := .next (lateWord (.flog2 f) (resFlog2 f) s)
def execFsin (f : Fields) (s : State) : Outcome State Fault Refusal := .next (lateWord (.fsin f) (resFsin f) s)
def execFcos (f : Fields) (s : State) : Outcome State Fault Refusal := .next (lateWord (.fcos f) (resFcos f) s)
def execCvt (f : Fields) (s : State) : Outcome State Fault Refusal := .next (fixedWord (.cvt f) (resCvt f) s)
def execCvt8 (f : Fields) (s : State) : Outcome State Fault Refusal := .next (fixedWord (.cvt8 f) (resCvt8 f) s)
def execFdot2 (f : Fields) (s : State) : Outcome State Fault Refusal := .next (fixedWord (.fdot2 f) (resFdot2 f) s)
def execScacc (f : Fields) (s : State) : Outcome State Fault Refusal := .next (fixedWord (.scacc f) (resScacc f) s)

end Sys2Proof.Machine
end

