-- ==== Sys2Proof/Machine/MatrixAlu.lean ====
section
/-! DEFINITION. The arithmetic of the matrix engine: one K-group of an accumulator entry and the integer sum (R206 to R208, R279), and
MSTORE's conversions (R286). -/

namespace Sys2Proof.Machine

/-- The floating format of an element code from 2 to 31 (R53, R266). -/
def matFmt (code : Nat) : Fmt := if code = 30 then fp16 else if code = 31 then bf16 else fmtOfX8 code

/-- Bytes of an element, and elements of a column group (R265, R284, R285). -/
def matBytes (code : Nat) : Nat := if code ≥ 30 then 2 else 1
def matCols (code : Nat) : Nat := if code ≥ 30 then 32 else 64

/-- The window width of a side's format (R206). -/
def matWindow (code : Nat) : Nat :=
  if code ≥ 30 then 16 else if code < 2 then 8 else if precOfX8 code ≥ 4 then 8 else 4

/-- The A planes of a format (R279). -/
def matPlanes (code : Nat) : Nat := matWindow code

/-- The pairs that MMUL admits: A format and B slot format (R279). -/
def matPair (a b : Nat) : Bool :=
  (decide (a < 2) && decide (b < 2)) || (decide (2 ≤ a) && decide (a < 30) && decide (2 ≤ b) && decide (b < 30))
    || (decide (a ≥ 30) && a == b)

/-- The largest exponent among the non-zero values of a group's side. -/
def groupExp (vs : List FV) : Option Int :=
  (vs.filter fun v => !v.isZero).foldl (fun m v =>
    match m with
    | none => some v.dy.exponent
    | some e => some (max e v.dy.exponent)) none

/-- The group value of finite factors: each side truncated to its window, the products summed exactly (R207). -/
def groupSum (wa wb : Nat) (as bs : List FV) : Dy :=
  match groupExp as, groupExp bs with
  | some ea, some eb =>
    (as.zip bs).foldl (fun g p => g.add ((p.1.dy.truncWindow ea wa).mul (p.2.dy.truncWindow eb wb))) Dy.zero
  | _, _ => Dy.zero

/-- The signs of the products with an infinite factor. -/
def infSigns (as bs : List FV) : List Bool :=
  ((as.zip bs).filter fun p => p.1.isInf || p.2.isInf).map fun p => fvSignXor p.1 p.2

/-- One K-group of one FP32 entry (R207). -/
def groupStep (wa wb : Nat) (as bs : List FV) (acc : FV) : FV :=
  if acc.isNaN || as.any FV.isNaN || bs.any FV.isNaN then .nan false
  else if (as.zip bs).any fun p => (p.1.isInf && p.2.isZero) || (p.1.isZero && p.2.isInf) then .nan false
  else
    match infSigns as bs with
    | neg :: rest =>
      if rest.any fun r => r != neg then .nan false
      else if acc.isInf && acc.isNeg != neg then .nan false
      else .inf neg
    | [] =>
      if acc.isInf then acc
      else
        let g := groupSum wa wb as bs
        let e := max g.exponent acc.dy.exponent
        let r := (fp32.roundDy ctxRNE false ((g.truncWindow e 28).add (acc.dy.truncWindow e 28))).1
        if r.isZero then .fin false 0 0 else r

/-- A list in runs of 32 (R206). -/
def inGroups {α : Type} : Nat → List α → List (List α)
  | 0, _ => []
  | n + 1, l => if l.isEmpty then [] else l.take 32 :: inGroups n (l.drop 32)

/-- One K-group of one entry, on patterns (R207). -/
def mulGroup (a b : Nat) (as bs : List Nat) (acc : BitVec 32) : BitVec 32 :=
  BitVec.ofNat 32 (fp32.encode
    (groupStep (matWindow a) (matWindow b) (as.map (matFmt a).decode) (bs.map (matFmt b).decode) (fp32.decode acc.toNat)))

/-- A whole row element in a float format: every K-group in increasing order (R206, R207). -/
def mulFloat (a b : Nat) (as bs : List Nat) (acc : BitVec 32) : BitVec 32 :=
  ((inGroups 16 as).zip (inGroups 16 bs)).foldl (fun c p => mulGroup a b p.1 p.2 c) acc

/-- The integer an i8 or n8 pattern stands for. -/
def matInt (code p : Nat) : Int := if code = 0 then sextN p 8 else ((p % 256 : Nat) : Int)

/-- A whole row element in the integer formats (R208). -/
def mulInt (a b : Nat) (as bs : List Nat) (acc : BitVec 32) : BitVec 32 :=
  BitVec.ofNat 32 (wrapN ((as.zip bs).foldl (fun s p => s + matInt a p.1 * matInt b p.2) (acc.toNat : Int)) 32)

/-- An accumulator entry after one MMUL row, from the row's A and the column's B patterns. -/
def mulEntry (a b : Nat) (as bs : List Nat) (acc : BitVec 32) : BitVec 32 :=
  if a < 2 then mulInt a b as bs acc else mulFloat a b as bs acc

/-- The bytes MSTORE writes for one entry (R286). -/
def storeEntry (out : Nat) (sat : Bool) (w : BitVec 32) : List Byte :=
  let c : RCtx := ⟨.rne, 0, sat, false⟩
  if out < 2 then
    let v := sextN w.toNat 32
    let lo : Int := if out = 0 then -128 else 0
    let hi : Int := if out = 0 then 127 else 255
    toBytes (wrapN (if sat then max lo (min hi v) else v) 8) 1
  else if out < 30 then toBytes (toB8 out c (fp32.decode w.toNat)).1 1
  else if out = 32 then toBytes w.toNat 4
  else
    let f := if out = 33 then fp16 else bf16
    toBytes (f.encode (f.convert c (fp32.decode w.toNat)).1) 2

/-- Bytes of an entry as MSTORE writes it. -/
def storeSize (out : Nat) : Nat := if out = 32 then 4 else if out < 30 then 1 else 2

end Sys2Proof.Machine
end

