-- ==== Sys2Proof/Machine/Matrix.lean ====
section
/-! DEFINITION. The matrix-stream queue and its words (R262 to R289). A word issues when MATRIX_STREAM_WORD_FETCH has put it into the
issue slot; MATRIX_OP_COMPLETE performs what it started. -/

namespace Sys2Proof.Machine

open Host (Outcome)

/-! ### The MSQ -/

/-- The batch in which an MMOVE still stands: no further word of it has issued, and no lane has its entries. -/
def standsAt (s : State) (g : Group) (fl : Flight) : Option Batch :=
  (s.batch? fl.batch).filter fun b =>
    fl.kind == .mmove && b.wait.isNone && b.rep.isNone && fl.repj == 0 && fl.done == 0 && b.seg == fl.seg
      && b.woff == fl.woff + wordCount fl.instr && decide (b.lastFrom ≤ fl.seq) && b.members.any fun m => m.gid == g.gid

/-- An MMOVE that waits for its join has not issued after all: its destinations stand as before, its lanes stand at it again, and the MSQ's
fault is precise there (R272, R426). -/
def carryAt (s : State) (g : Group) (e : Engine) (fl : Flight) (b : Batch) : State :=
  let (id, s) := s.fresh
  let s := s.modBatch b.id fun b => { b with members := b.members.filter fun m => m.gid != g.gid }
  let back : Batch := { b with id := id, members := b.members.filter (fun m => m.gid == g.gid), woff := fl.woff }
  let s : State := { s with batches := (s.batches.filter fun b => !b.members.isEmpty) ++ [back] }
  let s := s.modGroup g.gid fun g =>
    let g := (lanesOf fl.pending).foldl (fun g l => fillLane g fl l) g
    { g with
      kpend := g.kpend.map fun p => if p.batch = b.id then { p with batch := id } else p
      flights := (g.flights.filter fun x => x.seq != fl.seq).map fun x => if x.batch = b.id then { x with batch := id } else x }
  raiseTrap s g.gid ⟨(Cause.ofCode e.cause).getD .illegalField, 3, if fl.uniform then fl.lanes else fl.pending, 0, 0, g.obj, fl.seg, fl.woff,
    e.sidx, e.woff⟩ fl.lanes

/-- Groups that wait in an MMOVE take the fault of their block's MSQ at once; one that has issued further words takes it at its next
MBARA, MBARW or MMOVE (R272). -/
def carryFault (s : State) (bid : Nat) : State :=
  ((s.groups.filter fun g => g.bid == bid && g.stop == .running).map Group.gid).foldl (fun s gid =>
    match s.group? gid, (s.block? bid).bind Block.engine with
    | some g, some e =>
      match g.flights.findSome? fun fl => (standsAt s g fl).map fun b => (fl, b) with
      | some (fl, b) => carryAt s g e fl b
      | none => s
    | _, _ => s) s

/-- The MSQ faults at a word (R272). -/
def msqFault (s : State) (bid : Nat) (c : Cause) (woff : Nat) : State :=
  carryFault (s.modEngine bid fun e => { e with state := 3, cause := c.code, woff := woff }) bid

/-- The word at the MSQ's position: fetched and checked as R65 and R66 state, in a matrix stream (R269). -/
def msqFetch (s : State) (blk : Block) (e : Engine) : State × Except Cause Instr :=
  match streamSec s blk e with
  | none => (s, .error .ifetchFault)
  | some (o, x) =>
    if e.woff ≥ x.len then (s, .error .illegalField)
    else
      match fetchVa s blk.core blk.ctx (streamVa o x e.woff) with
      | (s, none) => (s, .error .ifetchFault)
      | (s, some w) => (s, decode true w 0)

/-- A stream word whose fetch met a translation fault files it, and any that faulted counts as a miss (R396, R490). -/
def msqFileFetch (s : State) (blk : Block) (e : Engine) (c : Cause) : State :=
  match c, streamSec s blk e with
  | .ifetchFault, some (o, x) => countEvent (fileFetch s blk.core blk.ctx 5 [streamVa o x e.woff]) blk.ctx 4 1
  | _, _ => s

/-- An index register's value, x0 reading zero, and a field's sum with it (R270). -/
def Engine.xval (e : Engine) (r : Nat) : Nat := if r = 0 then 0 else nth e.x r
def Engine.sum (e : Engine) (imm r : Nat) : Nat := (imm + e.xval r) % 2 ^ 32

/-- The arrivals of a barrier's phase are complete (R276). -/
def mbarMet (s : State) (bid : Nat) (x : MBar) : Bool := decide (x.arr ≥ x.expected (liveGroups s bid).length)

/-- Entries of a word in the core's range-lock table (R153), with whole buffers and slots. `xs` are the sums of its fields. -/
def msqLocks (i : Instr) (xs : List Nat) : List LockReq :=
  match i with
  | .mbload x => [⟨false, 1, 1, 32 * nth xs 0, (x.k1.toNat + 1) * 32 * (x.nc1.toNat + 1) * 64⟩,
                  ⟨true, 1, 2, slotCode x.slot.toNat, slotBytes⟩]
  | .mmul x => [⟨false, 1, 2, bufCode x.buf.toNat, bufBytes⟩, ⟨false, 1, 2, slotCode x.slot.toNat, slotBytes⟩]
  | .mstore x => [⟨true, 1, 1, 32 * nth xs 1, (x.m1.toNat + 1) * ((x.cn1.toNat + 1) * 32) * storeSize x.out.toNat⟩]
  | _ => []

/-- A slot is the destination of a copy still to end. -/
def slotCopying (s : State) (core slot : Nat) : Bool :=
  (rltEntries s core).any fun p =>
    p.2.dest && p.2.engine == 0 && p.2.space == 2 && overlap p.2.base (32 * p.2.len) (slotCode slot) slotBytes

/-- The word may issue now: MWAIT and a second MARRIVE hold the MSQ (R276), a full lock table does (R158), and an MMUL waits until no
copy taken in before it still fills its slot, whose format its check needs. -/
def msqReady (s : State) (blk : Block) (e : Engine) (i : Instr) : Bool :=
  match i with
  | .mwait n => mbarMet s blk.bid (nth e.mbars n.toNat)
  | .marrive n _ => !(nth e.mbars n.toNat).sarr
  | .mmul x => !slotCopying s blk.core x.slot.toNat && decide (2 ≤ freeLocks s blk.core)
  | i => decide ((msqLocks i []).length ≤ freeLocks s blk.core)

/-- The MSQ stands at the end of a loop pass (R288). -/
def Engine.atPassEnd (e : Engine) : Bool :=
  match e.loops with
  | l :: _ => decide (e.woff = l.first + l.len)
  | [] => false

/-- The word the running MSQ of a block would issue: its line is in the instruction cache, or cannot be fetched at all (R118, R269). -/
def msqNext (s : State) (bid : Nat) : Option (Block × Engine) :=
  match s.block? bid with
  | none => none
  | some blk =>
    match blk.engine with
    | none => none
    | some e =>
      if e.state ≠ 1 || e.atPassEnd || !engineMay s blk.ctx .msq (fun st => !st.msqs.contains bid) then none
      else
        match msqLine s blk with
        | some x => if lineAwaited s blk.core x then none else some (blk, e)
        | none => some (blk, e)

/-- MATRIX_STREAM_WORD_FETCH: the next word enters the issue slot, or faults the MSQ. -/
def msqFetchStep (s : State) (bid : Nat) : State :=
  match msqNext s bid with
  | none => s
  | some (blk, e) =>
    match msqFetch s blk e with
    | (s', .error c) => msqFault (msqFileFetch s' blk e c) bid c e.woff
    | (s', .ok i) => if msqReady s' blk e i then { s' with issue := some (.msq bid) } else s

def execMatrixStreamWordFetch (bid : Nat) (s : State) : Outcome State Fault Refusal := .next (msqFetchStep s bid)

/-- The MSQ whose word is in the issue slot. -/
def msqIssuer (s : State) : Option (Block × Engine) :=
  match s.issue with
  | some (.msq bid) => (s.block? bid).bind fun b => b.engine.map fun e => (b, e)
  | _ => none

/-- One word of the MSQ: it acts, or it faults the MSQ; then the MSQ stands at the word after it. -/
def msqWord (s : State) (act : State → Block → Engine → Except Cause State) : State :=
  match msqIssuer s with
  | none => s
  | some (blk, e) =>
    match act (s.modEngine blk.bid fun e => { e with woff := e.woff + 1 }) blk e with
    | .ok s => s.unissue
    | .error c => (msqFault s blk.bid c e.woff).unissue

/-- A word of the MSQ that goes on in the engine: it registers its ranges and joins the words in flight (R153, R271). -/
def msqLaunch (i : Instr) (xs : List Nat) (s : State) (blk : Block) (e : Engine) : State :=
  let (seq, s) := s.fresh
  let s := addLocks s blk.core blk.ctx seq 1 (msqLocks i xs)
  s.modEngine blk.bid fun x => { x with ops := x.ops ++ [⟨seq, i, xs, 0, e.woff, e.sidx, e.x, e.loops⟩] }

/-! ### The words that go on in the engine (R283 to R286) -/

def execMzero (x : MZero) (s : State) : Outcome State Fault Refusal :=
  .next (msqWord s fun s blk e =>
    let a := e.sum x.entry.toNat x.xr.toNat
    if a + (x.count1.toNat + 1) > e.accn then .error .accessFault else .ok (msqLaunch (.mzero x) [a] s blk e))

def execMbload (x : MBLoad) (s : State) : Outcome State Fault Refusal :=
  .next (msqWord s fun s blk e =>
    let a := e.sum x.off.toNat x.xr.toNat
    if a * 32 + (x.k1.toNat + 1) * 32 * (x.nc1.toNat + 1) * 64 > blk.scr then .error .accessFault
    else .ok (msqLaunch (.mbload x) [a] s blk e))

/-- A slot's format as the words issued before leave it (R266). -/
def slotFormat (e : Engine) (slot : Nat) : Nat :=
  ((e.ops.filterMap fun o => match o.instr with
    | .mbload y => if y.slot.toNat = slot then some y.fmt.toNat else none
    | _ => none).getLast?).getD (nth e.slots slot).fmt

/-- Rows, K, columns and element bytes of an MMUL (R285). -/
def mulM (x : MMul) : Nat := x.m1.toNat + 1
def mulK (x : MMul) : Nat := (x.k1.toNat + 1) * 32
def mulN (x : MMul) : Nat := (x.nc1.toNat + 1) * matCols x.fmt.toNat
def mulPitch (x : MMul) : Nat := mulK x * matBytes x.fmt.toNat

def execMmul (x : MMul) (s : State) : Outcome State Fault Refusal :=
  .next (msqWord s fun s blk e =>
    let a := e.sum x.aoff.toNat x.xa.toNat
    let c := e.sum x.entry.toNat x.xc.toNat
    if !matPair x.fmt.toNat (slotFormat e x.slot.toNat) then .error .illegalOperand
    else if a * 32 + mulM x * mulPitch x > bufBytes ∨ c * 512 + mulM x * mulN x > e.accn then .error .accessFault
    else .ok (msqLaunch (.mmul x) [a, c] s blk e))

/-- Rows, columns and bytes of an MSTORE (R286). -/
def stM (x : MStore) : Nat := x.m1.toNat + 1
def stCn (x : MStore) : Nat := (x.cn1.toNat + 1) * 32

def execMstore (x : MStore) (s : State) : Outcome State Fault Refusal :=
  .next (msqWord s fun s blk e =>
    let c := e.sum x.entry.toNat x.xc.toNat
    let o := e.sum x.off.toNat x.xs.toNat
    if c + stM x * stCn x > e.accn ∨ o * 32 + stM x * stCn x * storeSize x.out.toNat > blk.scr then .error .accessFault
    else .ok (msqLaunch (.mstore x) [c, o] s blk e))

/-! ### Barriers, loops and the stream's end (R276, R287, R288) -/

/-- MWAIT issues once its wait is over. Its acquire brings nothing the MSQ does not see: scratchpad writes perform at the block. -/
def execMwait (_n : BitVec 4) (s : State) : Outcome State Fault Refusal := .next (msqWord s fun s _ _ => .ok s)

/-- The MBLOADs and MSTOREs in flight. -/
def Engine.moves (e : Engine) : List Nat :=
  (e.ops.filter fun o => match o.instr with | .mbload _ | .mstore _ => true | _ => false).map MatOp.seq

def execMarrive (n : BitVec 4) (count : BitVec 6) (s : State) : Outcome State Fault Refusal :=
  .next (msqWord s fun s blk e =>
    let (seq, s) := s.fresh
    .ok (s.modEngine blk.bid fun x =>
      { x with mbars := x.mbars.set n.toNat { nth x.mbars n.toNat with sarr := true, next := count.toNat, waits := e.moves, bound := seq } }))

/-- MATRIX_BARRIER_TURN: the phase of a barrier turns once every part of R276's condition holds. The fibres of a group that has arrived in
part must arrive again in the new phase (R275). -/
def mbarTurn (s : State) (bid n : Nat) : State :=
  match s.engine? bid with
  | none => s
  | some e =>
    let x := nth e.mbars n
    let partly (g : Group) : Group :=
      { g with mbars := g.mbars.map fun (a : Arrive) => if a.idx == n then { a with lanes := 0 } else a }
    if n < 16 && engineMay s ((s.block? bid).getD default).ctx .msq (fun _ => true) && x.sarr && mbarMet s bid x && !(x.waits.any fun q => e.ops.any fun o => o.seq == q) then
      let x' : MBar := ⟨x.phase + 1, if x.next = 63 then x.expc else x.next, 0, false, 63, [], x.bound, (x.phase, x.bound) :: x.bounds⟩
      let s := { s with groups := s.groups.map fun (g : Group) => if g.bid == bid then partly g else g }
      s.modEngine bid fun e => { e with mbars := e.mbars.set n x' }
    else s

def execMatrixBarrierTurn (bid n : Nat) (s : State) : Outcome State Fault Refusal := .next (mbarTurn s bid n)

/-- Some word of a run of the stream is MEND. -/
def hasMend (s : State) (blk : Block) (e : Engine) (first len : Nat) : Bool :=
  (List.range len).any fun j => match (msqFetch s blk { e with woff := first + j }).2 with | .ok .mend => true | _ => false

def execMloop (x : MLoop) (s : State) : Outcome State Fault Refusal :=
  .next (msqWord s fun s blk e =>
    let first := e.woff + 1
    let last := first + (x.len1.toNat + 1)
    let len := match streamSec s blk e with | some p => p.2.len | none => 0
    if e.loops.length ≥ 4 then .error .loopDepth
    else if last > len ∨ (e.loops.any fun l => decide (last > l.first + l.len)) ∨ hasMend s blk e first (x.len1.toNat + 1) then
      .error .illegalField
    else if x.count.toNat = 0 then .ok (s.modEngine blk.bid fun e => { e with woff := last })
    else
      .ok (s.modEngine blk.bid fun e => { e with loops :=
        ⟨x.count.toNat, first, x.len1.toNat + 1, x.xr1.toNat, x.step1.toInt, x.xr2.toNat, x.step2.toInt⟩ :: e.loops }))

/-- A step of an index register, x0 staying zero (R288). -/
def xStep (xs : List Nat) (r : Nat) (d : Int) : List Nat := if r = 0 then xs else xs.set r (wrapN (((nth xs r : Nat) : Int) + d) 32)

/-- MLOOP_PASS_END: the steps are added, and the body starts again or the level is popped. -/
def mloopPassEnd (s : State) (bid : Nat) : State :=
  match s.engine? bid with
  | none => s
  | some e =>
    if e.state ≠ 1 || !e.atPassEnd then s
    else
      match e.loops with
      | [] => s
      | l :: rest =>
        s.modEngine bid fun e =>
          { e with x := xStep (xStep e.x l.xr1 l.step1) l.xr2 l.step2
                   woff := if l.count ≥ 2 then l.first else e.woff
                   loops := if l.count ≥ 2 then { l with count := l.count - 1 } :: rest else rest }

def execMloopPassEnd (bid : Nat) (s : State) : Outcome State Fault Refusal := .next (mloopPassEnd s bid)

def execMend (s : State) : Outcome State Fault Refusal :=
  .next (msqWord s fun s blk _ => .ok (s.modEngine blk.bid fun e => { e with state := 2 }))

/-! ### What the words in flight do -/

/-- The accumulator entries a word in flight names, as first entry, count, and whether it writes them. -/
def MatOp.accRange (o : MatOp) : Nat × Nat × Bool :=
  match o.instr with
  | .mzero x => (nth o.xs 0, x.count1.toNat + 1, true)
  | .mmul x => (512 * nth o.xs 1, mulM x * mulN x, true)
  | .mstore x => (nth o.xs 0, stM x * stCn x, false)
  | _ => (0, 0, false)

/-- No earlier word in flight stands over the same accumulator entries, one of the two writing (R271). -/
def accFree (e : Engine) (o : MatOp) : Bool :=
  let r := o.accRange
  e.ops.all fun p =>
    decide (p.seq ≥ o.seq) || !(overlap p.accRange.1 p.accRange.2.1 r.1 r.2.1 && (p.accRange.2.2 || r.2.2))

/-- The fill watermark of an operand buffer for an operation (R278). -/
def watermark (s : State) (blk : Block) (buf seq : Nat) : Nat :=
  let es := (rltEntries s blk.core).map Prod.snd
  match minBy RltEntry.order (es.filter fun e => e.owner == seq) with
  | none => bufBytes
  | some mine =>
    (es.filter fun e => e.dest && e.space == 2 && e.ctx == blk.ctx && e.base / 2 ^ 20 == buf && decide (e.len > 0)
        && decide (e.order < mine.order)).foldl (fun w e => min w (e.base % 2 ^ 20)) bufBytes

/-- A word in flight ends: its locks are released (R157), and what no earlier word can take back any more is forgotten. -/
def endMatOp (s : State) (blk : Block) (seq : Nat) : State :=
  (dropLocks s blk.core seq).modEngine blk.bid fun e =>
    let ops := e.ops.filter fun o => o.seq != seq
    { e with ops := ops, undo := e.undo.filter fun u => ops.any fun o => decide (o.seq < u.seq) }

/-- A word about to act ahead of an earlier one notes what it replaces, once (R271). -/
def noteUndo (e : Engine) (o : MatOp) : Engine :=
  if e.undo.any (fun u => u.seq == o.seq) || !e.ops.any fun p => decide (p.seq < o.seq) then e
  else
    let within (n : Nat) : Bool := o.accRange.2.2 && decide (o.accRange.1 ≤ n) && decide (n < o.accRange.1 + o.accRange.2.1)
    let slot : Option (Nat × BSlot) := match o.instr with | .mbload x => some (x.slot.toNat, nth e.slots x.slot.toNat) | _ => none
    { e with undo := e.undo ++ [⟨o.seq, o.accRange.1, if o.accRange.2.2 then o.accRange.2.1 else 0, e.acc.filter fun p => within p.1, e.accPoison.filter within, slot⟩] }

/-- What a word replaced stands again. -/
def undoOne (e : Engine) (u : MatUndo) : Engine :=
  let out (n : Nat) : Bool := decide (n < u.lo) || decide (u.lo + u.n ≤ n)
  { e with
    acc := u.acc ++ e.acc.filter fun p => out p.1
    accPoison := u.accPoison ++ e.accPoison.filter out
    slots := match u.slot with | some p => e.slots.set p.1 p.2 | none => e.slots }

/-- A word in flight meets poison: the MSQ faults at it, as a sequential run would. What was issued after it is taken back: the words in
flight, the entries and slots that such words have replaced, the index registers and loop levels, and the MARRIVEs whose phase has not
turned (R271, R272). -/
def poisonMatOp (s : State) (blk : Block) (e : Engine) (o : MatOp) : State :=
  let later := (e.undo.filter fun u => decide (u.seq > o.seq)).reverse
  let s := s.modEngine blk.bid fun e => { later.foldl undoOne e with undo := e.undo.filter fun u => decide (u.seq ≤ o.seq) }
  let gone := e.ops.filter fun p => decide (p.seq ≥ o.seq)
  let s := gone.foldl (fun s p => endMatOp s blk p.seq) s
  let back (x : MBar) : MBar := if x.sarr && decide (x.bound > o.seq) then { x with sarr := false, next := 63, waits := [] } else x
  let s := s.modEngine blk.bid fun e => { e with mbars := e.mbars.map back, sidx := o.sidx, x := o.x, loops := o.loops }
  msqFault s blk.bid .poison o.woff

/-- Entries written: later ones replace earlier ones, and a zero is listed no more. -/
def Engine.setAcc (e : Engine) (ws : List (Nat × BitVec 32)) : Engine :=
  { e with acc := (ws.filter fun p => p.2 != 0) ++ e.acc.filter fun p => !(ws.any fun q => q.1 == p.1) }

/-- MZERO: the entries become zero; one written in full is no longer poisoned (R283, R454). -/
def doMzero (s : State) (blk : Block) (lo n : Nat) : State :=
  s.modEngine blk.bid fun e =>
    { e with acc := e.acc.filter fun p => decide (p.1 < lo) || decide (lo + n ≤ p.1)
             accPoison := e.accPoison.filter fun p => decide (p < lo) || decide (lo + n ≤ p) }

/-- MBLOAD's rows into the slot (R284); none where the image is poisoned. -/
def doMbload (s : State) (blk : Block) (x : MBLoad) (ob : Nat) : Option State :=
  let w := (x.nc1.toNat + 1) * 64
  let k := (x.k1.toNat + 1) * 32
  if scratchPoisoned blk ob (k * w) then none
  else
    let s := chargeCtx s blk.ctx (k * w * uL1)
    some (s.modEngine blk.bid fun e =>
      (List.range k).foldl (fun e j =>
        e.writeSlot x.slot.toNat ((x.ks.toNat * 32 + j) * 384 + x.ns.toNat * 64) (Memory.read blk.scratch (ob + j * w) w))
        (e.slotFmt x.slot.toNat x.fmt.toNat))

/-- Poison among bytes of a buffer or slot. -/
def bytesPoisoned (ps : List Nat) (lo n : Nat) : Bool := ps.any fun p => decide (lo ≤ p) && decide (p < lo + n)

/-- An element of a buffer row or of a slot as a pattern. -/
def matElem (m : List Host.Cell) (es off : Nat) : Nat := ofBytes (Memory.read m off es)

/-- One row of an MMUL (R280, R285); none where a byte it reads is poisoned. -/
def mmulRow (e : Engine) (x : MMul) (ob ce m : Nat) : Option Engine :=
  let es := matBytes x.fmt.toNat
  let buf := nth e.bufs x.buf.toNat
  let slot := nth e.slots x.slot.toNat
  let row := ob + m * mulPitch x
  let at_ (k n : Nat) : Nat := (x.ks.toNat * 32 + k) * 384 + (x.ns.toNat * matCols x.fmt.toNat + n) * es
  if bytesPoisoned buf.poison row (mulPitch x)
      || (List.range (mulK x)).any (fun k => bytesPoisoned slot.poison (at_ k 0) (mulN x * es)) then none
  else
    let as := (List.range (mulK x)).map fun k => matElem buf.mem es (row + k * es)
    some (e.setAcc ((List.range (mulN x)).map fun n =>
      let t := ce + m * mulN x + n
      (t, mulEntry x.fmt.toNat slot.fmt as ((List.range (mulK x)).map fun k => matElem slot.mem es (at_ k n)) (e.entry t))))

/-- MSTORE's bytes into the scratchpad (R286); none where an entry is poisoned, for engines never write poisoned data onward (R454). -/
def doMstore (s : State) (blk : Block) (e : Engine) (x : MStore) (ce ob : Nat) : Option State :=
  let n := stM x * stCn x
  if bytesPoisoned e.accPoison ce n then none
  else
    let bs := (List.range n).flatMap fun j => storeEntry x.out.toNat x.sat (e.entry (ce + j))
    some (scratchStore (chargeCtx s blk.ctx ((4 * n + bs.length) * uL1)) blk.bid ob bs)

/-- A word in flight may act: nothing earlier stands over its entries, and its ranges are free (R156, R271); a row of an MMUL has its
bytes below the watermark and is begun only while the MSQ runs; the other words complete while their job freezes (R278, R297). -/
def matOpFree (s : State) (blk : Block) (e : Engine) (o : MatOp) : Bool :=
  let may := engineMay s blk.ctx .msq fun st => decide (st.first ≤ o.seq)
  accFree e o &&
  match o.instr with
  | .mmul x =>
    may && !lockWaits s blk.core o.seq (fun l => decide (l.base ≥ slotCode 0))
      && decide (32 * nth o.xs 0 + (o.row + 1) * mulPitch x ≤ watermark s blk x.buf.toNat o.seq)
  | _ => (may || freezes s blk.ctx) && !lockWaits s blk.core o.seq (fun _ => true)

/-- No word of a context's MSQs that must complete before they stop still can: all but an MMUL's rows, and what waits behind one or for a
range lock (R297). -/
def matrixQuiet (s : State) (ctx : Nat) : Bool :=
  (s.blocks.filter fun b => b.ctx == ctx).all fun blk =>
    match blk.engine with
    | none => true
    | some e => e.ops.all fun o => (match o.instr with | .mmul _ => true | _ => false) || !matOpFree s blk e o

/-- MATRIX_OP_COMPLETE: a word in flight performs, an MMUL one row. -/
def matOpStep (s : State) (bid seq : Nat) : State :=
  match s.block? bid with
  | none => s
  | some blk =>
    match blk.engine with
    | none => s
    | some e =>
      match e.ops.find? fun o => o.seq == seq with
      | none => s
      | some o =>
        if !matOpFree s blk e o then s
        else
          let e := noteUndo e o
          let s := s.modEngine bid fun _ => e
          match o.instr with
          | .mzero x => endMatOp (doMzero (chargeCtx s blk.ctx (4 * (x.count1.toNat + 1) * uL1)) blk (nth o.xs 0) (x.count1.toNat + 1)) blk seq
          | .mbload x =>
            (match doMbload s blk x (32 * nth o.xs 0) with
             | some s => endMatOp s blk seq
             | none => poisonMatOp s blk e o)
          | .mmul x =>
            (match mmulRow e x (32 * nth o.xs 0) (512 * nth o.xs 1) o.row with
             | none => poisonMatOp s blk e o
             | some e' =>
               let s := countEvent (chargeCtx s blk.ctx (mulK x * mulN x * matPlanes x.fmt.toNat + 8 * mulN x * uL1)) blk.ctx 6 1
               let s := s.modEngine bid fun _ =>
                 { e' with ops := e'.ops.map fun p => if p.seq == seq then { p with row := p.row + 1 } else p }
               if o.row + 1 ≥ mulM x then endMatOp s blk seq else s)
          | .mstore x =>
            (match doMstore s blk e x (nth o.xs 0) (32 * nth o.xs 1) with
             | some s => endMatOp s blk seq
             | none => poisonMatOp s blk e o)
          | _ => endMatOp s blk seq

def execMatrixOpComplete (bid seq : Nat) (s : State) : Outcome State Fault Refusal := .next (matOpStep s bid seq)

end Sys2Proof.Machine
end

