-- ==== Sys2Proof/Machine/Raster.lean ====
section
/-! DEFINITION. The raster unit: RDRAW, triangles, fragment records, RREL (R161, R319 to R323). -/

namespace Sys2Proof.Machine

open Host (Outcome)

/-! ### The draw descriptor (R319) -/

structure Draw where
  vtx : Nat
  idx : Nat
  count : Nat
  vw : Nat
  vh : Nat
  depth : Nat
  pitch : Nat
  dfunc : Nat
  fq : Nat
  tag : Nat
deriving DecidableEq, Repr, Inhabited

def drawOf (bs : List Byte) : Draw :=
  ⟨byteField bs 0 8, byteField bs 8 8, byteField bs 16 4, byteField bs 20 2, byteField bs 22 2, byteField bs 24 8, byteField bs 32 4,
    byteField bs 36 1, byteField bs 37 1, byteField bs 48 8⟩

/-- A field that breaks R319, apart from the queue. -/
def drawBad (bs : List Byte) : Bool :=
  let d := drawOf bs
  d.vw == 0 || decide (d.vw > 16384) || d.vh == 0 || decide (d.vh > 16384) || d.depth % 4 != 0 || d.pitch % 4 != 0
    || d.dfunc % 4 == 3 || bitsN d.dfunc 2 5 != 0 || decide (d.fq ≥ 64) || byteField bs 38 10 != 0 || byteField bs 56 8 != 0

/-- The index of a triangle's vertex. -/
def vertexIndex (rd : Rd) (d : Draw) (n : Nat) (s : State) : State × Except PortErr Nat :=
  if d.idx = 0 then (s, .ok n)
  else
    match rd s (d.idx + 4 * n) 4 with
    | (s, .error e) => (s, .error e)
    | (s, .ok bs) => (s, .ok (ofBytes bs))

/-- The vertex and index bytes of a batch (R153): vertices up to the highest index named. -/
def drawRanges (rd : Rd) (d : Draw) (s : State) : State × Except PortErr (List LockReq) :=
  if d.count = 0 then (s, .ok [])
  else if d.idx = 0 then (s, .ok [⟨false, 3, 0, d.vtx, 48 * d.count⟩])
  else
    match readEach (vertexIndex rd d) (List.range (3 * d.count)) s with
    | (s, .error e) => (s, .error e)
    | (s, .ok is) => (s, .ok [⟨false, 3, 0, d.vtx, 16 * (is.foldl Nat.max 0 + 1)⟩, ⟨false, 3, 0, d.idx, 12 * d.count⟩])

/-! ### RDRAW -/

/-- The operand of a group: that of its lowest present, non-helper lane whose guard is true and which can be read. -/
def drawLane (i : Instr) (s : State) (b : Batch) (g : Group) (present : Mask) : Option (Nat × Nat) :=
  let c := srcCtx s b g
  ((lowestLane (g.actors present (fieldsOfInstr i))).filter (readable s c g present i [0])).map fun l => (l, (srcA s c g l i).toNat)

/-- The groups of a word that would submit its batch, each with its lane's place in the batch, the lane and the address; those that trap at the
word for another cause do not. -/
def drawers (i : Instr) (s : State) (b : Batch) : List (Nat × Nat × Nat × Nat) :=
  b.members.filterMap fun m =>
    match s.group? m.gid with
    | none => none
    | some g =>
      if wordVerdict s b g (m.present false) i != .ok then none
      else (drawLane i s b g (m.present false)).map fun p => (4 * g.slot + p.1, g.gid, p)

/-- The group that submits the word's batch: that of the lowest lane, among those that an ALIGN does not stop (R72, R106, R319). -/
def drawLead (i : Instr) (s : State) (b : Batch) : Option (Nat × Nat × Nat × Nat) :=
  minBy (fun (p : Nat × Nat × Nat × Nat) => p.1) ((drawers i s b).filter fun p => p.2.2.2 % 64 == 0)

/-- An operand that the word would use is misaligned. -/
def rdrawBar (i : Instr) : BarFn := fun s b g present =>
  match drawLane i s b g present with
  | some (l, a) =>
    if a % 64 ≠ 0 ∧ (drawLead i s b).all (fun p => decide (4 * g.slot + l < p.1)) = true then some (.align, laneBit l, 0, a) else none
  | none => none

/-- What an RDRAW can read of its descriptor at issue, and the ranges to register; none where it must wait for the raster unit. -/
def rdrawSeen (s : State) (g : Group) (lane a : Nat) : Option (List Byte × Option (List LockReq)) :=
  match (jobRead s g.core g.ctx g.gid lane a 64).2 with
  | .error _ => none
  | .ok bs =>
    if drawBad bs then some (bs, none)
    else
      match (drawRanges (fun s va n => jobRead s g.core g.ctx g.gid lane va n) (drawOf bs) s).2 with
      | .ok rs => some (bs, some rs)
      | .error _ => some (bs, none)

/-- Entries for the ranges of the word's batch (R158). -/
def rdrawReady (i : Instr) : ReadyFn := fun s b g present =>
  let need := match drawLead i s b with
    | some (_, gid, l, a) => if gid = g.gid then (match rdrawSeen s g l a with | some (_, some rs) => rs.length | _ => 0) else 0
    | none => 0
  memReady s b g present && decide (need ≤ freeLocks s g.core)

/-- The fibres that a word's RDRAW acts in, whose later accesses it precedes. -/
def drawFibres (i : Instr) (s : State) (b : Batch) : List (Nat × Nat) :=
  (drawers i s b).flatMap fun p => match s.group? p.2.1, b.members.find? fun m => m.gid == p.2.1 with
    | some g, some m => (lanesOf (g.actors (m.present false) (fieldsOfInstr i))).map fun l => (g.gid, l)
    | _, _ => []

/-- One group submits the batch of the whole word (R319). -/
def rdrawBody (i : Instr) (s : State) (b : Batch) (g : Group) (_ : Mask) : State × Option TrapInfo :=
  match (drawLead i s b).filter fun p => p.2.1 == g.gid with
  | none => (s, none)
  | some (_, _, l, a) =>
    let fibres := drawFibres i s b
    let (id, s) := s.fresh
    let seen := rdrawSeen s g l a
    let rs := (seen.bind Prod.snd).filter fun rs => decide (rs.length ≤ freeLocks s g.core)
    let s := match rs with | some rs => addLocks s g.core g.ctx id 1 rs | none => s
    let j : RasterJob :=
      { id := id, ctx := g.ctx, gid := g.gid, lane := l, lid := g.lid, bid := g.bid, core := g.core, descAddr := a,
        desc := seen.map Prod.fst, locked := rs.isSome, tri := 0, records := [], slots := [], done := false, quads := [], users := [], past := [],
        before := fibres, released := [], fault := none, failed := false }
    ({ s with rasters := s.rasters ++ [j] }, none)

def execRdraw (f : Fields) (s : State) : Outcome State Fault Refusal :=
  .next (runWord (.rdraw f) (rdrawReady (.rdraw f)) (rdrawBar (.rdraw f)) (rdrawBody (.rdraw f)) s)

/-! ### Coverage (R320) -/

/-- A vertex as read: x, y and z. -/
def vertexAt (rd : Rd) (d : Draw) (i : Nat) (s : State) : State × Except PortErr (List FV) :=
  match rd s (d.vtx + 16 * i) 16 with
  | (s, .error e) => (s, .error e)
  | (s, .ok bs) => (s, .ok ((List.range 3).map fun j => fp32.decode (byteField bs (4 * j) 4)))

/-- A triangle with exact corners, ordered so that its area is positive: x, y, z of each. -/
structure Tri where
  x : List Dy
  y : List Dy
  z : List FV
  area : Dy
deriving DecidableEq, Repr, Inhabited

/-- The edge function E_ij at a point. -/
def Tri.edge (t : Tri) (i j : Nat) (px py : Dy) : Dy :=
  (((nth t.x j).sub (nth t.x i)).mul (py.sub (nth t.y i))).sub (((nth t.y j).sub (nth t.y i)).mul (px.sub (nth t.x i)))

/-- The triangle of three vertices, where it is drawn at all: the second and third change places when the area is negative. -/
def triOf (vs : List (List FV)) : Option Tri :=
  let mk (o : List Nat) : Tri :=
    let t : Tri := ⟨o.map fun n => (nth (nth vs n) 0).dy, o.map fun n => (nth (nth vs n) 1).dy, o.map fun n => nth (nth vs n) 2, Dy.zero⟩
    { t with area := t.edge 0 1 (nth t.x 2) (nth t.y 2) }
  if vs.any fun v => v.any FV.isNaN then none
  else
    let t := mk [0, 1, 2]
    if t.area.m > 0 then some t else if t.area.m < 0 then some (mk [0, 2, 1]) else none

/-- A centre is inside an edge, or on one that owns its points. -/
def Tri.side (t : Tri) (i j : Nat) (px py : Dy) : Bool :=
  let e := t.edge i j px py
  let dy := (nth t.y j).sub (nth t.y i)
  let dx := (nth t.x j).sub (nth t.x i)
  decide (e.m > 0) || (e.isZero && (decide (dy.m < 0) || (dy.isZero && decide (dx.m > 0))))

def half (n : Nat) : Dy := (Dy.ofInt (2 * n + 1)).scale (-1)

def Tri.covers (t : Tri) (px py : Nat) : Bool :=
  t.side 0 1 (half px) (half py) && t.side 1 2 (half px) (half py) && t.side 2 0 (half px) (half py)

/-- A quotient by the area, rounded to FP32. -/
def Tri.ratio (t : Tri) (n : Dy) : Nat := fp32.encode (fp32.roundDy ctxRNE false (Dy.divSticky n t.area stickyPrec)).1

/-- b1, b2 and z at a pixel, as FP32 patterns (R320). -/
def Tri.at_ (t : Tri) (px py : Nat) : Nat × Nat × Nat :=
  let e20 := t.edge 2 0 (half px) (half py)
  let e01 := t.edge 0 1 (half px) (half py)
  let z (n : Nat) : Dy := (nth t.z n).dy
  (t.ratio e20, t.ratio e01,
    t.ratio (((z 0).mul t.area).add ((e20.mul ((z 1).sub (z 0))).add (e01.mul ((z 2).sub (z 0))))))

/-- What a triangle gives at a pixel: whether it is covered, b1, b2 and z. Where a corner is infinite the rule gives no value, and
each is free (log entry 41). -/
def pixelOf (s : State) (inf : Bool) (t : Tri) (px py : Nat) : Bool × Nat × Nat × Nat :=
  let free (k : Nat) : Nat := field (s.freeVal (20000 + 4 * (16384 * py + px) + k)) 0 32
  if inf then (free 0 % 2 == 1, free 1, free 2, free 3)
  else
    let v := t.at_ px py
    (t.covers px py, v.1, v.2.1, if t.z.any FV.isInf then free 3 else v.2.2)

/-- The pixels that an axis of the triangle can reach, of `n` in the viewport. -/
def pixelSpan (vs : List Dy) (n : Nat) : List Nat :=
  let lo := vs.foldl Dy.min (nth vs 0)
  let hi := vs.foldl Dy.max (nth vs 0)
  let a := (lo.sub ⟨1, -1⟩).floor
  let b := (hi.add ⟨1, -1⟩).floor
  (List.range n).filter fun p => decide (a ≤ (p : Int)) && decide ((p : Int) ≤ b)

/-- The depth test (R320): FCMP's ordered comparisons. -/
def depthPasses (func z old : Nat) : Bool :=
  let a := fp32.decode z
  let b := fp32.decode old
  if func = 2 then true
  else if a.isNaN || b.isNaN then false
  else a.ltNum b || (func == 1 && a.eqNum b)

/-- The depth locations of the covered pixels, in order: each is tested, and written where the test passes. -/
def depthPixels (d : Draw) (core ctx : Nat) : List (Nat × Nat × Nat) → State → State × Except PortErr (List (Nat × Nat × Bool))
  | [], s => (s, .ok [])
  | (px, py, z) :: rest, s =>
    let wr := bitN d.dfunc 7
    let upd (old : Nat) : Option Nat := if wr && depthPasses (d.dfunc % 4) z old then some z else none
    match engineRmw s core ctx (d.depth + d.pitch * py + 4 * px) (if wr then .atomic else .read) upd with
    | (s, .error e) => (s, .error e)
    | (s, .ok old) =>
      match depthPixels d core ctx rest s with
      | (s, .error e) => (s, .error e)
      | (s, .ok ps) => (s, .ok ((px, py, depthPasses (d.dfunc % 4) z old) :: ps))

/-- A fragment record (R321). -/
def fragRecord (d : Draw) (tri qx qy mask : Nat) (at_ : Nat → Nat → Nat × Nat × Nat) : List Byte :=
  let px : List (Nat × Nat) := [(2 * qx, 2 * qy), (2 * qx + 1, 2 * qy), (2 * qx, 2 * qy + 1), (2 * qx + 1, 2 * qy + 1)]
  let vs := px.map fun p => at_ p.1 p.2
  toBytes (2 * qx) 2 ++ toBytes (2 * qy) 2 ++ toBytes mask 1 ++ toBytes 0 3 ++ toBytes tri 4 ++ toBytes (d.tag % 2 ^ 32) 4
    ++ (vs.flatMap fun v => toBytes v.2.2 4) ++ (vs.flatMap fun v => toBytes v.1 4) ++ (vs.flatMap fun v => toBytes v.2.1 4)

/-- The records of a triangle: quads with a pixel that passed, rows first. -/
def fragRecords (d : Draw) (tri : Nat) (passed : List (Nat × Nat)) (at_ : Nat → Nat → Nat × Nat × Nat) : List (List Byte) :=
  let quads := (passed.map fun p => (p.2 / 2, p.1 / 2)).eraseDups
  let rows := (quads.map Prod.fst).eraseDups
  rows.flatMap fun y =>
    ((List.range 8192).filter fun x => quads.contains (y, x)).map fun x =>
      let bit (n : Nat) (dx dy : Nat) : Nat := if passed.contains (2 * x + dx, 2 * y + dy) then 2 ^ n else 0
      fragRecord d tri x y (bit 0 0 0 + bit 1 1 0 + bit 2 0 1 + bit 3 1 1) at_

/-- Draw one triangle: its records, and the number of covered pixels. -/
def drawTriangle (d : Draw) (rd : Rd) (core ctx tri : Nat) (s : State) : State × Except PortErr (List (List Byte) × Nat) :=
  let vertex (n : Nat) (s : State) : State × Except PortErr (List FV) :=
    match vertexIndex rd d n s with
    | (s, .error e) => (s, .error e)
    | (s, .ok i) => vertexAt rd d i s
  match readEach vertex [3 * tri, 3 * tri + 1, 3 * tri + 2] s with
  | (s, .error e) => (s, .error e)
  | (s, .ok vs) =>
    let inf := vs.any fun v => (nth v 0).isInf || (nth v 1).isInf
    match triOf vs, inf, vs.any fun v => v.any FV.isNaN with
    | none, false, _ => (s, .ok ([], 0))
    | _, true, true => (s, .ok ([], 0))
    | t, _, _ =>
      let t := t.getD default
      let xs := if inf then List.range d.vw else pixelSpan t.x d.vw
      let ys := if inf then List.range d.vh else pixelSpan t.y d.vh
      let s0 := s
      let cov := ys.flatMap fun y => xs.filterMap fun x =>
        let p := pixelOf s0 inf t x y
        if p.1 then some (x, y, p.2.2.2) else none
      match depthPixels d core ctx cov s with
      | (s, .error e) => (s, .error e)
      | (s, .ok ps) =>
        let passed := (ps.filter fun p => p.2.2).map fun p => (p.1, p.2.1)
        (s, .ok (fragRecords d tri passed (fun x y => (pixelOf s0 inf t x y).2), cov.length))

/-! ### The raster unit (R320, R321, R323) -/

/-- The records of a batch in hand cannot enter their queue: their page is not there, or they are those of a triangle that makes more than
the queue holds, and it is full. -/
def recordsStuck (s : State) (j : RasterJob) : Bool :=
  j.fault.isSome || (j.slots.isEmpty &&
    match j.desc.bind fun bs => engineQueue s j.lid (drawOf bs).fq with | some (_, q) => decide (q.occupancy ≥ q.nrec) | none => false)

/-- Room for a triangle's records, as far as the queue can have it, and pages that take them (R321, R323). -/
def recordRoom (s : State) (j : RasterJob) (q : StageQueue) (n : Nat) : State × Except PortErr Bool :=
  let k := min n q.nrec
  if q.nrec - q.occupancy < k then (s, .ok false)
  else
    (List.range k).foldl (fun r m =>
      match r with
      | (s, .ok true) =>
        (match portParts s j.core j.ctx (q.slot (q.tail + m)) 64 .write [] with
         | (s, .ok _) => (s, .ok true)
         | (s, .error e) => (s, .error e))
      | r => r) (s, .ok true)

/-- The raster units stand between triangles of a context's batches: the records of a drawn one have entered their queue, but for one that
cannot finish (R323; log entry 203). -/
def rastersQuiet (s : State) (ctx : Nat) : Bool := s.rasters.all fun j => j.ctx != ctx || j.done || j.records.isEmpty || recordsStuck s j

/-- The batch that a cluster's raster unit has in hand: the first that is not complete, of the contexts that run. -/
def rasterHead (s : State) (clu : Nat) : Option RasterJob :=
  s.rasters.find? fun j => j.core / 8 == clu && !j.done && engineMay s j.ctx .raster (fun st => decide (st.first ≤ j.id))

def putRaster (s : State) (j : RasterJob) : State := { s with rasters := s.rasters.map fun x => if x.id == j.id then j else x }

/-- A change of a batch as it stands now. -/
def modRaster (s : State) (id : Nat) (f : RasterJob → RasterJob) : State := { s with rasters := s.rasters.map fun x => if x.id == id then f x else x }

/-- A batch leaves the unit; it is kept while an RREL may wait for its quads. -/
def endRaster (s : State) (j : RasterJob) : State :=
  putRaster (dropLocks s j.core j.id) { j with done := true, records := [], slots := [], fault := none }

/-- A field breach or a failed access discards a batch, with a record to the handler (R319, R451). -/
def failRaster (s : State) (j : RasterJob) (code addr : Nat) : State :=
  endRaster (errorRecord s j.ctx 2 code 4 (j.core / 8) j.descAddr addr) j

/-- A page fault parks the unit at its batch (R397); nothing of the unit's step has happened. -/
def rasterError (s : State) (j : RasterJob) (acc : Access) (e : PortErr) : State :=
  match e with
  | .page va np => putRaster (fileFault s j.ctx va 4 acc np) { j with fault := some va }
  | .held _ => s
  | e => failRaster s j 5 e.addr

/-- The next triangle of a batch whose fields hold. It is begun once its records have room, which it claims as ENQ does, so that a stop finds it
wholly done or not begun (R321, R323, R372). -/
def rasterDraw (s : State) (j : RasterJob) (d : Draw) (p : Pipe) (q : StageQueue) : State :=
  let rd := jobRd j.core j.ctx j.gid j.lane
  if !j.locked then
    match drawRanges rd d s with
    | (_, .error e) => rasterError s j .read e
    | (s', .ok rs) => if rs.length > freeLocks s j.core then s else putRaster (addLocks s' j.core j.ctx j.id 1 rs) { j with locked := true }
  else if (lockWaits s j.core j.id fun _ => true) || !j.records.isEmpty then s
  else if j.tri ≥ d.count then endRaster s j
  else
    match drawTriangle d rd j.core j.ctx j.tri s with
    | (_, .error e) => rasterError s j (if bitN d.dfunc 7 then .atomic else .read) e
    | (s', .ok (rs, n)) =>
      match recordRoom s j q rs.length with
      | (_, .error e) => rasterError s j .write e
      | (_, .ok false) => s
      | (_, .ok true) =>
        let r := (List.range (min rs.length q.nrec)).foldl (fun (r : State × List Nat) _ =>
          let x := claimTail r.1 p.pid q.index
          (x.1, r.2 ++ [x.2])) (chargeCtx s' j.ctx (1600 * n), [])
        let s := r.1.modPipe p.pid fun p => p.modQueue q.index StageQueue.mark
        putRaster (if n = 0 then s else commitBlock s j.bid) { j with tri := j.tri + 1, records := rs, slots := r.2 }

/-- A parked unit goes on once the page's record has closed; a failed one discards its batch (R397, R398). -/
def rasterUnpark (s : State) (j : RasterJob) (va : Nat) : State :=
  if s.faults.any (sameFault j.ctx va) then s else if j.failed then failRaster s j 5 va else putRaster s { j with fault := none }

/-- RASTER_TRIANGLE: the unit takes its batch in, or draws its next triangle, or ends it. -/
def rasterStep (s : State) (clu : Nat) : State :=
  match rasterHead s clu with
  | none => s
  | some j =>
    match j.fault, j.desc with
    | some va, _ => rasterUnpark s j va
    | none, none =>
      (match jobRd j.core j.ctx j.gid j.lane s j.descAddr 64 with
       | (_, .error e) => rasterError s j .read e
       | (s, .ok bs) => putRaster s { j with desc := some bs })
    | none, some bs =>
      match drawBad bs, engineQueue s j.lid (drawOf bs).fq with
      | false, some (p, q) => rasterDraw s j (drawOf bs) p q
      | _, _ => failRaster s j 4 0

def execRasterTriangle (cluster : Nat) (s : State) : Outcome State Fault Refusal := .next (rasterStep s cluster)

/-- The batch whose records the unit may append: the one in hand, or one of a freezing job whose triangle is drawn (R323, R472). -/
def recordHead (s : State) (clu : Nat) : Option RasterJob :=
  (rasterHead s clu).orElse fun _ => s.rasters.find? fun j => j.core / 8 == clu && !j.done && !j.records.isEmpty && freezes s j.ctx

/-- A record's write at its claimed index, with the release of its fibre, and its publication (R149, R321, R372). -/
def fragPublish (s : State) (j : RasterJob) (p : Pipe) (q : StageQueue) (i : Nat) (bs : List Byte) : State × Except PortErr Nat :=
  match engineWrite (releaseAt s j.core j.ctx j.gid j.lane .device) j.core j.ctx (q.slot i) bs with
  | (s, .error e) => (s, .error e)
  | (s, .ok ()) => (s.modPipe p.pid fun p => p.modQueue q.index fun q => { q with unpublished := q.unpublished.filter fun x => x != i }, .ok i)

/-- FRAGMENT_RECORD_APPEND: the unit's next record enters its queue (R321, R372). -/
def fragAppend (s : State) (clu : Nat) : State :=
  match recordHead s clu with
  | none => s
  | some j =>
    match j.records, j.desc, j.fault with
    | r :: rest, some bs, none =>
      (match engineQueue s j.lid (drawOf bs).fq with
       | none => failRaster s j 4 0
       | some (p, q) =>
         match (match j.slots with
           | i :: _ => some (fragPublish s j p q i r)
           | [] => engineAppend s j.core j.ctx j.gid j.lane p q r) with
         | none => s
         | some (_, .error e) => rasterError s j .write e
         | some (s, .ok i) =>
           modRaster (commitBlock s j.bid) j.id fun x =>
             { x with records := rest, slots := j.slots.drop 1, quads := j.quads ++ [(p.pid, q.index, i)] })
    | _, _, _ => s

def execFragmentRecordAppend (cluster : Nat) (s : State) : Outcome State Fault Refusal := .next (fragAppend s cluster)

/-! ### RREL (R161, R322) -/

/-- Batches that no RREL can wait for any more are forgotten. -/
def reapRasters (s : State) : State :=
  { s with rasters := s.rasters.filter fun r =>
      r.open_ || r.past.any fun u => s.cores.any fun c => c.pend.any fun w => w.gid == u.1 && w.lane == u.2 }

/-- RREL waits in the part; the batch goes on with words that are no memory, engine or synchronising words. -/
def rrelBody (i : Instr) (s : State) (b : Batch) (g : Group) (present : Mask) : State × Option TrapInfo :=
  let f := fieldsOfInstr i
  let ops := (lanesOf (g.actors present f)).map fun l => (⟨l, 0, 0, [0], f.sc.toNat % 8, 0⟩ : LaneOp)
  (drainStores (launchFlight i .rrel ops (reapRasters s) b g).1 g.gid, none)

def execRrel (f : Fields) (s : State) : Outcome State Fault Refusal :=
  .next (runWord (.rrel f) memReady noBar (rrelBody (.rrel f)) s)

end Sys2Proof.Machine
end

