-- ==== Sys2Proof/Machine/Preempt.lean ====
section
/-! DEFINITION. Stopping, saving and starting a context (R445 to R450), and the integrity, boot and thermal events (R403, R404, R452 to
R455). -/

namespace Sys2Proof.Machine

open Host (Outcome)

/-! ### CTX_STOP (R445 to R447) -/

def allEngines : List EngineId := [.issue, .msq, .copy, .marcher, .raster, .grinder, .fabric]

/-- A block of an idempotent launch that has not reached its commit point (R450). -/
def discardable (s : State) (b : Block) : Bool :=
  !b.committed && (s.launch? b.lid).any fun l => bitN l.flags 0

/-- A flight of a discarded group gives up what it holds. -/
def dropFlight (s : State) (core : Nat) (fl : Flight) : State := dropPrune s core fl

/-- A block discarded at a stop: its groups, its engine operations and their locks are gone; its identifier is admitted anew. -/
def discardBlock (s : State) (b : Block) : State :=
  let s := s.cores.foldl (fun s c => (c.rays.filter fun j => j.bid == b.bid).foldl (fun s j => freeJob s c.core j) s) s
  let gs := s.groups.filter fun g => g.bid == b.bid
  let s := gs.foldl (fun s g => endGroup ((g.flights.foldl (fun s fl => dropFlight s g.core fl) s).modGroup g.gid fun g =>
    { g with flights := [] }) g.gid) s
  let s := (s.rasters.filter fun r => r.bid == b.bid).foldl (fun s r => dropLocks s r.core r.id) s
  let s : State := { s with rasters := s.rasters.filter fun r => r.bid != b.bid, groups := s.groups.filter fun g => g.bid != b.bid }
  (endBlock s b.bid).modLaunch b.lid fun l => { l with again := l.again ++ [b.linear] }

/-- The bytes of a save image, in a form the part defines. -/
def imageBytes (s : State) (ctx n : Nat) : List Byte := (List.range n).map (Config.partByte [ctx, s.free, s.clock])

/-- What a context has on the cores, as an image. Blocks of a start that has not ended stay in it. Registers outside a live map keep their
values, where R91 allows zero too (DESIGN CHOICE, log entry 209). -/
def imageOf (s : State) (ctx addr n : Nat) : SaveImage :=
  let old := s.images.filter fun im => im.ctx == ctx
  let onCores {α : Type} (f : Core → List α) : List (Nat × α) := s.cores.flatMap fun c => (f c).map fun x => (c.core, x)
  { ctx := ctx, addr := addr, size := n, bytes := imageBytes s ctx n
    groups := old.flatMap SaveImage.groups ++ s.groups.filter fun g => g.ctx == ctx
    blocks := old.flatMap SaveImage.blocks ++ s.blocks.filter fun b => b.ctx == ctx
    channels := old.flatMap SaveImage.channels ++ s.channels.filter fun c => c.ctx == ctx
    rasters := old.flatMap SaveImage.rasters ++ s.rasters.filter fun r => r.ctx == ctx
    rays := old.flatMap SaveImage.rays ++ onCores fun c => c.rays.filter fun j => j.ctx == ctx
    locks := old.flatMap SaveImage.locks ++ onCores fun c => (c.rlt.filterMap id).filter fun e => e.ctx == ctx }

/-- A stopped context's image is written and every core, scheduler slot and engine it held is free (R445, R448, R450); or the area is
too small and it stays on chip. -/
def saveContext (s : State) (ctx a n : Nat) : State :=
  let need := Config.imageSize s.free
  let s : State := { s with free := s.free + 1, host := { s.host with arg3 := w64 need } }
  let s := s.modContext ctx fun c => { c with stopArg := none }
  if n < need then cmdEnd s 2
  else
    let s := (s.blocks.filter fun b => b.ctx == ctx && discardable s b).foldl discardBlock s
    let im := imageOf s ctx a need
    let lids := (s.launches.filter fun l => l.ctx == ctx).map Launch.lid
    let s := bar2Write s a im.bytes
    let s : State := { s with
      images := im :: s.images.filter fun x => x.ctx != ctx
      cores := s.cores.map (coreWithout lids ctx)
      groups := s.groups.filter fun g => g.ctx != ctx
      blocks := s.blocks.filter fun b => b.ctx != ctx
      channels := s.channels.filter fun c => c.ctx != ctx
      rasters := s.rasters.filter fun r => r.ctx != ctx }
    cmdEnd (s.modContext ctx fun c => { c with run := .saved }) 0

/-- CTX_STOP: the stop request goes to every engine; a context already stopped with its state on chip is saved (R430). -/
def ctxStop (s : State) : State :=
  match cmdNow s 0x10 with
  | none => s
  | some k =>
    match s.context? k.a0.toNat with
    | none => cmdEnd s 3
    | some c =>
      let arg := (k.a1.toNat, k.a2.toNat)
      if c.stopArg.isSome then s
      else if !jobRuns s c.ctx ∨ c.run = .saved then cmdEnd s 3
      else if arg.1 % 65536 ≠ 0 ∨ arg.1 + arg.2 > gddrSize then cmdEnd s 2
      else if c.run = .stopped then saveContext s c.ctx arg.1 arg.2
      else s.modContext c.ctx fun c =>
        if c.run = .stopping then { c with stopArg := some arg }
        else { c with run := .stopping, acks := [], stopArg := some arg, stopAt := s.clock }

def execCtxStop (s : State) : Outcome State Fault Refusal := .next (ctxStop s)

/-- A group stops where it stands: what can complete does, and a trap that its words call for is taken up to its handler's first word
(R428, R446, R447). -/
def stopAtWord (s : State) (gid : Nat) : State :=
  let s := raiseHeld (qputSweep (settleStreams (sweepHeld s gid) gid) gid) gid
  match s.group? gid with
  | none => s
  | some g =>
    (stopGroup (unsealFlights s g) gid 0).modGroup gid fun g => { g with stop := if g.stop = .running then .stopped else g.stop }

/-- Batches that hold a group of a context. -/
def contextBatches (s : State) (ctx : Nat) : List Batch :=
  s.batches.filter fun b => b.members.any fun m => (s.group? m.gid).any fun (g : Group) => g.ctx == ctx

/-- The debug agent works on a context. -/
def debugBusy (s : State) (ctx : Nat) : Bool :=
  (s.stepping.any fun st => st.ctx == ctx) || s.stuff.any fun x => (s.group? x.gid).any fun (g : Group) => g.ctx == ctx

/-- Vector issue has stopped: every batch and entry of the context waits in a word or stands before a safe point. -/
def issueQuiet (s : State) (ctx : Nat) : Bool :=
  !issueOf s ctx && !debugBusy s ctx && (contextBatches s ctx).all (fun b => b.wait.isSome || atSafe s b)
    && s.groups.all fun g => g.ctx != ctx || g.stop != .running || g.entries.all (entryStops s g)

/-- An engine other than vector issue stands at its unit. -/
def engineQuiet (s : State) (ctx : Nat) (e : EngineId) : Bool :=
  match e with
  | .issue => issueQuiet s ctx
  | .msq => matrixQuiet s ctx && (match s.issue with | some (.msq _) => !issueOf s ctx | _ => true)
  | .raster => rastersQuiet s ctx
  | _ => true

/-- ENGINE_STOP_ACK (R446, R447). -/
def engineStopAck (s : State) (ctx : Nat) (e : EngineId) : State :=
  match s.context? ctx with
  | none => s
  | some c =>
    if c.run ≠ .stopping ∨ c.acks.contains e ∨ engineQuiet s ctx e = false then s
    else
      let s : State := match e with
        | .issue => ((s.groups.filter fun g => g.ctx == ctx).map Group.gid).foldl stopAtWord s
        | .fabric => performContext s ctx
        | _ => s
      s.modContext ctx fun c => { c with acks := e :: c.acks }

def execEngineStopAck (ctx : Nat) (e : EngineId) (s : State) : Outcome State Fault Refusal := .next (engineStopAck s ctx e)

/-- Clocks that a stop waits for a safe point (R446). -/
def stopClocks : Nat := 65536

/-- GROUP_STOP_TIMEOUT (R446). -/
def groupStopTimeout (s : State) (gid : Nat) : State :=
  match s.group? gid with
  | none => s
  | some g =>
    match s.context? g.ctx with
    | none => s
    | some c =>
      if c.run = .stopping ∧ ¬ c.acks.contains .issue ∧ s.clock ≥ c.stopAt + stopClocks ∧ !issueOf s g.ctx ∧ !debugBusy s g.ctx
          ∧ g.stop = .running then
        stopAtWord s gid
      else s

def execGroupStopTimeout (gid : Nat) (s : State) : Outcome State Fault Refusal := .next (groupStopTimeout s gid)

/-- CONTEXT_STOPPED: every engine has acknowledged. Dirty private lines are written back (R112), and a group whose last capture was a
start has its PRE bit set (R484); then the save that was asked for is made. -/
def contextStopped (s : State) (ctx : Nat) : State :=
  match s.context? ctx with
  | none => s
  | some c =>
    if c.run ≠ .stopping ∨ allEngines.all c.acks.contains = false then s
    else
      let s := ((s.groups.filter fun g => g.ctx == ctx).map Group.gid).foldl writebackAll s
      let s := performContext s ctx
      let s : State := { s with groups := s.groups.map fun g => if g.ctx == ctx && g.capOpen then { g with pre := true } else g }
      let s := s.modContext ctx fun c => { c with run := .stopped }
      match c.stopArg with
      | some (a, n) => saveContext s ctx a n
      | none => s

def execContextStopped (ctx : Nat) (s : State) : Outcome State Fault Refusal := .next (contextStopped s ctx)

/-! ### CTX_START and CTX_SETREG (R445, R449) -/

/-- The save area holds a context's image as this part wrote it. -/
def imageAt (s : State) (ctx a : Nat) : Option SaveImage :=
  s.images.find? fun im =>
    im.ctx == ctx && decide (a + im.size ≤ gddrSize) && !s.poisoned a im.size && s.readPa a im.size == im.bytes

/-- CTX_START. -/
def ctxStart (s : State) : State :=
  match cmdNow s 0x11 with
  | none => s
  | some k =>
    match s.context? k.a0.toNat with
    | none => cmdEnd s 3
    | some c =>
      if !jobRuns s c.ctx ∨ (c.run ≠ .saved ∧ c.run ≠ .stopped) then cmdEnd s 3
      else
        match imageAt s c.ctx k.a1.toNat with
        | none => cmdEnd s 2
        | some _ => startFinish (cmdEnd (s.modContext c.ctx fun c => { c with run := .starting }) 0) c.ctx

def execCtxStart (s : State) : Outcome State Fault Refusal := .next (ctxStart s)

/-- CTX_SETREG. -/
def ctxSetreg (s : State) : State :=
  match cmdNow s 0x12 with
  | none => s
  | some k =>
    match s.context? k.a0.toNat with
    | none => cmdEnd s 3
    | some c =>
      let n := k.a1.toNat
      if n = 0x08 ∨ n = 0x10 ∨ n = 0x11 then cmdEnd (s.modContext c.ctx fun c => writeContextReg c n k.a2) 0 else cmdEnd s 2

def execCtxSetreg (s : State) : Outcome State Fault Refusal := .next (ctxSetreg s)

/-! ### Boot and heat (R403, R404, R425) -/

/-- A firmware image: its header, a signature block, and both signatures under the keys fused into the part, four of each kind. -/
def firmwareOk (img : List Byte) : Bool :=
  let f := byteField img
  f 0 4 == 0x4F435545 && f 4 2 == 1 && bitN (f 28 4) 0
    && (match findSection (sectionsOf img) 0x0E with
        | some x => signedBy ((List.range 4).map Config.romRsaKey) ((List.range 4).map Config.romSlhKey) img x
        | none => false)

/-- What outlives a reset: memory off the die, what is outside the chip, and the model's own counters. -/
def State.afterReset (s : State) : State :=
  { State.reset with
    agenda := s.agenda, free := s.free, nextId := s.nextId, clock := s.clock, resetClock := s.clock, gtsBase := s.gtsBase
    hostMem := s.hostMem, peerMem := s.peerMem, peerBad := s.peerBad, peerSays := s.peerSays, peerNews := s.peerNews }

/-- PERST_DEASSERT: every on-chip array is clear, and READY tells whether firmware and training have passed. -/
def perstDeassert (s : State) (image : List Byte) (trained : Bool) : State :=
  { s.afterReset with
    mem := s.mem, poison := s.poison, poisonCode := s.poisonCode
    firmware := if firmwareOk image then image else []
    host := { HostRegs.reset with ready := firmwareOk image && trained } }

def execPerstDeassert (image : List Byte) (trained : Bool) (s : State) : Outcome State Fault Refusal := .next (perstDeassert s image trained)

def execThermalHigh (s : State) : Outcome State Fault Refusal :=
  .next (if s.host.therm then s else { s with host := { s.host with therm := true }, msix := s.msix ++ [3] })

def execThermalRecover (s : State) : Outcome State Fault Refusal := .next { s with host := { s.host with therm := false } }

/-- THERMAL_TRIP: all state is lost. -/
def execThermalTrip (s : State) : Outcome State Fault Refusal := .next { s.afterReset with thermTrip := true }

/-! ### Errors (R452 to R455) -/

/-- A counter of SECNT, which saturates. -/
def satUp (n : Nat) : Nat := min (n + 1) (2 ^ 64 - 1)

def countError (s : State) (code : Nat) (corrected : Bool) : State :=
  let p := nth s.secnt code
  { s with secnt := s.secnt.set code (if corrected then (satUp p.1, p.2) else (p.1, satUp p.2)) }

/-- A structure code of R452. -/
def secCode (code : Nat) : Bool := decide (1 ≤ code) && decide (code ≤ 9)

def execEccCorrected (code : Nat) (s : State) : Outcome State Fault Refusal :=
  .next (if secCode code then countError s code true else s)

/-- A sector of local GDDR becomes poisoned under a structure's code. -/
def poisonSector (s : State) (pa code : Nat) : State :=
  if pa ≥ gddrSize then s
  else
    { s with
      poison := pa / 32 :: s.poison.filter fun n => n != pa / 32
      poisonCode := (pa / 32, code) :: s.poisonCode.filter fun p => p.1 != pa / 32 }

def insertPoison (ps : List Nat) (n : Nat) : List Nat := n :: ps.filter fun p => p != n

/-- A sector is poisoned under a structure's code. -/
def insertBad (ps : List (Nat × Nat)) (n code : Nat) : List (Nat × Nat) := (n, code) :: ps.filter fun p => p.1 != n

def Reg.poisoned (r : Reg) : Reg := { r with poison := true }

/-- A sector of a line's copy becomes poisoned, under the code of the structure that failed (R452). -/
def poisonLine (ctx line sec code : Nat) (l : CacheLine) : CacheLine :=
  if l.ctx == ctx && l.line == line then { l with bad := insertBad l.bad sec code } else l

/-- Where poison lands (R452, R454): in the structure that failed, or in the copy that a handover had just made (R453). -/
def poisonPlace (s : State) (code : Nat) (place : EccPlace) : State :=
  match place with
  | .memory pa => poisonSector s pa code
  | .scratch bid off => s.modBlock bid fun b => { b with scratchPoison := insertPoison b.scratchPoison (off / 32) }
  | .vreg gid lane n => s.modGroup gid fun g => g.modFibre lane fun x => { x with v := x.v.modify n Reg.poisoned }
  | .kreg gid n => s.modGroup gid fun g => { g with k := g.k.modify n Reg.poisoned }
  | .accum bid entry => s.modEngine bid fun e => { e with accPoison := insertPoison e.accPoison entry }
  | .slot bid n off => s.modEngine bid fun e =>
      { e with slots := e.slots.modify n fun x => { x with poison := insertPoison x.poison off } }
  | .buffer bid n off => s.modEngine bid fun e =>
      { e with bufs := e.bufs.modify n fun x => { x with poison := insertPoison x.poison off } }
  | .priv gid sec => s.modGroup gid fun g => { g with privPoison := insertBad g.privPoison sec code }
  | .l1 core ctx line sec => s.modCore core fun c => { c with l1 := c.l1.map (poisonLine ctx line sec code) }
  | .grinder core ctx line sec => s.modCore core fun c => { c with grinder := c.grinder.map (poisonLine ctx line sec code) }
  | _ => s

/-- A cache line that parity finds bad is dropped, and fetched or walked again (R452). -/
def dropPlace (s : State) (place : EccPlace) : State :=
  match place with
  | .grinder core ctx line _ => s.modCore core fun c => { c with grinder := c.grinder.filter fun l => !(l.ctx == ctx && l.line == line) }
  | .icache core ctx line => s.modCore core fun c => { c with icache := c.icache.filter fun x => x != (ctx, line) }
  | .tlb n ctx base bits => { s with tlb := s.tlb.filter fun t => !(t.tlb == n && t.ctx == ctx && t.base == base && t.bits == bits) }
  | _ => s

/-- The address an error's log entry names. -/
def placeAddr (place : EccPlace) : Nat := match place with | .memory pa => pa | .scratch _ off => off | _ => 0

/-- ECC_UNCORRECTABLE. A line of an instruction, Grinder or translation cache is dropped and fetched again, and counts as corrected. -/
def eccUncorrectable (s : State) (code ctx : Nat) (place : EccPlace) : State :=
  if !secCode code then s
  else if code = 7 then dropPlace (countError s 7 true) place
  else
    let s := poisonPlace (countError s code false) code place
    { s with errlog := s.errlog ++ [⟨4, ctx, code, 0, placeAddr place⟩], msix := s.msix ++ [2] }

def execEccUncorrectable (code ctx : Nat) (place : EccPlace) (s : State) : Outcome State Fault Refusal :=
  .next (eccUncorrectable s code ctx place)

/-- LINK_DOWN: one of the 18 ports. -/
def linkDown (s : State) (port : Nat) : State :=
  if port ≥ 18 ∨ s.linksDown.contains port then s
  else
    let s := countError s 8 false
    { s with linksDown := port :: s.linksDown, errlog := s.errlog ++ [⟨5, 0xFFF, 8, 0, port⟩], msix := s.msix ++ [2] }

def execLinkDown (port : Nat) (s : State) : Outcome State Fault Refusal := .next (linkDown s port)

/-- BACKGROUND_SCRUB: sectors are read and, where an error can be corrected, corrected in place, with no architectural effect. -/
def execBackgroundScrub (s : State) : Outcome State Fault Refusal := .next s

end Sys2Proof.Machine
end

