-- ==== Sys2Proof/Machine/Debug.lean ====
section
/-! DEFINITION. The debug agent: its commands (R458 to R462, R466, R467), the halt wave (R468 to R476) and the single step (R477). -/

namespace Sys2Proof.Machine

open Host (Outcome)

/-! ### The state of a job (R469, R471) -/

/-- A context of a job is on this chip. -/
def jobHere (s : State) (key : Nat) : Bool := s.contexts.any fun c => c.jobKey == key

/-- The ports of the chip (R402). -/
def allPorts : List Nat := List.range 18

/-- A job of a domain has its waves sent to the other chips; one that stands on one chip alone sends none (R468). -/
def sendWave (s : State) (key : Nat) (m : FabricMsg) : State := if key < 0x10000 then { s with outbox := s.outbox ++ [m] } else s

def setJob (s : State) (j : Job) : State := { s with jobs := j :: dropBy Job.job j.job s.jobs }

def JobState.code (j : JobState) : Nat := match j with | .running => 0 | .freezing => 1 | .frozen => 2 | .releasing => 3

/-- HALTCAUSE (R469). -/
def haltCause (s : State) (c : Context) : Word :=
  match lookupBy Job.job c.jobKey s.jobs with
  | none => 0
  | some j =>
    let t := j.record.getD default
    let step := s.stepping.any fun st => st.ctx == c.ctx
    w64 (t.safeord % 2 ^ 32 + (if j.local_ then 2 ^ 44 else 0) + (if step then 2 ^ 45 else 0) + j.state.code * 2 ^ 46
      + t.cause % 64 * 2 ^ 48 + t.chip % 1024 * 2 ^ 54)

/-- A word of the domain cause record (R474). -/
def causeWord (t : TrigRec) (n : Nat) : Word := match n with | 0 => w64 t.gts | 1 => t.word1 | 2 => t.word2 | _ => t.word3

/-! ### HALT_ARM, HALT_NOW, HALT_RESUME (R458, R470, R476) -/

/-- HALT_ARM. -/
def haltArm (s : State) : State :=
  match cmdNow s 0x13 with
  | none => s
  | some k =>
    match s.context? k.a0.toNat with
    | none => cmdEnd s 3
    | some c =>
      if !jobRuns s c.ctx then cmdEnd s 3
      else if k.a1.toNat ≥ 32 then cmdEnd s 2
      else cmdEnd (s.modContext c.ctx fun c => { c with trig := k.a1.toNat }) 0

def execHaltArm (s : State) : Outcome State Fault Refusal := .next (haltArm s)

/-- HALT_NOW: a trigger with cause 0x13, whatever the mask holds. -/
def haltNow (s : State) : State :=
  match cmdNow s 0x14 with
  | none => s
  | some k =>
    match s.context? k.a0.toNat with
    | none => cmdEnd s 3
    | some c =>
      if !jobRuns s c.ctx then cmdEnd s 3
      else cmdEnd { s with trigs := s.trigs ++ [(c.ctx, plainTrig s 0x13)] } 0

def execHaltNow (s : State) : Outcome State Fault Refusal := .next (haltNow s)

/-- HALT_RESUME: the release time is at least 4 µs on; the resume wave starts. -/
def haltResume (s : State) : State :=
  match cmdNow s 0x15 with
  | none => s
  | some k =>
    match s.context? k.a0.toNat with
    | none => cmdEnd s 3
    | some c =>
      match lookupBy Job.job c.jobKey s.jobs with
      | none => cmdEnd s 3
      | some j =>
        if j.state ≠ .frozen then cmdEnd s 3
        else if k.a1.toNat < s.gts + 4000 then cmdEnd s 2
        else cmdEnd (sendWave (setJob s { j with state := .releasing, release := k.a1.toNat, waves := (k.a1.toNat, 0) :: j.waves }) j.job (.resumeWave j.job k.a1.toNat allPorts)) 0

def execHaltResume (s : State) : Outcome State Fault Refusal := .next (haltResume s)

/-! ### The halt wave (R471, R472) -/

/-- One trigger is earlier than another. -/
def trigBefore (t u : TrigRec) : Bool := decide (t.gts < u.gts) || (t.gts == u.gts && decide (t.chip < u.chip))

/-- What a chip holds for a job; for one that has always run here, nothing yet. -/
def jobOr (s : State) (key : Nat) : Job := (lookupBy Job.job key s.jobs).getD ⟨key, .running, none, false, [], 0, []⟩

/-- The name of a halt wave among those that a chip has passed on. -/
def haltKey (t : TrigRec) : Nat × Nat := (t.gts, t.chip + 1)

/-- HALT_TRIGGER: the oldest local trigger of a running job starts the wave; one of a job that does not run is nothing (R470). -/
def haltTrigger (s : State) : State :=
  match s.trigs with
  | [] => s
  | (ctx, t) :: rest =>
    let s : State := { s with trigs := rest }
    match s.context? ctx with
    | none => s
    | some c =>
      if !jobRuns s ctx then s
      else
        let j := jobOr s c.jobKey
        sendWave (setJob s { j with state := .freezing, record := some t, local_ := true, held := [], waves := haltKey t :: j.waves }) c.jobKey
          (.haltWave c.jobKey t allPorts)

def execHaltTrigger (s : State) : Outcome State Fault Refusal := .next (haltTrigger s)

/-- Every port but the one a wave arrived on. -/
def otherPorts (port : Nat) : List Nat := allPorts.filter fun p => p != port

/-- HALT_WAVE_RECEIVE. A chip forwards each wave once, and one with no context of the job keeps nothing of it (R471). -/
def haltWaveReceive (s : State) (job : Nat) (t : TrigRec) (port : Nat) : State :=
  let fwd (s : State) : State := sendWave s job (.haltWave job t (otherPorts port))
  if !s.host.ready ∨ job ≥ 0xFFFF then s
  else if !jobHere s job then fwd s
  else
    let j := jobOr s job
    if j.waves.contains (haltKey t) then s
    else
      let k : Job := { j with waves := haltKey t :: j.waves }
      let first : Job := { k with record := some t, local_ := false }
      fwd (setJob s (match j.state with
        | .running => { first with state := .freezing, held := [] }
        | .freezing => if j.record.any (trigBefore t) then first else k
        | _ => k))

def execHaltWaveReceive (job : Nat) (t : TrigRec) (port : Nat) (s : State) : Outcome State Fault Refusal :=
  .next (haltWaveReceive s job t port)

/-- The contexts of a job on this chip. -/
def jobContexts (s : State) (key : Nat) : List Context := s.contexts.filter fun c => c.jobKey == key

/-- The issue slot holds nothing of a job. -/
def jobQuiet (s : State) (key : Nat) : Bool := (jobContexts s key).all fun c => !issueOf s c.ctx

/-- Words of a context already issued complete, or wait for what they need; a cause they meet is held, and a PUBLISH gives its seals back
(R420, R470, R472). -/
def settleContext (s : State) (ctx : Nat) : State :=
  let gids := (s.groups.filter fun g => g.ctx == ctx).map Group.gid
  let s := gids.foldl (fun s gid => raiseHeld (settleStreams (sweepHeld s gid) gid) gid) s
  performContext (gids.foldl (fun s gid => match s.group? gid with | some g => unsealFlights s g | none => s) s) ctx

/-- JOB_FROZEN: 2 µs after the trigger, with every engine stopped. -/
def jobFrozen (s : State) (key : Nat) : State :=
  match lookupBy Job.job key s.jobs with
  | none => s
  | some j =>
    match j.record with
    | none => s
    | some t =>
      if j.state ≠ .freezing ∨ s.gts < t.gts + 2000 ∨ !jobQuiet s key ∨ (jobContexts s key).any (fun c => !matrixQuiet s c.ctx || !rastersQuiet s c.ctx) = true then s
      else setJob ((jobContexts s key).foldl (fun s c => settleContext s c.ctx) s) { j with state := .frozen }

def execJobFrozen (job : Nat) (s : State) : Outcome State Fault Refusal := .next (jobFrozen s job)

/-! ### Resuming (R471, R476) -/

/-- RESUME_WAVE_RECEIVE. A chip forwards each wave once; one that comes after its release time leaves the chip frozen, and is logged (R471,
R476). -/
def resumeWaveReceive (s : State) (job release port : Nat) : State :=
  let fwd (s : State) : State := sendWave s job (.resumeWave job release (otherPorts port))
  if !s.host.ready ∨ job ≥ 0xFFFF then s
  else if !jobHere s job then fwd s
  else
    let j := jobOr s job
    if j.waves.contains (release, 0) then s
    else
      let k : Job := { j with waves := (release, 0) :: j.waves }
      if j.state ≠ .frozen then fwd (setJob s k)
      else if s.gts > release then
        fwd (setJob { s with errlog := s.errlog ++ [⟨6, 0xFFF, job, 0, release⟩], msix := s.msix ++ [2] } k)
      else fwd (setJob s { k with state := .releasing, release := release })

def execResumeWaveReceive (job release port : Nat) (s : State) : Outcome State Fault Refusal :=
  .next (resumeWaveReceive s job release port)

/-- HALT_RELEASE: at T the freeze buffer's responses go out, then everything of the job goes on; the next safe point of each of its
groups makes a SYNC (R481). -/
def haltRelease (s : State) (key : Nat) : State :=
  match lookupBy Job.job key s.jobs with
  | none => s
  | some j =>
    if j.state ≠ .releasing ∨ s.gts < j.release then s
    else
      let s := setJob { s with outbox := s.outbox ++ j.held } { j with state := .running, held := [] }
      (jobContexts s key).foldl (fun s c => needSync s c.ctx) s

def execHaltRelease (job : Nat) (s : State) : Outcome State Fault Refusal := .next (haltRelease s job)

/-! ### Breakpoints and watchpoints (R466, R467) -/

/-- BP_SET. -/
def bpSet (s : State) : State :=
  match cmdNow s 0x18 with
  | none => s
  | some k =>
    if k.a0.toNat ≥ 16 ∨ field k.a1 12 20 ≠ 0 ∨ k.a3.toNat ≥ 2 then cmdEnd s 2
    else
      let e := if k.a3 = 1 then some (⟨field k.a1 0 12, field k.a1 32 32, k.a2.toNat⟩ : BreakPt) else none
      cmdEnd { s with bps := s.bps.set k.a0.toNat e } 0

def execBpSet (s : State) : Outcome State Fault Refusal := .next (bpSet s)

/-- WP_SET: a length of zero disables the entry. -/
def wpSet (s : State) : State :=
  match cmdNow s 0x19 with
  | none => s
  | some k =>
    let w := k.a1
    if k.a0.toNat ≥ 8 ∨ field w 26 38 ≠ 0 ∨ field w 12 2 = 3 ∨ field w 14 2 = 0 then
      (if k.a0.toNat < 8 ∧ k.a3 = 0 then cmdEnd { s with wps := s.wps.set k.a0.toNat none } 0 else cmdEnd s 2)
    else
      let e := if k.a3 = 0 then none else some (⟨field w 0 12, w.toNat, k.a2.toNat, k.a3.toNat⟩ : WatchPt)
      cmdEnd { s with wps := s.wps.set k.a0.toNat e } 0

def execWpSet (s : State) : Outcome State Fault Refusal := .next (wpSet s)

/-! ### DBG_READ and DBG_WRITE (R458, R459) -/

/-- Groups and blocks of a context, on the chip or in its save image. -/
def allGroups (s : State) (ctx : Nat) : List Group :=
  (s.groups ++ s.images.flatMap SaveImage.groups).filter fun g => g.ctx == ctx

def allBlocks (s : State) (ctx : Nat) : List Block :=
  (s.blocks ++ s.images.flatMap SaveImage.blocks).filter fun b => b.ctx == ctx

/-- The group that a command names by its block's linear identifier and its index. -/
def debugGroup (s : State) (ctx linear index : Nat) : Option Group :=
  (allGroups s ctx).find? fun g =>
    g.index == index && (allBlocks s ctx).any fun b => b.bid == g.bid && b.linear == linear

/-- The block whose barriers, MSQ and range locks a selector reads: that of the job's local trigger, else the context's first. -/
def debugBlock (s : State) (c : Context) : Option Block :=
  let bs := allBlocks s c.ctx
  let rec_ := (lookupBy Job.job c.jobKey s.jobs).bind fun j => if j.local_ then j.record else none
  match rec_.bind fun t => bs.find? fun b => b.linear == field t.word1 0 32 && b.core == field t.word1 37 9 with
  | some b => some b
  | none => bs.head?

/-- The block whose matrix engine a selector reads: `debugBlock` where it owns one, else the context's first that does (R264, R274). -/
def debugOwner (s : State) (c : Context) : Option Block :=
  match (debugBlock s c).filter fun b => b.engine.isSome with
  | some b => some b
  | none => (allBlocks s c.ctx).find? fun b => b.engine.isSome

/-- An RLT entry's 128 bits (R154); the code of a buffer or slot is the part's (log entry 132). -/
def rltBits (e : Option RltEntry) : Nat :=
  match e with
  | none => 0
  | some e =>
    (if e.space = 2 then (Config.matrixBase e.base).toNat else e.base) % 2 ^ 57 + e.len % 2 ^ 32 * 2 ^ 57 + e.ctx % 4096 * 2 ^ 109 + e.space % 4 * 2 ^ 121 + e.engine % 8 * 2 ^ 123
      + (if e.dest then 2 ^ 126 else 0) + 2 ^ 127

/-- A matrix barrier's word (R274). -/
def mbarBits (x : MBar) : Nat := x.arr % 64 + x.expc % 64 * 2 ^ 8 + x.phase % 2 * 2 ^ 14 + (if x.sarr then 2 ^ 15 else 0)

/-- A block barrier's state: its phase bit, its count once set, and the group arrivals (R100), in a form that is the part's (R459; log
entry 81). -/
def barBits (x : Barrier) : Nat := (Config.barrierWord (x.phase % 2) (x.expected.getD 0) x.zero x.arrived).toNat

/-- The MSQ's status word (R264). -/
def msqStatus (e : Engine) : Nat :=
  e.sidx % 2 ^ 32 + e.woff % 2 ^ 20 * 2 ^ 32 + e.loops.length % 16 * 2 ^ 52 + e.cause % 64 * 2 ^ 56 + e.state % 4 * 2 ^ 62

/-- A group's registers may be read: its job is frozen or its context is stopped. -/
def groupReadable (s : State) (c : Context) : Bool :=
  s.jobState c.jobKey == .frozen || c.run == .stopped || c.run == .saved

/-- What a selector returns: the low and the high word, or RESULT. -/
def debugValue (s : State) (c : Context) (sel idx : Nat) : Except Nat (Nat × Nat) :=
  match sel with
  | 0 =>
    (match idx with
     | 0x20 => .ok (c.dbgmbox.toNat, 0)
     | 0x21 => .ok ((haltCause s c).toNat, 0)
     | 0x22 => .ok (c.tracectl.toNat, 0)
     | 0x23 => .ok (c.pmctl.toNat, 0)
     | _ => .error 2)
  | 1 =>
    if idx ≥ 32 then .error 2
    else
      let core := match debugBlock s c with | some b => b.core | none => 0
      let n := rltBits (nth ((s.core? core).getD default).rlt idx)
      .ok (n % 2 ^ 64, n / 2 ^ 64)
  | 2 =>
    if idx ≥ 4 then .error 2
    else .ok ((match (lookupBy Job.job c.jobKey s.jobs).bind Job.record with | some t => (causeWord t idx).toNat | none => 0), 0)
  | 3 =>
    if idx / 2 ^ 37 ≠ 0 then .error 2
    else if !groupReadable s c then .error 3
    else
      match debugGroup s c.ctx (bitsN idx 0 32) (bitsN idx 32 5) with
      | none => .error 2
      | some g => .ok (match g.trap with | some t => (t.cause.code, t.detail) | none => (0, 0))
  | 4 =>
    if idx ≥ 2 ^ 17 ∨ bitsN idx 0 16 ≥ 16 then .error 2
    else if bitN idx 16 then
      (match (debugOwner s c).bind Block.engine with
       | some e => .ok (mbarBits (nth e.mbars (bitsN idx 0 16)), 0)
       | none => .error 2)
    else (match debugBlock s c with | some b => .ok (barBits (nth b.bars idx), 0) | none => .error 2)
  | 5 =>
    (match (debugOwner s c).bind Block.engine with
     | some e => if idx = 0 then .ok (msqStatus e, 0) else .error 2
     | none => .error 2)
  | _ => .error 2

/-- DBG_READ. -/
def dbgRead (s : State) : State :=
  match cmdNow s 0x1A with
  | none => s
  | some k =>
    match s.context? k.a0.toNat with
    | none => cmdEnd s 3
    | some c =>
      match debugValue s c k.a1.toNat k.a2.toNat with
      | .error r => cmdEnd s r
      | .ok (lo, hi) => cmdEnd { s with host := { s.host with arg2 := w64 lo, arg3 := w64 hi } } 0

def execDbgRead (s : State) : Outcome State Fault Refusal := .next (dbgRead s)

/-- DBG_WRITE: MASK clears, or the writable fields of TRACECTL or PMCTL are taken (R461, R478, R482). -/
def dbgWrite (s : State) : State :=
  match cmdNow s 0x1B with
  | none => s
  | some k =>
    match s.context? k.a0.toNat with
    | none => cmdEnd s 3
    | some c =>
      match k.a1.toNat with
      | 0x20 => cmdEnd (s.modContext c.ctx fun c => { c with dbgmbox := c.dbgmbox &&& 0xFFFFFFFF#64 }) 0
      | 0x22 =>
        let v := k.a2 &&& 0xFF00003FFFFFFFFF#64
        let s := if v.getLsbD 63 && !c.tracectl.getLsbD 63 then needSync s c.ctx else s
        cmdEnd (s.modContext c.ctx fun c => { c with tracectl := v }) 0
      | 0x23 => cmdEnd (s.modContext c.ctx fun c => { c with pmctl := k.a2 &&& 0xFFFFFFFFFF#64 }) 0
      | _ => cmdEnd s 2

def execDbgWrite (s : State) : Outcome State Fault Refusal := .next (dbgWrite s)

/-! ### DBG_STUFF (R462) -/

/-- A group that words may be stuffed into: frozen, or stopped at a trap. -/
def stuffable (s : State) (c : Context) (g : Group) : Bool :=
  s.jobState c.jobKey == .frozen || (g.stop != .running && g.trap.isSome)

/-- A batch number and an object that no batch and no object of a group bears. -/
def stuffBatch (g : Group) (clock : Nat) : Batch :=
  ⟨0, g.core, g.sched, [⟨g.gid, g.liveMask, []⟩], 2 ^ 64, 0, 0, none, clock, 0, clock, none, none, false, 0⟩

/-- A fibre as stuffed words see it: what is not visible at the stop point is set aside. -/
def stuffFibre (x : Fibre) : Fibre := { x with pend := [], hist := x.hist.filter fun h => h.left == 0 }

/-- The group's k registers as a word at the stop point reads them. -/
def stuffK (g : Group) : List Reg :=
  (g.kpend.filter fun p => decide (p.left ≤ 1)).foldl (fun k p => k.set p.idx { nth k p.idx with val := p.val, full := true, poison := false }) g.k

/-- STATE, CAUSE and WIDX of DBGMBOX. -/
def mboxState (w : Word) (state cause widx : Nat) : Word :=
  (w &&& 0xFFFFFFFFFF000000#64) ||| w64 (cause % 256 * 2 ^ 16 + widx % 16 * 2 ^ 12 + state % 4)

/-- DBG_STUFF: the group enters debug mode and the first word stands at issue. -/
def dbgStuff (s : State) : State :=
  match cmdNow s 0x16 with
  | none => s
  | some k =>
    if s.stuff.isSome ∨ s.issue.isSome then s
    else
      match s.context? k.a0.toNat with
      | none => cmdEnd s 3
      | some c =>
        let n := field k.a2 8 5
        match debugGroup s c.ctx k.a1.toNat (field k.a2 0 5) with
        | none => cmdEnd s 2
        | some g =>
          if n = 0 ∨ n > 16 ∨ k.a2.toNat ≠ field k.a2 0 5 + n * 256 then cmdEnd s 2
          else if !stuffable s c g ∨ (s.group? g.gid).isNone then cmdEnd s 3
          else
            let view := stuffK g
            let inWord := (s.batches.filter fun b => b.wait.isSome).foldl (fun ls b =>
              (b.members.filter fun m => m.gid == g.gid).foldl (fun ls m => ls ||| m.lanes) ls) (0 : Mask)
            let base := ((List.range g.fibres.length).zip g.fibres).map fun p => atStop (inMask inWord p.1) p.2
            let s := s.modGroup g.gid fun g => { g with dbg := true, fibres := base.map stuffFibre, k := view, kpend := [] }
            let s := s.modContext c.ctx fun c => { c with dbgmbox := mboxState c.dbgmbox 1 0 0 }
            { s with
              stuff := some ⟨g.gid, n, base, g.k, view, g.kpend⟩, issue := some (.stuff g.gid)
              batches := stuffBatch g s.clock :: s.batches, tried := s.tried.filter fun id => id != 0 }

def execDbgStuff (s : State) : Outcome State Fault Refusal := .next (dbgStuff s)

/-- A fibre after the last stuffed word: the o and l files and the pending results are as they were. -/
def unstuffFibre (p : Fibre × Fibre) : Fibre := { p.1 with o := p.2.o, oset := p.2.oset, hist := p.2.hist, pend := p.2.pend }

/-- A k register keeps what a stuffed word wrote. -/
def unstuffK (now view old : List Reg) : List Reg :=
  (List.range old.length).map fun n => if nth now n = nth view n then nth old n else nth now n

/-- The stuff ends: after its last word, or by a cause at a word. -/
def stuffEnd (s : State) (st : StuffSt) (widx : Nat) (cause : Option Cause) : State :=
  let ctx := match s.group? st.gid with | some g => g.ctx | none => 0
  let s := s.modGroup st.gid fun g =>
    { g with
      dbg := false, fibres := (g.fibres.zip st.fibres).map unstuffFibre, k := unstuffK g.k st.view st.k
      kpend := st.kpend.filter fun p => decide (1 < p.left) || nth g.k p.idx == nth st.view p.idx }
  let s := s.modContext ctx fun c =>
    let v := mboxState c.dbgmbox (if cause.isSome then 3 else 2) (match cause with | some c => c.code | none => 0)
      (if cause.isSome then widx else 0)
    { c with dbgmbox := v }
  cmdEnd { s with stuff := none, issue := none, batches := dropBy Batch.id 0 s.batches, tried := s.tried.filter fun id => id != 0 } 0

/-- Words that end a stuff at once: ends of segments, control and barrier words, RFT, PUBLISH, and SUSPEND, which waits. -/
def stuffBars (i : Instr) : Bool :=
  isEnd i ||
  match i with
  | .live _ | .vote _ => false
  | .rft _ | .publish _ | .suspend _ => true
  | i => decide (0x06 ≤ opOf i) && decide (opOf i ≤ 0x13)

/-- A word whose opcode ends a stuff at once, whatever its other fields: ILLEGAL_CONTEXT goes before their causes (R66). -/
def stuffBarsWord (w : Word) : Bool :=
  let op := (wordBits w 54 8).toNat
  !w.getLsbD 62 && !reservedOp op &&
  match withLit op w 0 with
  | some (.suspend _) | none => false
  | some i => stuffBars i

/-- The next stuffed word, or the cause that it has. -/
def stuffWord (s : State) (st : StuffSt) (b : Batch) : Except Cause Instr :=
  if stuffBarsWord (nth s.progBuf b.woff) then .error .illegalContext
  else
    match (fetchInstr s b).2 with
    | .error c => .error c
    | .ok i =>
      if b.woff + wordCount i > st.count then .error .ifetchFault
      else if stuffBars i then .error .illegalContext
      else .ok i

/-- The sources of a word that stuffing finds empty, whatever W says. -/
def stuffEmpty (s : State) (b : Batch) (g : Group) (i : Instr) : Bool :=
  (partsOf i).any fun j => (lanesOf (partLanes g g.liveMask j)).any fun l => emptySources s (srcCtx s b g) g g.liveMask l j != 0

/-- A trap that a word has raised in a group since an earlier state. -/
def newTrap (g h : Group) : Option TrapInfo :=
  match g.trap, h.trap with
  | none, some t => some t
  | _, _ => if h.held.length > g.held.length then h.held.getLast?.map HeldTrap.trap else none

/-- A stuffed word's effects without the trap it has raised. -/
def untrap (s t : State) (gid : Nat) : State :=
  match s.group? gid with
  | none => t
  | some g =>
    { t.modGroup gid fun h =>
        { h with entries := g.entries, resume := g.resume, stop := g.stop, trap := g.trap, held := g.held } with batches := s.batches }

/-- After a stuffed word, from the state before it and the state it left: it stands, or it is undone and ends the stuff. -/
def stuffAfter (s t : State) (st : StuffSt) (b : Batch) (i : Instr) : State :=
  match s.group? st.gid, t.group? st.gid with
  | some g, some h =>
    match newTrap g h with
    | some c => if c.cause = .fpEnabled then stuffEnd (untrap s t st.gid) st b.woff (some .fpEnabled) else stuffEnd s st b.woff (some c.cause)
    | none =>
      if t.tried.contains 0 then stuffEnd s st b.woff (some (if stuffEmpty s b g i then .emptyRead else .illegalContext))
      else if (t.batch? 0).any fun b => b.wait.isSome then stuffEnd s st b.woff (some .illegalContext)
      else
        let r := sweep t st.gid fun fl => decide (fl.seq ≥ s.nextId)
        let t := settleStreams r.1 st.gid
        let mine := ((t.group? st.gid).getD default).flights.filter fun fl => decide (fl.seq ≥ s.nextId)
        match minBy (fun (x : Nat × Cause × Nat) => x.1) (mine.flatMap Flight.held) with
        | some x => stuffEnd { s with faults := t.faults, trigs := t.trigs } st b.woff (some x.2.1)
        | none =>
          if !mine.isEmpty then stuffEnd s st b.woff (some .illegalContext)
          else if !r.2.isEmpty then stuffEnd t st b.woff (some .fpEnabled)
          else
            let t := (performContext t h.ctx).modGroup st.gid fun g =>
              let g := settleK g 0
              { g with fibres := g.fibres.map fun (x : Fibre) => if x.live then settleKeep x else x }
            match t.batch? 0 with
            | none => stuffEnd t st b.woff none
            | some b => if b.woff ≥ st.count then stuffEnd t st b.woff none else { t with issue := some (.stuff st.gid) }
  | _, _ => stuffEnd s st b.woff (some .illegalContext)

/-! ### DBG_STEP (R477) -/

/-- A group leaves the batches that it shares with other groups for batches of its own. -/
def splitGroup (s : State) (gid : Nat) : State :=
  (s.batches.filter fun b => b.members.length > 1 && b.members.any fun m => m.gid == gid).foldl (fun s b =>
    let (id, s) := s.fresh
    let mine := b.members.filter fun m => m.gid == gid
    let s := s.modBatch b.id fun b => { b with members := b.members.filter fun m => m.gid != gid }
    let s : State := { s with batches := s.batches ++ [{ b with id := id, members := mine }] }
    s.modGroup gid fun g =>
      { g with
        kpend := g.kpend.map fun p => if p.batch = b.id then { p with batch := id } else p
        flights := g.flights.map fun fl => if fl.batch = b.id then { fl with batch := id } else fl }) s

/-- The step begins: what stood before it is marked. -/
def stepBegin (s : State) (ctx gid : Nat) : State :=
  let s := splitGroup s gid
  let puts := (s.queues.filter fun q => q.ctx == ctx).flatMap fun q => q.puts.map fun p => (q.header, p.1)
  let msqs := (s.blocks.filter fun b => b.ctx == ctx && b.engine.any fun e => e.state == 1).map Block.bid
  { s with stepping := some ⟨ctx, gid, s.nextId, puts, msqs, 0, 0, [], none⟩ }

/-- Nothing of a stepped group can go on in this clock: its batches have been tried or may not issue, no entry can form a batch, and the
words it issued have performed or are parked. -/
def stepStill (s : State) (st : StepSt) : Bool :=
  match s.group? st.gid with
  | none => true
  | some g =>
    (s.batches.filter fun b => b.members.any fun m => m.gid == st.gid).all (fun b =>
        !batchMay s b && !b.atPassEnd && decide (b.sleepUntil ≤ s.clock) && fetchable s b)
      && (groupUnits s g).isEmpty
      && g.flights.all fun fl => decide (fl.seq < st.first) || fl.pending &&& ~~~(maskOf (fl.held.map Prod.fst)) == 0 || !fl.isMem

/-- The step ends: what it performed stands everywhere, and its engine operations stop at their units. -/
def stepEnd (s : State) (st : StepSt) : State := cmdEnd { performContext s st.ctx with stepping := none } 0

/-- DBG_STEP: it begins; and once everything has stood still from one clock to the next, it ends. -/
def dbgStep (s : State) : State :=
  match cmdNow s 0x17 with
  | none => s
  | some k =>
    match s.stepping with
    | some st =>
      if !stepStill s st || issueOf s st.ctx then
        (if st.calm.isSome then { s with stepping := some { st with calm := none } } else s)
      else
        match st.calm with
        | none => { s with stepping := some { st with calm := some s.clock } }
        | some c => if c < s.clock then stepEnd s st else s
    | none =>
      match s.context? k.a0.toNat with
      | none => cmdEnd s 3
      | some c =>
        if s.jobState c.jobKey ≠ .frozen then cmdEnd s 3
        else
          match debugGroup s c.ctx k.a1.toNat k.a2.toNat with
          | none => cmdEnd s 2
          | some g => if (s.group? g.gid).isNone then cmdEnd s 3 else stepBegin s c.ctx g.gid

def execDbgStep (s : State) : Outcome State Fault Refusal := .next (dbgStep s)

end Sys2Proof.Machine
end

