-- ==== Sys2Proof/Machine/Interval.lean ====
section
/-! DEFINITION. The interval instructions, opcodes 0x6C to 0x79 (R256 to R261), and the dual word (R58 to R62). -/

namespace Sys2Proof.Machine

open Host (Outcome)

/-- An interval result from one and from two interval operands. -/
def ivOut1 (fn : Iv → Iv) (x : LaneIn) : LaneOut := outW (ivWrite (fn (ivRead x.a)))
def ivOut2 (fn : Iv → Iv → Iv) (x : LaneIn) : LaneOut := outW (ivWrite (fn (ivRead x.a) (ivRead x.b)))

def resIvadd : LaneIn → LaneOut := ivOut2 ivAdd
def resIvsub : LaneIn → LaneOut := ivOut2 ivSub
def resIvmul : LaneIn → LaneOut := ivOut2 ivMul
def resIvdiv : LaneIn → LaneOut := ivOut2 ivDiv
def resIvsqr : LaneIn → LaneOut := ivOut1 ivSqr
def resIvsqrt : LaneIn → LaneOut := ivOut1 ivSqrt
def resIvmin : LaneIn → LaneOut := ivOut2 ivMin
def resIvmax : LaneIn → LaneOut := ivOut2 ivMax
def resIvabs : LaneIn → LaneOut := ivOut1 ivAbs
def resIvhull : LaneIn → LaneOut := ivOut2 ivHull
def resIvmake (x : LaneIn) : LaneOut := outW (ivWrite (ivMake (elem 32 0 x.a) (elem 32 0 x.b)))
def resIvsplit (x : LaneIn) : LaneOut :=
  let r := ivSplit (ivRead x.a)
  ⟨[ivWrite r.1, ivWrite r.2], none, 0⟩
def resIvtest (f : Fields) (x : LaneIn) : LaneOut := outP (ivTest (f.sb.toNat % 8) (ivRead x.a))
def resIvmid (x : LaneIn) : LaneOut := outW (w64 (ivMid (ivRead x.a)))

def execIvadd (f : Fields) (s : State) : Outcome State Fault Refusal := .next (fixedWord (.ivadd f) resIvadd s)
def execIvsub (f : Fields) (s : State) : Outcome State Fault Refusal := .next (fixedWord (.ivsub f) resIvsub s)
def execIvmul (f : Fields) (s : State) : Outcome State Fault Refusal := .next (fixedWord (.ivmul f) resIvmul s)
def execIvdiv (f : Fields) (s : State) : Outcome State Fault Refusal := .next (lateWord (.ivdiv f) resIvdiv s)
def execIvsqr (f : Fields) (s : State) : Outcome State Fault Refusal := .next (fixedWord (.ivsqr f) resIvsqr s)
def execIvsqrt (f : Fields) (s : State) : Outcome State Fault Refusal := .next (lateWord (.ivsqrt f) resIvsqrt s)
def execIvmin (f : Fields) (s : State) : Outcome State Fault Refusal := .next (fixedWord (.ivmin f) resIvmin s)
def execIvmax (f : Fields) (s : State) : Outcome State Fault Refusal := .next (fixedWord (.ivmax f) resIvmax s)
def execIvabs (f : Fields) (s : State) : Outcome State Fault Refusal := .next (fixedWord (.ivabs f) resIvabs s)
def execIvhull (f : Fields) (s : State) : Outcome State Fault Refusal := .next (fixedWord (.ivhull f) resIvhull s)
def execIvmake (f : Fields) (s : State) : Outcome State Fault Refusal := .next (fixedWord (.ivmake f) resIvmake s)
def execIvsplit (f : Fields) (s : State) : Outcome State Fault Refusal := .next (fixedWord (.ivsplit f) resIvsplit s)
def execIvtest (f : Fields) (s : State) : Outcome State Fault Refusal := .next (fixedWord (.ivtest f) (resIvtest f) s)
def execIvmid (f : Fields) (s : State) : Outcome State Fault Refusal := .next (fixedWord (.ivmid f) resIvmid s)

/-! ### The dual word (R58 to R62) -/

/-- The result of one half: that of the full-form word it stands for (R60, R62). -/
def resHalf (i : Instr) : LaneIn → LaneOut :=
  match i with
  | .iadd f => resIadd f | .isub f => resIsub f | .imul f => resImul f | .imin f => resImin f | .imax f => resImax f
  | .iabs f => resIabs f | .and f => resAnd f | .or f => resOr f | .xor f => resXor f | .andn f => resAndn f
  | .shl f => resShl f | .shr f => resShr f | .sar f => resSar f | .rot f => resRot f | .mov f => resMov f
  | .popc f => resPopc f | .clz f => resClz f | .ctz f => resCtz f | .brev f => resBrev f
  | .fadd f => resFadd f | .fsub f => resFsub f | .fmul f => resFmul f | .fmin f => resFmin f | .fmax f => resFmax f
  | .fminn f => resFminn f | .fmaxn f => resFmaxn f | .fneg f => resFneg f | .fabs f => resFabs f | .cvt f => resCvt f
  | .ivadd _ => resIvadd | .ivsub _ => resIvsub | .ivmul _ => resIvmul | .ivmin _ => resIvmin | .ivmax _ => resIvmax
  | .ivhull _ => resIvhull | .ivabs _ => resIvabs | .ivsqr _ => resIvsqr
  | _ => fun x => outW x.a

/-- Two traps of one word: the flags and lanes of both (R34). -/
def joinTrap (a b : Option TrapInfo) : Option TrapInfo :=
  match a, b with
  | some a, some b => some { a with lanes := a.lanes ||| b.lanes, detail := Nat.lor a.detail b.detail }
  | some a, none => some a
  | none, b => b

/-- Both halves read the registers as they stand at the word; half A issues first (R21, R60). -/
def dualBody (parts : List Instr) : BodyFn := fun s b g p =>
  parts.foldl (fun r i =>
    let x := fixedBody i (resHalf i) r.1 b ((r.1.group? g.gid).getD g) p
    (x.1, joinTrap r.2 x.2)) (s, none)

def execDualWord (safe : Bool) (a b : Half) (s : State) : Outcome State Fault Refusal :=
  .next (plainWord (.dualWord safe a b) (dualBody (partsOf (.dualWord safe a b))) s)

end Sys2Proof.Machine
end

