-- ==== Sys2Proof/Machine/MatrixWords.lean ====
section
/-! DEFINITION. The vector words of the matrix engine: MBARA, MBARW, MMOVE and MSTART (R275, R277, R290 to R296). -/

namespace Sys2Proof.Machine

open Host (Outcome)

/-- The engine of a group's block. -/
def engineOf (s : State) (g : Group) : Option Engine := s.engine? g.bid

/-- What stops a word before its own checks: a block without the engine, a faulted MSQ (R272, R291). -/
def engineBar (i : Instr) (carried : Bool) (own : State → Batch → Group → Mask → Engine → Option (Cause × Mask × Nat × Nat)) : BarFn :=
  fun s b g present =>
    let lanes := if isUniform i then present else g.actors present (fieldsOfInstr i)
    if lanes = 0 then none
    else
      match engineOf s g with
      | none => some (.accessFault, lanes, 0, 0)
      | some e =>
        if carried && e.state == 3 then some ((Cause.ofCode e.cause).getD .illegalField, lanes, msqDetail e.sidx e.woff, 0)
        else own s b g lanes e

/-- The engine stands in the way of no wait: the block has none, or its MSQ has faulted, so the word traps. -/
def engineDown (s : State) (g : Group) : Bool := match engineOf s g with | none => true | some e => e.state == 3

/-! ### MBARA and MBARW -/

/-- The barrier a word names. -/
def mbarAt (i : Instr) (s : State) (g : Group) : MBar :=
  match engineOf s g with | some e => nth e.mbars (barIdx i) | none => MBar.reset

/-- MBARA waits while its group has arrived in this phase, or the phase has all its arrivals (R275). -/
def mbaraReady (i : Instr) : ReadyFn := fun s b g present =>
  engineDown s g || (g.actors present (fieldsOfInstr i) == 0)
    || ((arriveOf g.mbars (barIdx i)).phase != some (mbarAt i s g).phase && !mbarMet s g.bid (mbarAt i s g)
        && releaseReady i s b g present)

def mbaraBody (i : Instr) (s : State) (b : Batch) (g : Group) (present : Mask) : State × Option TrapInfo :=
  let lanes := g.actors present (fieldsOfInstr i)
  if lanes = 0 then (s, none)
  else if mbarMet s g.bid (mbarAt i s g) then (leaveBatch s b g.gid, none)
  else
    let a := arriveOf g.mbars (barIdx i)
    let s := (lanesOf lanes).foldl (fun s l => releaseAt s g.core g.ctx g.gid l .block) s
    let s := s.modGroup g.gid fun g =>
      { g with mbars := putArrive g.mbars { a with lanes := a.lanes ||| lanes }
               kpend := g.kpend.map fun (k : KPend) => { k with pub := true } }
    (settleMbars s g.bid, none)

def execMbara (f : Fields) (s : State) : Outcome State Fault Refusal :=
  .next (runWord (.mbara f) (mbaraReady (.mbara f)) (engineBar (.mbara f) true fun _ _ _ _ _ => none) (mbaraBody (.mbara f)) s)

/-- The turn a group's MBARW waits out: that of its latest arrival while no MBARW has observed it, else the current one (R277). -/
def mbarwPhase (a : Arrive) (cur : Nat) : Nat :=
  match a.phase with
  | none => cur
  | some p => if (match a.observed with | some q => decide (q ≥ p) | none => false) then cur else p

/-- The batch's wait at a matrix barrier, if it stands in one. -/
def Batch.mbarWait (b : Batch) : Option (List (Nat × Nat)) :=
  match b.wait with
  | some (.mbar _ ps) => some ps
  | _ => none

/-- The phase a waiting batch waits out for a group. -/
def phaseFor (ps : List (Nat × Nat)) (a : Arrive) (cur gid : Nat) : Nat :=
  match ps.find? fun p => p.1 == gid with
  | some p => p.2
  | none => mbarwPhase a cur

/-- MBARW ends once the phase it waits out has turned; a partial arrival of the group changes nothing (R277). -/
def mbarwReady (i : Instr) : ReadyFn := fun s b g present =>
  let a := arriveOf g.mbars (barIdx i)
  let cur := (mbarAt i s g).phase
  engineDown s g || (g.actors present (fieldsOfInstr i) == 0) ||
    match b.mbarWait with
    | none => true
    | some ps => decide (cur > phaseFor ps a cur g.gid)

/-- The end of the wait: an acquire at block scope, and the turn is observed. Before it, nothing. -/
def mbarwBody (i : Instr) (s : State) (b : Batch) (g : Group) (present : Mask) : State × Option TrapInfo :=
  let lanes := g.actors present (fieldsOfInstr i)
  match b.mbarWait with
  | none => (s, none)
  | some ps =>
    if lanes = 0 then (s, none)
    else
      let a := arriveOf g.mbars (barIdx i)
      let p := phaseFor ps a (mbarAt i s g).phase g.gid
      let s := (lanesOf lanes).foldl (fun s l => acquireAt s g.core g.ctx g.gid l .block) s
      (s.modGroup g.gid fun g => { g with mbars := putArrive g.mbars { a with observed := some p } }, none)

/-- The phases the groups of a batch wait out, latched when the word is entered. -/
def mbarwPhases (i : Instr) (s : State) (b : Batch) : List (Nat × Nat) :=
  b.members.filterMap fun m =>
    (s.group? m.gid).map fun g => (g.gid, mbarwPhase (arriveOf g.mbars (barIdx i)) (mbarAt i s g).phase)

def mbarwFin (i : Instr) (b0 : Option Batch) (s : State) (id : Nat) : State :=
  match b0.bind Batch.mbarWait with
  | some _ => advanceBatch s id i
  | none => s.modBatch id fun b => { b with wait := some (.mbar (barIdx i) (mbarwPhases i s b)), waitSince := s.clock }

def execMbarw (f : Fields) (s : State) : Outcome State Fault Refusal :=
  .next (runWordThen (.mbarw f) (mbarwReady (.mbarw f)) (engineBar (.mbarw f) true fun _ _ _ _ _ => none) (mbarwBody (.mbarw f))
    (mbarwFin (.mbarw f) (issuerBatch s)) s)

/-! ### MMOVE (R293, R294, R296) -/

/-- The register count a word's SC gives, the zero code meaning 1. -/
def mmoveCount (i : Instr) (s : State) (b : Batch) (g : Group) (l : Nat) : Nat :=
  if (fieldsOfInstr i).sc = 0x0CA then 1 else (srcC s (srcCtx s b g) g l i).toNat

/-- The lanes of an MMOVE: guard-true lanes that are no helpers, or one for a uniform word. -/
def mmoveLanes (i : Instr) (g : Group) (present : Mask) : Mask :=
  if isUniform i then partLanes g present i else g.actors present (fieldsOfInstr i)

/-- The destination registers beyond the first lie in the file: the window, or k63. -/
def mmoveFits (i : Instr) (g : Group) (n : Nat) : Bool :=
  let d := (fieldsOfInstr i).dst.toNat
  if isK d then decide (d - 0x80 + n ≤ 64) else decide (d < 0x80) && (List.range n).all fun j => decide (d + j < 0x80) && (vIndex g (d + j)).isSome

/-- MMOVE waits for its destinations as any word does (R27). -/
def mmoveReady (i : Instr) : ReadyFn := fun s b g present =>
  let lanes := mmoveLanes i g present
  match lowestLane lanes with
  | none => true
  | some l0 =>
    let n := mmoveCount i s b g l0
    n > 4 || !mmoveFits i g n
      || (lanesOf lanes).all fun l => (List.range n).all fun j => !emptyAt g l ((fieldsOfInstr i).dst.toNat + j)

def mmoveBar (i : Instr) : BarFn := engineBar i true fun s b g acting e =>
  let lanes := mmoveLanes i g acting
  let c := srcCtx s b g
  match lowestLane lanes with
  | none => none
  | some l0 =>
    let n := mmoveCount i s b g l0
    if !(n == 1 || n == 2 || n == 4) || decide ((srcB s c g l0 i).toNat > 15) || !mmoveFits i g n then some (.illegalOperand, lanes, 0, 0)
    else
      let ent (l : Nat) : Nat := field (srcA s c g l i) 0 16
      let odd := lanesWith lanes fun l => ent l % 2 == 1
      match lowestLane odd with
      | some l => some (.align, odd, 0, ent l)
      | none =>
        let out := lanesWith lanes fun l => decide (ent l + 2 * n > e.accn)
        match lowestLane out with
        | some l => some (.accessFault, out, 0, ent l)
        | none => none

/-- The place in issue order before which an MMOVE's group joins the matrix words: that of the MARRIVE whose turn it has observed. -/
def joinBound (s : State) (g : Group) (n : Nat) : Nat :=
  match (arriveOf g.mbars n).observed, engineOf s g with
  | some p, some e => (match (nth e.mbars n).bounds.find? fun x => x.1 == p with | some x => x.2 | none => 0)
  | _, _ => 0

/-- The destinations beyond the first turn empty too. -/
def emptyMore (i : Instr) (n : Nat) (g : Group) (lanes : Mask) : Group :=
  let d := (fieldsOfInstr i).dst.toNat
  (List.range n).foldl (fun g j =>
    if isK d then { g with k := g.k.set (d - 0x80 + j) { nth g.k (d - 0x80 + j) with full := false } }
    else (lanesOf lanes).foldl (fun g l => g.modFibre l fun x =>
      match vIndex g (d + j) with | some v => markEmpty x v | none => x) g) g

def mmoveBody (i : Instr) (s : State) (b : Batch) (g : Group) (present : Mask) : State × Option TrapInfo :=
  let lanes := mmoveLanes i g present
  match lowestLane lanes with
  | none => (s, none)
  | some l0 =>
    let c := srcCtx s b g
    let n := mmoveCount i s b g l0
    let bound := joinBound s g (srcB s c g l0 i).toNat
    let ops := (lanesOf lanes).map fun l =>
      (⟨l, srcA s c g l i, srcB s c g l i, [srcC s c g l i, w64 bound], field (srcA s c g l i) 0 16, n⟩ : LaneOp)
    let s := (launchFlight i .mmove ops s b g).1
    (s.modGroup g.gid fun g => emptyMore i n g lanes, none)

def execMmove (f : Fields) (s : State) : Outcome State Fault Refusal :=
  .next (runWord (.mmove f) (mmoveReady (.mmove f)) (mmoveBar (.mmove f)) (mmoveBody (.mmove f)) s)

/-! ### MSTART (R295) -/

/-- The issue lane of the lowest acting lane of a group whose block has the engine (R72). -/
def mstartFirst (i : Instr) (s : State) (m : Member) : Option Nat :=
  match s.group? m.gid with
  | some x => if (engineOf s x).isNone then none else (lowestLane (x.actors (m.present false) (fieldsOfInstr i))).map (4 * x.slot + ·)
  | none => none

/-- The lane whose operands an MSTART takes: the acting one of lowest issue lane in the batch (R72). -/
def mstartLane (i : Instr) (s : State) (b : Batch) (g : Group) (present : Mask) : Option Nat :=
  match lowestLane (g.actors present (fieldsOfInstr i)) with
  | none => none
  | some l => if (b.members.filterMap (mstartFirst i s)).all fun n => decide (4 * g.slot + l ≤ n) then some l else none

/-- MSTART waits while the stream before it runs. -/
def mstartReady (i : Instr) : ReadyFn := fun s b g present =>
  (mstartLane i s b g present).isNone || (match engineOf s g with | some e => e.state != 1 | none => true)

/-- Streams of the launch's code object. -/
def streamCount (s : State) (g : Group) : Nat :=
  match s.launch? g.lid with
  | some l => (match s.object? g.ctx l.code with | some o => o.streams.length | none => 0)
  | none => 0

def mstartBar (i : Instr) : BarFn := engineBar i false fun s b g lanes _ =>
  match mstartLane i s b g lanes with
  | some l => if field (srcA s (srcCtx s b g) g l i) 0 32 ≥ streamCount s g then some (.illegalOperand, laneBit l, 0, 0) else none
  | none => none

def mstartBody (i : Instr) (s : State) (b : Batch) (g : Group) (present : Mask) : State × Option TrapInfo :=
  match mstartLane i s b g present with
  | none => (s, none)
  | some l =>
    let c := srcCtx s b g
    let arg := srcB s c g l i
    (s.modEngine g.bid fun e =>
      { e with state := 1, cause := 0, sidx := field (srcA s c g l i) 0 32, woff := 0, loops := []
               x := [0, field arg 0 32, field arg 32 32, 0, 0, 0, 0, 0] }, none)

def execMstart (f : Fields) (s : State) : Outcome State Fault Refusal :=
  .next (runWord (.mstart f) (mstartReady (.mstart f)) (mstartBar (.mstart f)) (mstartBody (.mstart f)) s)

end Sys2Proof.Machine
end

