-- ==== Sys2Proof/Machine/Dispatch.lean ====
section
/-! DEFINITION. What every row of the opcode table does: one arm per constructor of Instr, each one call of that row's meaning. -/

namespace Sys2Proof.Machine

def exec (i : Instr) (s : State) : Host.Outcome State Fault Refusal :=
  match i with
  | .nop f => Sys2Proof.Machine.execNop f s
  | .next f => Sys2Proof.Machine.execNext f s
  | .nextp f => Sys2Proof.Machine.execNextp f s
  | .nextx f => Sys2Proof.Machine.execNextx f s
  | .call f => Sys2Proof.Machine.execCall f s
  | .ret f => Sys2Proof.Machine.execRet f s
  | .fork f => Sys2Proof.Machine.execFork f s
  | .quit f => Sys2Proof.Machine.execQuit f s
  | .loop f => Sys2Proof.Machine.execLoop f s
  | .loopPassEnd batch => Sys2Proof.Machine.execLoopPassEnd batch s
  | .rep f => Sys2Proof.Machine.execRep f s
  | .bar f => Sys2Proof.Machine.execBar f s
  | .bara f => Sys2Proof.Machine.execBara f s
  | .barw f => Sys2Proof.Machine.execBarw f s
  | .elect f => Sys2Proof.Machine.execElect f s
  | .vote f => Sys2Proof.Machine.execVote f s
  | .plop f => Sys2Proof.Machine.execPlop f s
  | .pmov f => Sys2Proof.Machine.execPmov f s
  | .yield f => Sys2Proof.Machine.execYield f s
  | .sleep f => Sys2Proof.Machine.execSleep f s
  | .sleepEnd batch => Sys2Proof.Machine.execSleepEnd batch s
  | .live f => Sys2Proof.Machine.execLive f s
  | .batchForm core sched => Sys2Proof.Machine.execBatchForm core sched s
  | .batchIssue core sched => Sys2Proof.Machine.execBatchIssue core sched s
  | .starvedEntryIssue core sched => Sys2Proof.Machine.execStarvedEntryIssue core sched s
  | .variableLatencyResult gid seq lanes => Sys2Proof.Machine.execVariableLatencyResult gid seq lanes s
  | .iadd f => Sys2Proof.Machine.execIadd f s
  | .isub f => Sys2Proof.Machine.execIsub f s
  | .iaddc f => Sys2Proof.Machine.execIaddc f s
  | .imul f => Sys2Proof.Machine.execImul f s
  | .imulh f => Sys2Proof.Machine.execImulh f s
  | .imad f => Sys2Proof.Machine.execImad f s
  | .imadw f => Sys2Proof.Machine.execImadw f s
  | .iabs f => Sys2Proof.Machine.execIabs f s
  | .imin f => Sys2Proof.Machine.execImin f s
  | .imax f => Sys2Proof.Machine.execImax f s
  | .idiv f => Sys2Proof.Machine.execIdiv f s
  | .irem f => Sys2Proof.Machine.execIrem f s
  | .icmp f => Sys2Proof.Machine.execIcmp f s
  | .sel f => Sys2Proof.Machine.execSel f s
  | .and f => Sys2Proof.Machine.execAnd f s
  | .or f => Sys2Proof.Machine.execOr f s
  | .xor f => Sys2Proof.Machine.execXor f s
  | .andn f => Sys2Proof.Machine.execAndn f s
  | .tern f => Sys2Proof.Machine.execTern f s
  | .shl f => Sys2Proof.Machine.execShl f s
  | .shr f => Sys2Proof.Machine.execShr f s
  | .sar f => Sys2Proof.Machine.execSar f s
  | .rot f => Sys2Proof.Machine.execRot f s
  | .funnel f => Sys2Proof.Machine.execFunnel f s
  | .bfe f => Sys2Proof.Machine.execBfe f s
  | .bfi f => Sys2Proof.Machine.execBfi f s
  | .brev f => Sys2Proof.Machine.execBrev f s
  | .popc f => Sys2Proof.Machine.execPopc f s
  | .clz f => Sys2Proof.Machine.execClz f s
  | .ctz f => Sys2Proof.Machine.execCtz f s
  | .bperm f => Sys2Proof.Machine.execBperm f s
  | .isad f => Sys2Proof.Machine.execIsad f s
  | .idot f => Sys2Proof.Machine.execIdot f s
  | .pack f => Sys2Proof.Machine.execPack f s
  | .unpack f => Sys2Proof.Machine.execUnpack f s
  | .mov f => Sys2Proof.Machine.execMov f s
  | .movi f => Sys2Proof.Machine.execMovi f s
  | .lea f => Sys2Proof.Machine.execLea f s
  | .hrand f => Sys2Proof.Machine.execHrand f s
  | .lxch f => Sys2Proof.Machine.execLxch f s
  | .lxor f => Sys2Proof.Machine.execLxor f s
  | .lbcast f => Sys2Proof.Machine.execLbcast f s
  | .qxch f => Sys2Proof.Machine.execQxch f s
  | .qddx f => Sys2Proof.Machine.execQddx f s
  | .qddy f => Sys2Proof.Machine.execQddy f s
  | .lreduce f => Sys2Proof.Machine.execLreduce f s
  | .lscan f => Sys2Proof.Machine.execLscan f s
  | .kget f => Sys2Proof.Machine.execKget f s
  | .helper f => Sys2Proof.Machine.execHelper f s
  | .subswz f => Sys2Proof.Machine.execSubswz f s
  | .fadd f => Sys2Proof.Machine.execFadd f s
  | .fsub f => Sys2Proof.Machine.execFsub f s
  | .fmul f => Sys2Proof.Machine.execFmul f s
  | .fma f => Sys2Proof.Machine.execFma f s
  | .fmin f => Sys2Proof.Machine.execFmin f s
  | .fmax f => Sys2Proof.Machine.execFmax f s
  | .fminn f => Sys2Proof.Machine.execFminn f s
  | .fmaxn f => Sys2Proof.Machine.execFmaxn f s
  | .fcmp f => Sys2Proof.Machine.execFcmp f s
  | .fclass f => Sys2Proof.Machine.execFclass f s
  | .fneg f => Sys2Proof.Machine.execFneg f s
  | .fabs f => Sys2Proof.Machine.execFabs f s
  | .frint f => Sys2Proof.Machine.execFrint f s
  | .ffract f => Sys2Proof.Machine.execFfract f s
  | .fldexp f => Sys2Proof.Machine.execFldexp f s
  | .ffrexp f => Sys2Proof.Machine.execFfrexp f s
  | .frcp f => Sys2Proof.Machine.execFrcp f s
  | .frsq f => Sys2Proof.Machine.execFrsq f s
  | .fsqrt f => Sys2Proof.Machine.execFsqrt f s
  | .fdiv f => Sys2Proof.Machine.execFdiv f s
  | .fexp2 f => Sys2Proof.Machine.execFexp2 f s
  | .flog2 f => Sys2Proof.Machine.execFlog2 f s
  | .fsin f => Sys2Proof.Machine.execFsin f s
  | .fcos f => Sys2Proof.Machine.execFcos f s
  | .cvt f => Sys2Proof.Machine.execCvt f s
  | .cvt8 f => Sys2Proof.Machine.execCvt8 f s
  | .fdot2 f => Sys2Proof.Machine.execFdot2 f s
  | .scacc f => Sys2Proof.Machine.execScacc f s
  | .ivadd f => Sys2Proof.Machine.execIvadd f s
  | .ivsub f => Sys2Proof.Machine.execIvsub f s
  | .ivmul f => Sys2Proof.Machine.execIvmul f s
  | .ivdiv f => Sys2Proof.Machine.execIvdiv f s
  | .ivsqr f => Sys2Proof.Machine.execIvsqr f s
  | .ivsqrt f => Sys2Proof.Machine.execIvsqrt f s
  | .ivmin f => Sys2Proof.Machine.execIvmin f s
  | .ivmax f => Sys2Proof.Machine.execIvmax f s
  | .ivabs f => Sys2Proof.Machine.execIvabs f s
  | .ivhull f => Sys2Proof.Machine.execIvhull f s
  | .ivmake f => Sys2Proof.Machine.execIvmake f s
  | .ivsplit f => Sys2Proof.Machine.execIvsplit f s
  | .ivtest f => Sys2Proof.Machine.execIvtest f s
  | .ivmid f => Sys2Proof.Machine.execIvmid f s
  | .dualWord safe a b => Sys2Proof.Machine.execDualWord safe a b s
  | .ld f => Sys2Proof.Machine.execLd f s
  | .st f => Sys2Proof.Machine.execSt f s
  | .lds f => Sys2Proof.Machine.execLds f s
  | .sts f => Sys2Proof.Machine.execSts f s
  | .ldp f => Sys2Proof.Machine.execLdp f s
  | .stp f => Sys2Proof.Machine.execStp f s
  | .ldrs f => Sys2Proof.Machine.execLdrs f s
  | .strs f => Sys2Proof.Machine.execStrs f s
  | .atom f => Sys2Proof.Machine.execAtom f s
  | .red f => Sys2Proof.Machine.execRed f s
  | .satom f => Sys2Proof.Machine.execSatom f s
  | .cas f => Sys2Proof.Machine.execCas f s
  | .fence f => Sys2Proof.Machine.execFence f s
  | .fencero f => Sys2Proof.Machine.execFencero f s
  | .pref f => Sys2Proof.Machine.execPref f s
  | .ipref f => Sys2Proof.Machine.execIpref f s
  | .fetch f => Sys2Proof.Machine.execFetch f s
  | .fetch3 f => Sys2Proof.Machine.execFetch3 f s
  | .sopen f => Sys2Proof.Machine.execSopen f s
  | .sadv f => Sys2Proof.Machine.execSadv f s
  | .stest f => Sys2Proof.Machine.execStest f s
  | .sclose f => Sys2Proof.Machine.execSclose f s
  | .sisect f => Sys2Proof.Machine.execSisect f s
  | .smerge f => Sys2Proof.Machine.execSmerge f s
  | .sget f => Sys2Proof.Machine.execSget f s
  | .streamSettle gid lane q => Sys2Proof.Machine.execStreamSettle gid lane q s
  | .icacheFill core => Sys2Proof.Machine.execIcacheFill core s
  | .privateLineWriteback gid line => Sys2Proof.Machine.execPrivateLineWriteback gid line s
  | .qput f => Sys2Proof.Machine.execQput f s
  | .qputSlotPublish gid seq => Sys2Proof.Machine.execQputSlotPublish gid seq s
  | .wpget f => Sys2Proof.Machine.execWpget f s
  | .tbinit f => Sys2Proof.Machine.execTbinit f s
  | .tbarr f => Sys2Proof.Machine.execTbarr f s
  | .tbwait f => Sys2Proof.Machine.execTbwait f s
  | .cpePacketAccept ctx header => Sys2Proof.Machine.execCpePacketAccept ctx header s
  | .channelPacketStart ctx cluster chan => Sys2Proof.Machine.execChannelPacketStart ctx cluster chan s
  | .copySectorDeliver ctx cluster chan => Sys2Proof.Machine.execCopySectorDeliver ctx cluster chan s
  | .copyComplete ctx cluster chan => Sys2Proof.Machine.execCopyComplete ctx cluster chan s
  | .mbara f => Sys2Proof.Machine.execMbara f s
  | .mbarw f => Sys2Proof.Machine.execMbarw f s
  | .mmove f => Sys2Proof.Machine.execMmove f s
  | .mstart f => Sys2Proof.Machine.execMstart f s
  | .mzero x => Sys2Proof.Machine.execMzero x s
  | .mbload x => Sys2Proof.Machine.execMbload x s
  | .mmul x => Sys2Proof.Machine.execMmul x s
  | .mstore x => Sys2Proof.Machine.execMstore x s
  | .mwait n => Sys2Proof.Machine.execMwait n s
  | .marrive n count => Sys2Proof.Machine.execMarrive n count s
  | .mloop x => Sys2Proof.Machine.execMloop x s
  | .mloopPassEnd bid => Sys2Proof.Machine.execMloopPassEnd bid s
  | .mend => Sys2Proof.Machine.execMend s
  | .matrixBarrierTurn bid n => Sys2Proof.Machine.execMatrixBarrierTurn bid n s
  | .march f => Sys2Proof.Machine.execMarch f s
  | .raySpanEval core slot => Sys2Proof.Machine.execRaySpanEval core slot s
  | .rayJobEnd core slot => Sys2Proof.Machine.execRayJobEnd core slot s
  | .opaqueReply core slot => Sys2Proof.Machine.execOpaqueReply core slot s
  | .prune f => Sys2Proof.Machine.execPrune f s
  | .rdraw f => Sys2Proof.Machine.execRdraw f s
  | .rasterTriangle cluster => Sys2Proof.Machine.execRasterTriangle cluster s
  | .fragmentRecordAppend cluster => Sys2Proof.Machine.execFragmentRecordAppend cluster s
  | .rrel f => Sys2Proof.Machine.execRrel f s
  | .enq f => Sys2Proof.Machine.execEnq f s
  | .enqWaitSuspend batch => Sys2Proof.Machine.execEnqWaitSuspend batch s
  | .deq f => Sys2Proof.Machine.execDeq f s
  | .evsig f => Sys2Proof.Machine.execEvsig f s
  | .evwait f => Sys2Proof.Machine.execEvwait f s
  | .evwaitSuspend batch => Sys2Proof.Machine.execEvwaitSuspend batch s
  | .eventWaiterRelease batch => Sys2Proof.Machine.execEventWaiterRelease batch s
  | .suspend f => Sys2Proof.Machine.execSuspend f s
  | .spawn f => Sys2Proof.Machine.execSpawn f s
  | .dcdec f => Sys2Proof.Machine.execDcdec f s
  | .continuationResume ctx record => Sys2Proof.Machine.execContinuationResume ctx record s
  | .trap f => Sys2Proof.Machine.execTrap f s
  | .rft f => Sys2Proof.Machine.execRft f s
  | .sread f => Sys2Proof.Machine.execSread f s
  | .swrite f => Sys2Proof.Machine.execSwrite f s
  | .publish f => Sys2Proof.Machine.execPublish f s
  | .pmcapStart f => Sys2Proof.Machine.execPmcapStart f s
  | .pmcapStop f => Sys2Proof.Machine.execPmcapStop f s
  | .brk f => Sys2Proof.Machine.execBrk f s
  | .time f => Sys2Proof.Machine.execTime f s
  | .erd f => Sys2Proof.Machine.execErd f s
  | .dbgmb f => Sys2Proof.Machine.execDbgmb f s
  | .launchAccept ctx header => Sys2Proof.Machine.execLaunchAccept ctx header s
  | .blockAdmit => Sys2Proof.Machine.execBlockAdmit s
  | .carveOutChange core => Sys2Proof.Machine.execCarveOutChange core s
  | .launchComplete lid => Sys2Proof.Machine.execLaunchComplete lid s
  | .balancingRoundEnd => Sys2Proof.Machine.execBalancingRoundEnd s
  | .stageEnd pipe stage => Sys2Proof.Machine.execStageEnd pipe stage s
  | .pageWalk ctx va access => Sys2Proof.Machine.execPageWalk ctx va access s
  | .faultRecordFlush => Sys2Proof.Machine.execFaultRecordFlush s
  | .trapTake gid => Sys2Proof.Machine.execTrapTake gid s
  | .hostBar2Write pa bytes => Sys2Proof.Machine.execHostBar2Write pa bytes s
  | .hostBar2Read pa n => Sys2Proof.Machine.execHostBar2Read pa n s
  | .hostAtomicop op pa size a b => Sys2Proof.Machine.execHostAtomicop op pa size a b s
  | .peerRequest r => Sys2Proof.Machine.execPeerRequest r s
  | .hstatRead => Sys2Proof.Machine.execHstatRead s
  | .hostRegisterWrite off value => Sys2Proof.Machine.execHostRegisterWrite off value s
  | .commandDone => Sys2Proof.Machine.execCommandDone s
  | .ctxCreate => Sys2Proof.Machine.execCtxCreate s
  | .ctxDestroy => Sys2Proof.Machine.execCtxDestroy s
  | .queueReg => Sys2Proof.Machine.execQueueReg s
  | .queueBind => Sys2Proof.Machine.execQueueBind s
  | .queueUnreg => Sys2Proof.Machine.execQueueUnreg s
  | .tlbInval => Sys2Proof.Machine.execTlbInval s
  | .faultResume => Sys2Proof.Machine.execFaultResume s
  | .faultFail => Sys2Proof.Machine.execFaultFail s
  | .sealFrames => Sys2Proof.Machine.execSealFrames s
  | .unsealFrames => Sys2Proof.Machine.execUnsealFrames s
  | .setBudget => Sys2Proof.Machine.execSetBudget s
  | .ctxStop => Sys2Proof.Machine.execCtxStop s
  | .ctxStart => Sys2Proof.Machine.execCtxStart s
  | .ctxSetreg => Sys2Proof.Machine.execCtxSetreg s
  | .engineStopAck ctx e => Sys2Proof.Machine.execEngineStopAck ctx e s
  | .groupStopTimeout gid => Sys2Proof.Machine.execGroupStopTimeout gid s
  | .contextStopped ctx => Sys2Proof.Machine.execContextStopped ctx s
  | .perstDeassert image trained => Sys2Proof.Machine.execPerstDeassert image trained s
  | .thermalHigh => Sys2Proof.Machine.execThermalHigh s
  | .thermalRecover => Sys2Proof.Machine.execThermalRecover s
  | .thermalTrip => Sys2Proof.Machine.execThermalTrip s
  | .eccCorrected code => Sys2Proof.Machine.execEccCorrected code s
  | .eccUncorrectable code ctx place => Sys2Proof.Machine.execEccUncorrectable code ctx place s
  | .linkDown port => Sys2Proof.Machine.execLinkDown port s
  | .backgroundScrub => Sys2Proof.Machine.execBackgroundScrub s
  | .haltArm => Sys2Proof.Machine.execHaltArm s
  | .haltNow => Sys2Proof.Machine.execHaltNow s
  | .haltResume => Sys2Proof.Machine.execHaltResume s
  | .dbgStuff => Sys2Proof.Machine.execDbgStuff s
  | .dbgStep => Sys2Proof.Machine.execDbgStep s
  | .bpSet => Sys2Proof.Machine.execBpSet s
  | .wpSet => Sys2Proof.Machine.execWpSet s
  | .dbgRead => Sys2Proof.Machine.execDbgRead s
  | .dbgWrite => Sys2Proof.Machine.execDbgWrite s
  | .haltTrigger => Sys2Proof.Machine.execHaltTrigger s
  | .haltWaveReceive job t port => Sys2Proof.Machine.execHaltWaveReceive job t port s
  | .jobFrozen job => Sys2Proof.Machine.execJobFrozen job s
  | .resumeWaveReceive job release port => Sys2Proof.Machine.execResumeWaveReceive job release port s
  | .haltRelease job => Sys2Proof.Machine.execHaltRelease job s
  | .traceSync gid => Sys2Proof.Machine.execTraceSync gid s
  | .profTag core sched => Sys2Proof.Machine.execProfTag core sched s
  | .matrixOpComplete bid seq => Sys2Proof.Machine.execMatrixOpComplete bid seq s
  | .matrixStreamWordFetch bid => Sys2Proof.Machine.execMatrixStreamWordFetch bid s
  | .writePerformedAtScope core index => Sys2Proof.Machine.execWritePerformedAtScope core index s

end Sys2Proof.Machine
end

