-- ==== Sys2Proof/Machine/Mover.lean ====
section
/-! DEFINITION. What moves next when nothing stands at issue and nothing is asked for from outside: the first event that the chip is
ready for, in one fixed order (log entry 1), and the words that stand at issue. -/

namespace Sys2Proof.Machine

open Host (Outcome)

/-- A state without its energy accounts, performance counters and the order in which the LLC's lines were used. -/
def State.unbilled (s : State) : State :=
  { s with
    llc := []
    contexts := s.contexts.map fun c => { c with energy := 0, pmc := [] }
    blocks := s.blocks.map fun b => { b with charge := 0, chargeRound := 0 } }

/-- An event acts: it leaves another state, accounts apart, or stops. A look at what is not there yet is no act, though it is billed. -/
def acts (s : State) (e : Instr) : Bool :=
  match exec e s with
  | .next t => t.unbilled != s.unbilled
  | _ => true

/-! ### Candidates -/

/-- The command under way. -/
def commandEvent (code : Nat) : Option Instr :=
  match code with
  | 0x01 => some .ctxCreate | 0x02 => some .ctxDestroy | 0x03 => some .queueReg | 0x04 => some .queueBind | 0x05 => some .queueUnreg
  | 0x06 => some .tlbInval | 0x07 => some .faultResume | 0x08 => some .faultFail | 0x09 => some .sealFrames | 0x0A => some .unsealFrames
  | 0x0B => some .setBudget | 0x10 => some .ctxStop | 0x11 => some .ctxStart | 0x12 => some .ctxSetreg | 0x13 => some .haltArm
  | 0x14 => some .haltNow | 0x15 => some .haltResume | 0x16 => some .dbgStuff | 0x17 => some .dbgStep | 0x18 => some .bpSet
  | 0x19 => some .wpSet | 0x1A => some .dbgRead | 0x1B => some .dbgWrite
  | _ => none

def hostEvents (s : State) : List Instr :=
  match s.hostCmd with
  | none => []
  | some c => if c.result.isSome || s.stepping.isSome then [.commandDone] else (commandEvent c.code).toList ++ [.commandDone]

/-- The halt wave, stops and traps. -/
def controlEvents (s : State) : List Instr :=
  (if s.trigs.isEmpty then [] else [.haltTrigger])
    ++ s.jobs.flatMap (fun j => match j.state with
        | .freezing => [.jobFrozen j.job] | .releasing => [.haltRelease j.job] | _ => [])
    ++ (s.contexts.filter fun c => c.run == .stopping).flatMap (fun c =>
        (allEngines.filter fun e => !c.acks.contains e).map (Instr.engineStopAck c.ctx)
          ++ ((s.groups.filter fun g => g.ctx == c.ctx).map fun g => .groupStopTimeout g.gid)
          ++ [.contextStopped c.ctx])
    ++ ((s.groups.filter fun g => g.stop == .trapping || g.rft != 0).map fun g => .trapTake g.gid)
    ++ (if s.faults.any fun r => r.slot.isNone then [.faultRecordFlush] else [])

/-- Passes that end and records that are due. -/
def passEvents (s : State) : List Instr :=
  ((s.groups.filter fun g => g.syncDue.isSome).map fun g => .traceSync g.gid)
    ++ ((s.batches.filter Batch.atPassEnd).map fun b => .loopPassEnd b.id)
    ++ ((s.blocks.filter fun b => b.engine.any Engine.atPassEnd).map fun b => .mloopPassEnd b.bid)
    ++ (s.prof.map fun p => .profTag (p.sched / 4) (p.sched % 4))

/-- Results and streams of groups. -/
def groupEvents (g : Group) : List Instr :=
  (g.flights.map fun fl =>
      if fl.kind = .qput then .qputSlotPublish g.gid fl.seq else .variableLatencyResult g.gid fl.seq fl.pending)
    ++ (lanesOf g.liveMask).flatMap fun l => ((List.range 8).filter fun n => (nth (g.fibre l).q n).op.isSome).map (Instr.streamSettle g.gid l)

/-- Ray jobs, copies and raster batches. -/
def engineEvents (s : State) : List Instr :=
  s.cores.flatMap (fun c => c.rays.flatMap fun j =>
      [.raySpanEval c.core j.slot, .rayJobEnd c.core j.slot, .opaqueReply c.core j.slot])
    ++ ((s.queues.filter fun q => q.cls == 0).map fun q => .cpePacketAccept q.ctx q.header)
    ++ (s.channels.filter fun c => c.running.isSome || !c.waiting.isEmpty).flatMap (fun c =>
        [.channelPacketStart c.ctx c.cluster c.chan, .copySectorDeliver c.ctx c.cluster c.chan, .copyComplete c.ctx c.cluster c.chan])
    ++ ((s.rasters.map fun r => r.core / 8).eraseDups).flatMap fun clu => [.fragmentRecordAppend clu, .rasterTriangle clu]

/-- A block's matrix engine. -/
def matrixEvents (s : State) : List Instr :=
  s.blocks.flatMap fun b =>
    match b.engine with
    | none => []
    | some e =>
      (e.ops.map fun o => .matrixOpComplete b.bid o.seq)
        ++ ((List.range 16).filter fun n => (nth e.mbars n).sarr).map (Instr.matrixBarrierTurn b.bid)
        ++ (if e.state = 1 then [.matrixStreamWordFetch b.bid] else [])

/-- Waits of batches. -/
def waitEvents (s : State) : List Instr :=
  s.batches.flatMap fun b =>
    (match b.wait with
     | some .enq => [.enqWaitSuspend b.id]
     | some (.event false) => [.eventWaiterRelease b.id, .evwaitSuspend b.id]
     | _ => [])
      ++ (if b.sleepUntil ≠ 0 then [.sleepEnd b.id] else [])

/-- The schedulers that hold a group. -/
def schedulers (s : State) : List (Nat × Nat) := (s.groups.map fun g => (g.core, g.sched)).eraseDups

/-- Instruction lines, then the schedulers. -/
def issueEvents (s : State) : List Instr :=
  ((s.cores.filter fun c => !c.iwant.isEmpty || s.batches.any (fun b => b.core == c.core) || s.blocks.any fun b => b.core == c.core).map
      fun c => .icacheFill c.core)
    ++ (schedulers s).flatMap fun p => [.starvedEntryIssue p.1 p.2, .batchForm p.1 p.2, .batchIssue p.1 p.2]

/-- The task scheduler and the dispatcher. -/
def taskEvents (s : State) : List Instr :=
  ((s.queues.filter fun q => q.cls == 1).map fun q => .launchAccept q.ctx q.header)
    ++ (s.launches.map fun l => .launchComplete l.lid)
    ++ s.pipes.flatMap (fun p => (List.range p.stages.length).map (Instr.stageEnd p.pid))
    ++ (if s.launches.isEmpty && s.images.isEmpty then [] else
        [.blockAdmit] ++ (match decision s with
          | some (_, .cont r, core) => [.carveOutChange core] ++ ((s.conts.filter fun k => k.record == r).map fun k => .continuationResume k.ctx r)
          | some (_, _, core) => [.carveOutChange core]
          | none => []))
    ++ (if (s.clock - s.resetClock) / 65536 > s.rounds then [.balancingRoundEnd] else [])

/-- Writes on their way out of the cores. -/
def writeEvents (s : State) : List Instr := s.cores.flatMap fun c => c.pend.map fun w => .writePerformedAtScope c.core w.id

/-- The end of a step, once nothing else moves. -/
def stepEvents (s : State) : List Instr := if s.stepping.isSome then [.dbgStep] else []

/-- The first event that acts. -/
def nextEvent (s : State) : Option Instr :=
  (hostEvents s ++ controlEvents s ++ passEvents s).find? (acts s)
    |>.or ((s.groups.flatMap groupEvents ++ engineEvents s ++ matrixEvents s ++ waitEvents s).find? (acts s))
    |>.or ((issueEvents s ++ taskEvents s ++ writeEvents s ++ stepEvents s).find? (acts s))

/-! ### Words at issue -/

/-- Fetch and run the word of the batch in the issue slot; a word that fetch or decode refuses traps (R67, R118). -/
def stepBatch (s : State) : Outcome State Fault Refusal :=
  match issuerBatch s with
  | none => .next s.unissue
  | some b =>
    match fetchInstr s b with
    | (s, .ok i) => exec i s
    | (s, .error c) => .next (refusedWord s b c)

/-- Run the MSQ's word (R269). -/
def stepMsq (s : State) (bid : Nat) : Outcome State Fault Refusal :=
  match msqIssuer s with
  | none => .next s.unissue
  | some (blk, e) =>
    match msqFetch s blk e with
    | (s, .ok i) => exec i s
    | (s, .error c) => .next (msqFault (msqFileFetch s blk e c) bid c e.woff).unissue

/-- Run a stuffed word, and see what it did (R462). -/
def stepStuff (s : State) : Outcome State Fault Refusal :=
  match s.stuff, issuerBatch s with
  | some st, some b =>
    (match stuffWord s st b with
     | .error c => .next (stuffEnd s st b.woff (some c))
     | .ok i =>
       match exec i s with
       | .next t => .next (stuffAfter s t st b i)
       | o => o)
  | _, _ => .next s.unissue

def stepIssue (s : State) (i : Issuer) : Outcome State Fault Refusal :=
  match i with
  | .batch _ => stepBatch s
  | .msq bid => stepMsq s bid
  | .stuff _ => stepStuff s

end Sys2Proof.Machine
end

