-- ==== Sys2Proof/Machine/Step.lean ====
section
/-! DEFINITION. One step of the chip: the word in the issue slot, else the next event asked for from outside, else the first event
the chip itself is ready for, else the clock (log entry 1); and a word placed at issue. -/

namespace Sys2Proof.Machine

open Host (Outcome)

/-- One step. -/
def step (s0 : State) : Outcome State Fault Refusal :=
  let s := { s0 with free := s0.free + 1 }
  match s.issue with
  | some i => stepIssue s i
  | none =>
    match s.agenda with
    | e :: rest => exec e { s with agenda := rest }
    | [] =>
      match nextEvent s with
      | some e => exec e s
      | none => .next (tickClock s)

/-! ### A word placed at issue (log entry 56) -/

/-- The context number under which the word stands: one that no CTX_CREATE gives. -/
def placedCtx : Nat := 4096

/-- The last GiB of local GDDR, which the placed context maps at address 0, readable and executable. -/
def placedFrame : Nat := 191 * 2 ^ 30

/-- The launch of the placed block: one group of 8 fibres with a window of 128, the scratchpad at its largest. -/
def placedLaunch (lid : Nat) : Launch :=
  { lid := lid, ctx := placedCtx, queue := none, flags := 2, wg := 8, carve := 4, prio := 0, code := 2, entry := 0, gx := 1, gy := 1, gz := 1,
    gpb := 1, win := 128, stage := 0, priv := 0, scr := 458752, accn := 65536, mstr := 0xFFFFFFFF, args := 0, evt := 0, accepted := 0,
    next := 1, cores := [0], rho := 64, again := [], pipe := none, task := false, index := 0 }

/-- Its code object: one segment and one matrix stream, both of the two words. -/
def placedObj : CodeObj :=
  { ctx := placedCtx, slot := 2, count := 0, exec := 0x10000, objid := 1, code := 0, segs := [⟨0, 2, 0, 0, 0⟩], safes := [⟨0, 0, 0⟩],
    maps := [0], streams := [⟨0, 2⟩], entry := 0, preload := [], pipeline := none, loader := false, retired := false }

/-- The word's bytes, and the two page-table entries that lead to them. -/
def placedBytes (s : State) (bits : Nat) : State :=
  let s := s.writePa (placedFrame + 0x10000) (toBytes bits 16)
  let s := s.writePa (placedFrame + 0x200000) (toBytes ((placedFrame + 0x400000) + 1) 8)
  s.writePa (placedFrame + 0x400000) (toBytes (placedFrame + 0x57) 8)

/-- `s` with the word at the head of a program of its own and that program at issue: in the vector stream of a one-group block, or, for
a matrix word, in the stream of the block's MSQ. -/
def State.withFetchWord (s : State) (nbits w : Nat) : State :=
  let bits := w % 2 ^ nbits
  let matrix := isMatrixWord (w64 bits)
  let n := s.nextId
  let l := placedLaunch n
  let s := placedBytes s bits
  let c : Context := contextOf placedCtx (List.replicate 128 0)
  let b := blankBlock l (n + 1) 0 0
  let g := blankGroup l (n + 2) (n + 1) 0 0 0 ⟨0, 0, 0⟩
  let g : Group := { g with fibres := List.replicate 8 (startFibre 128 0), k := startK l placedObj, obj := 2 }
  { s with
    nextId := n + 4
    contexts := { c with root := placedFrame + 0x200000 } :: s.contexts
    objects := placedObj :: s.objects
    launches := l :: s.launches
    blocks := { b with engine := some (Engine.start l.accn (if matrix then 0 else l.mstr)) } :: s.blocks
    groups := g :: s.groups
    batches := ⟨n + 3, 0, 0, [⟨n + 2, 0xFF, []⟩], 2, 0, 0, none, s.clock, 0, s.clock, none, none, false, n⟩ :: s.batches
    issue := some (if matrix then .msq (n + 1) else .batch (n + 3)) }

end Sys2Proof.Machine
end

