-- ==== Sys2Proof/Safety.lean ====
section
/-! DEFINITION. What statements speak of: the states that every run stays in, a word at issue that nothing holds back, and the state
its effect starts from. -/

namespace Sys2Proof.Machine

/-! ### The invariant -/

/-- The byte memories stand in their canonical form, and the tables of fixed size have that size (R453, R460, R466, R467). -/
structure State.Good (s : State) : Prop where
  mem : Memory.wf s.mem = true
  hostMem : Memory.wf s.hostMem = true
  peerMem : Memory.wf s.peerMem = true
  bps : s.bps.length = 16
  wps : s.wps.length = 8

/-! ### A word at issue -/

/-- Word `i` stands in the issue slot in batch `b`, which is not already waiting in it; `g` is the group of the batch, `p` its present
lanes, and nothing makes the group wait or trap at the word. -/
structure Alone (i : Instr) (ready : ReadyFn) (bar : BarFn) (s : State) (b : Batch) (g : Group) (p : Mask) : Prop where
  slot : issuerBatch s = some b
  fresh : b.wait = none
  members : ∃ m, b.members = [m] ∧ m.gid = g.gid ∧ m.present (isEnd i) = p
  present : p ≠ 0
  group : (tickBatch s b).group? g.gid = some g
  decodes : satFails i = false
  may : fullVerdict i ready bar (tickBatch s b) b g p = .ok

/-- The state in which the word's own effect begins: the results due at it are visible (R83), its energy is charged (R347), it is
counted (R482), and with S = 1 its safe point is passed (R90). -/
def entered (i : Instr) (s : State) (b : Batch) (g : Group) (p : Mask) : State :=
  passSafe (chargeWord (countWord (tickBatch s b) b i [(g.gid, p, .ok)]) g p i) b g.gid p i

/-- A word that nothing holds back answers a next state: from the state `e` in which its effect begins and its group `g` as it then
stands, with the present lanes `p`, under `pre`, that state meets `post`. -/
def Completes (i : Instr) (ready : ReadyFn) (bar : BarFn) (pre : State → Batch → Group → Mask → Prop)
    (post : State → Batch → Group → Mask → State → Prop) : Prop :=
  ∀ s b g0 p g, Alone i ready bar s b g0 p → (entered i s b g0 p).group? g0.gid = some g → (∀ l ∈ lanesOf p, l < g.fibres.length) →
    pre (entered i s b g0 p) b g p →
    ∃ t, exec i s = .next t ∧ post (entered i s b g0 p) b g p t

/-- No precondition. -/
def always : State → Batch → Group → Mask → Prop := fun _ _ _ _ => True

/-- The register a destination code names in a fibre of a group; none for a code that names none there (R18 to R20, R438). -/
def dstAt (g : Group) (code : Nat) : Option PDst :=
  if code < 0x80 then (vIndex g code).map PDst.v else if isO code then some (.o (code - 0xC0)) else none

/-- Words whose fixed-latency result `o` a fibre holds on its way: each register and the predicate take their values `dist` words after the
one that issued under `seq`. -/
def Awaits (x : Fibre) (g : Group) (seq dist dst : Nat) (o : LaneOut) : Prop :=
  (∀ j < o.regs.length, ∀ d, dstAt g (dst + j) = some d → (⟨seq, d, nth o.regs j, dist⟩ : Pend) ∈ x.pend)
  ∧ (∀ q, o.pred = some q → dst ≠ 0 → (⟨seq, .p dst, if q then 1 else 0, dist⟩ : Pend) ∈ x.pend)

/-! ### What a word leaves -/

/-- `n` further words of a batch for one of its fibres (R83). -/
def tickTimes : Nat → Fibre → Fibre
  | 0, x => x
  | n + 1, x => tickTimes n (tickFibre x)

/-- What a destination of a fixed-latency result holds in a fibre, with a predicate as 0 or 1. -/
def Fibre.dstVal (x : Fibre) : PDst → Word
  | .v n => (nth x.v n).val
  | .o n => nth x.o n
  | .p n => if x.pred n then 1 else 0

/-- What a destination holds once a result has reached it. -/
def PDst.keeps : PDst → Word → Word
  | .p _, w => if w.getLsbD 0 then 1 else 0
  | _, w => w

/-- The fibre has that destination. -/
def Fibre.hasDst (x : Fibre) : PDst → Prop
  | .v n => n < x.v.length
  | .o n => n < x.o.length
  | .p n => 1 ≤ n ∧ n < 16

/-- A fixed-latency word with the result function `fn` has issued for the present lanes `p` of group `g`: every lane that takes part has
its result on the way and its flags raised; a uniform word has one result, of its lowest present lane, on its way to the k registers
(R34, R48, R83). -/
def FixedPost (i : Instr) (fn : LaneIn → LaneOut) (e : State) (b : Batch) (g : Group) (p : Mask) (t : State) : Prop :=
  ∃ g' seq, t.group? g.gid = some g' ∧
    if isUniform i then
      ∀ l0, lowestLane p = some l0 →
        (∀ j < (fn (laneIn e b g i l0)).regs.length,
          (⟨b.id, seq, (fieldsOfInstr i).dst.toNat - 0x80 + j, nth (fn (laneIn e b g i l0)).regs j, 3, false⟩ : KPend) ∈ g'.kpend)
        ∧ ∀ l ∈ lanesOf p, (g'.fibre l).status = (raiseFlags (g.fibre l) (fn (laneIn e b g i l0)).flags).status
    else
      ∀ l ∈ lanesOf (g.participants p (fieldsOfInstr i)),
        Awaits (g'.fibre l) g seq (rowOf i).dist (fieldsOfInstr i).dst.toNat (fn (laneIn e b g i l))
        ∧ (g'.fibre l).status = (raiseFlags (g.fibre l) (fn (laneIn e b g i l)).flags).status

/-- No lane raises a flag that its own STATUS enables as a trap (R34). -/
def Quiet (i : Instr) (fn : LaneIn → LaneOut) (e : State) (b : Batch) (g : Group) (p : Mask) : Prop :=
  ∀ l ∈ lanesOf p, ∀ k ∈ lanesOf p, enabledFlags (g.fibre l).status (fn (laneIn e b g i k)).flags = 0

/-- A variable-latency word is in flight: its destinations are empty in the lanes that take part, and each lane's result waits in it
(R27). -/
def LatePost (i : Instr) (fn : LaneIn → LaneOut) (e : State) (b : Batch) (g : Group) (p : Mask) (t : State) : Prop :=
  ∃ g' fl, t.group? g.gid = some g' ∧ fl ∈ g'.flights ∧ fl.instr = i ∧ fl.pending = partLanes g p i
    ∧ (∀ l ∈ lanesOf (partLanes g p i), ∃ o ∈ fl.ops, o.lane = l ∧ o.data = (fn (laneIn e b g i l)).regs)
    ∧ ∀ l ∈ lanesOf (partLanes g p i), ∀ j < (dstSpan i).2, emptyAt g' l ((dstSpan i).1 + j) = true ∨ regOf g l ((dstSpan i).1 + j) = none

/-- `t` differs from `e` at most in group `gid`, the batches, the issue slot and the model's own counters: every byte of memory, every
block, context, core, queue, launch and register of the chip is as it was. -/
structure OnlyGroup (gid : Nat) (e t : State) : Prop where
  mem : ∀ a, Memory.get t.mem a = Memory.get e.mem a
  hostMem : ∀ a, Memory.get t.hostMem a = Memory.get e.hostMem a
  peerMem : ∀ a, Memory.get t.peerMem a = Memory.get e.peerMem a
  blocks : t.blocks = e.blocks
  contexts : t.contexts = e.contexts
  cores : t.cores = e.cores
  launches : t.launches = e.launches
  queues : t.queues = e.queues
  channels : t.channels = e.channels
  pipes : t.pipes = e.pipes
  conts : t.conts = e.conts
  counters : t.counters = e.counters
  faults : t.faults = e.faults
  jobs : t.jobs = e.jobs
  host : t.host = e.host
  debug : t.bps = e.bps ∧ t.wps = e.wps ∧ t.progBuf = e.progBuf ∧ t.mailbox = e.mailbox
  groups : ∀ n, n ≠ gid → t.group? n = e.group? n

/-- The visible part of a fibre is as it was, but for the sticky flags in STATUS[20:16]: results on their way change nothing yet. -/
structure SameVisible (x y : Fibre) : Prop where
  live : y.live = x.live
  v : y.v = x.v
  o : y.o = x.o
  oset : y.oset = x.oset
  q : y.q = x.q
  safeord : y.safeord = x.safeord
  status : ∀ n, n < 16 ∨ 20 < n → y.status.getLsbD n = x.status.getLsbD n

/-- A group keeps everything but results on their way, words in flight and full/empty bits. -/
structure SameGroup (g h : Group) : Prop where
  fibres : ∀ l, SameVisible (g.fibre l) (h.fibre l)
  k : h.k = g.k
  place : h.entries = g.entries ∧ h.bars = g.bars ∧ h.mbars = g.mbars ∧ h.obj = g.obj
  special : h.lprio = g.lprio ∧ h.cprio = g.cprio ∧ h.plimit = g.plimit ∧ h.pbase = g.pbase ∧ h.carve = g.carve
  private_ : h.priv = g.priv
  mode : h.frame = g.frame ∧ h.trap = g.trap ∧ h.stop = g.stop ∧ h.dbg = g.dbg

/-- Nothing of a group is under way that could act beside its next memory word: nothing in flight, no trap waiting, no stream register
busy; and no watchpoint is set. -/
structure Calm (e : State) (g : Group) : Prop where
  flights : g.flights = []
  held : g.held = []
  streams : ∀ x ∈ g.fibres, ∀ q ∈ x.q, q.op = none
  wps : ∀ w ∈ e.wps, w = none

/-- What a lane's store makes in the step that issues it, address and bytes: the whole access; or, of an access of 16 or 32 bytes where the
free choice falls so, one of its 8-byte parts (R120, R138). -/
def storedFirst (i : Instr) (e : State) (b : Batch) (g : Group) (l : Nat) : Nat × List Byte :=
  let c := srcCtx e b g
  let ea := eaOf i (srcA e c g l i) (srcB e c g l i)
  let ty := (fieldsOfInstr i).ty.toNat
  let data := memData i e c g l
  if sizeBytes ty > 8 ∧ (e.freeVal (14000 + l)).getLsbD 0 = true then
    let j := (e.freeVal (14100 + l)).toNat % (sizeBytes ty / 8)
    (ea + 8 * j, toBytes (nth data j).toNat 8)
  else (ea, storeBytes ty data)

/-- What a lane of a QPUT reads before it claims: its header at `h`, in local memory at `pa`, and the aligned descriptor of a tensor packet `bs`
(R105, R184). -/
def qputReads (e : State) (g : Group) (bs : List Byte) (h : Nat) (s1 s2 : State) (td : List Byte) (pa : Nat) : Prop :=
  portXl e g h .atomic 8 [] = (s1, .ok (.local pa))
    ∧ match qputTdesc bs with
      | some a => engineRead s1 g.core g.ctx a 64 = (s2, .ok td)
      | none => s2 = s1 ∧ td = []

/-- The state after a copy's next sector `bs` has been written and charged and its packet's status counts it (R168, R175). -/
def sectorStatus (s : State) (ctx clu : Nat) (j : CopyJob) (bs : List Byte) : State :=
  let u := copyCharge (copyStore s clu ctx j (pkBase j.packet + j.done j.rsec) bs).1 ctx (pkDsp j.packet) (j.done (j.rsec + 1) - j.done j.rsec)
  match u.queue? ctx j.header with
  | some q => setStatus u q j.index 1 0 (j.rsec + 1)
  | none => u

/-! ### Result functions -/

/-- The result function of a word that computes each lane's result at issue, with a fixed latency (R210 to R262). -/
def fixedRes (i : Instr) : Option (LaneIn → LaneOut) :=
  match i with
  | .iadd f => some (resIadd f)
  | .isub f => some (resIsub f)
  | .iaddc f => some (resIaddc f)
  | .imul f => some (resImul f)
  | .imulh f => some (resImulh f)
  | .imad f => some (resImad f)
  | .imadw f => some (resImadw f)
  | .iabs f => some (resIabs f)
  | .imin f => some (resImin f)
  | .imax f => some (resImax f)
  | .icmp f => some (resIcmp f)
  | .sel f => some (resSel f)
  | .and f => some (resAnd f)
  | .or f => some (resOr f)
  | .xor f => some (resXor f)
  | .andn f => some (resAndn f)
  | .tern f => some (resTern f)
  | .shl f => some (resShl f)
  | .shr f => some (resShr f)
  | .sar f => some (resSar f)
  | .rot f => some (resRot f)
  | .funnel f => some (resFunnel f)
  | .bfe f => some (resBfe f)
  | .bfi f => some (resBfi f)
  | .brev f => some (resBrev f)
  | .popc f => some (resPopc f)
  | .clz f => some (resClz f)
  | .ctz f => some (resCtz f)
  | .bperm _ => some resBperm
  | .isad f => some (resIsad f)
  | .idot f => some (resIdot f)
  | .pack f => some (resPack f)
  | .unpack f => some (resUnpack f)
  | .mov f => some (resMov f)
  | .movi f => some (resMovi f)
  | .lea f => some (resLea f)
  | .hrand _ => some resHrand
  | .helper _ => some resHelper
  | .subswz f => some (resSubswz f)
  | .fadd f => some (resFadd f)
  | .fsub f => some (resFsub f)
  | .fmul f => some (resFmul f)
  | .fma f => some (resFma f)
  | .fmin f => some (resFmin f)
  | .fmax f => some (resFmax f)
  | .fminn f => some (resFminn f)
  | .fmaxn f => some (resFmaxn f)
  | .fcmp f => some (resFcmp f)
  | .fclass f => some (resFclass f)
  | .fneg f => some (resFneg f)
  | .fabs f => some (resFabs f)
  | .frint f => some (resFrint f)
  | .ffract f => some (resFfract f)
  | .fldexp f => some (resFldexp f)
  | .ffrexp f => some (resFfrexp f)
  | .cvt f => some (resCvt f)
  | .cvt8 f => some (resCvt8 f)
  | .fdot2 f => some (resFdot2 f)
  | .scacc f => some (resScacc f)
  | .ivadd _ => some resIvadd
  | .ivsub _ => some resIvsub
  | .ivmul _ => some resIvmul
  | .ivsqr _ => some resIvsqr
  | .ivmin _ => some resIvmin
  | .ivmax _ => some resIvmax
  | .ivabs _ => some resIvabs
  | .ivhull _ => some resIvhull
  | .ivmake _ => some resIvmake
  | .ivsplit _ => some resIvsplit
  | .ivtest f => some (resIvtest f)
  | .ivmid _ => some resIvmid
  | _ => none

/-- The result function of a word that computes each lane's result at issue and delivers it with a variable latency (R27). -/
def lateRes (i : Instr) : Option (LaneIn → LaneOut) :=
  match i with
  | .idiv f => some (resIdiv f)
  | .irem f => some (resIrem f)
  | .frcp f => some (resFrcp f)
  | .frsq f => some (resFrsq f)
  | .fsqrt f => some (resFsqrt f)
  | .fdiv f => some (resFdiv f)
  | .fexp2 f => some (resFexp2 f)
  | .flog2 f => some (resFlog2 f)
  | .fsin f => some (resFsin f)
  | .fcos f => some (resFcos f)
  | .ivdiv _ => some resIvdiv
  | .ivsqrt _ => some resIvsqrt
  | _ => none

/-! ### Values of results -/

/-- `v` is the number that a `w`-bit pattern `p` stands for: two's complement where signed, else plain binary (R188). -/
def Stands (signed : Bool) (w p : Nat) (v : Int) : Prop :=
  v % 2 ^ w = (p : Int) % 2 ^ w ∧ if signed then -(2 ^ (w - 1)) ≤ v ∧ v < 2 ^ (w - 1) else 0 ≤ v ∧ v < 2 ^ w

/-- The `w`-bit pattern that an exact value `v` leaves: with `sat` the nearer bound where it lies outside the range, and modulo `2^w`
(R188, R211). -/
def fitInt (signed sat : Bool) (w : Nat) (v : Int) : Int :=
  let lo : Int := if signed then -(2 ^ (w - 1)) else 0
  let hi : Int := if signed then 2 ^ (w - 1) - 1 else 2 ^ w - 1
  (if sat then (if v < lo then lo else if hi < v then hi else v) else v) % 2 ^ w

/-- Width, count and signedness of the elements of an integer type's code: of the eight types of IT, of b64, and of x8 with format i8 or
n8 (R52, R53, R210, R211). -/
def IntShape (f : Fields) (w n : Nat) (signed : Bool) : Prop :=
  (f.ty.toNat, w, n, signed) ∈ [(0, 64, 1, false), (1, 64, 1, true), (2, 64, 1, false), (4, 32, 1, true), (5, 32, 1, false), (7, 32, 2, true),
    (8, 32, 2, false), (12, 16, 4, true), (13, 16, 4, false)]
  ∨ (f.ty.toNat = 14 ∧ w = 8 ∧ n = 8 ∧ (f.sc.toNat % 32 = 0 ∧ signed = true ∨ f.sc.toNat % 32 = 1 ∧ signed = false))

/-- The word's one result register: `r`, with no bit set above its `n` elements of width `w`. -/
def OneReg (w n : Nat) (o : LaneOut) (r : Word) : Prop := o = ⟨[r], none, 0⟩ ∧ r.toNat < 2 ^ (w * n)

/-- Element `i` of the result, for every `i`, is `v` of the numbers that A's, B's and C's elements `i` stand for, wrapped or saturated. -/
def EachInt (w n : Nat) (signed sat : Bool) (x : LaneIn) (o : LaneOut) (v : Int → Int → Int → Int) : Prop :=
  ∃ r, OneReg w n o r ∧ ∀ i < n, ∀ a b c, Stands signed w (elem w i x.a) a → Stands signed w (elem w i x.b) b →
    Stands signed w (elem w i x.c) c → (elem w i r : Int) = fitInt signed sat w (v a b c)

/-- Bit `j` of the result's element `i`, for every `i` and every `j` below the width, is `v` of A's, B's and C's elements `i` and `j`. -/
def EachBit (w n : Nat) (x : LaneIn) (o : LaneOut) (v : Nat → Nat → Nat → Nat → Bool) : Prop :=
  ∃ r, OneReg w n o r ∧ ∀ i < n, ∀ j < w, (elem w i r).testBit j = v (elem w i x.a) (elem w i x.b) (elem w i x.c) j

/-- The result's element `i`, for every `i`, is a number that `v` admits for A's element `i`. -/
def EachNat (w n : Nat) (x : LaneIn) (o : LaneOut) (v : Nat → Nat → Prop) : Prop :=
  ∃ r, OneReg w n o r ∧ ∀ i < n, v (elem w i x.a) (elem w i r)

/-- The exact value. -/
def Dy.val (a : Dy) : ℚ := (a.m : ℚ) * 2 ^ a.e

/-- The exact value of a finite datum. -/
def FV.val (v : FV) : ℚ := v.dy.val

/-- The floating formats: the four wide ones, and the 28 of the binary8 family (R190, R193). -/
def Fmt.exists (f : Fmt) : Prop := f = fp64 ∨ f = fp32 ∨ f = fp16 ∨ f = bf16 ∨ ∃ k, 2 ≤ k ∧ k < 30 ∧ f = fmtOfX8 k

/-- The significand grid of a format with an unbounded exponent range: `t + 1` bits at every exponent from that of the smallest normal value
up, and the subnormal values below (R195). -/
def Fmt.onGrid (f : Fmt) (y : ℝ) : Prop :=
  ∃ (n : ℕ) (k : ℤ), n < 2 ^ (f.t + 1) ∧ f.emin - (f.t : ℤ) ≤ k ∧ |y| = (n : ℝ) * 2 ^ k

/-- The encoding of a grid value has bit 0 clear: an even last trailing bit, or in a format without trailing bits an even exponent field, zero
counting as even (R195). -/
def Fmt.evenAt (f : Fmt) (y : ℝ) : Prop :=
  if f.t = 0 then y = 0 ∨ ∃ k : ℤ, |y| = 2 ^ k ∧ (k + (f.bias : ℤ)) % 2 = 0
  else ∃ (n : ℕ) (k : ℤ), n < 2 ^ (f.t + 1) ∧ (2 ^ f.t ≤ n ∨ k = f.emin - (f.t : ℤ)) ∧ f.emin - (f.t : ℤ) ≤ k
    ∧ n % 2 = 0 ∧ |y| = (n : ℝ) * 2 ^ k

/-- `y` is the value of `grid` that rounding the exact `x` gives in the mode in force; `even` says which of two takes a tie under RNE
(R195, R197). -/
def RCtx.picks (c : RCtx) (grid even : ℝ → Prop) (x y : ℝ) : Prop :=
  grid y ∧ (grid x → y = x) ∧
  match c.mode with
  | .rz => 0 ≤ x * y ∧ |y| ≤ |x| ∧ ∀ z, grid z → |z| ≤ |x| → |z| ≤ |y|
  | .ru => x ≤ y ∧ ∀ z, grid z → x ≤ z → y ≤ z
  | .rd => y ≤ x ∧ ∀ z, grid z → z ≤ x → z ≤ y
  | .rne => ∀ z, grid z → |y - x| ≤ |z - x| ∧ (|z - x| = |y - x| → z ≠ y → even y)
  | .rna => ∀ z, grid z → |y - x| ≤ |z - x| ∧ (|z - x| = |y - x| → z ≠ y → |z| < |y|)
  | .rs => ∀ a b, grid a → grid b → a < x → x < b → (∀ z, grid z → z ≤ a ∨ b ≤ z) →
      y = if (c.rnd : ℤ) < ⌊(x - a) / (b - a) * 2 ^ 24⌋ then b else a

/-- The largest finite value of a format (R190, R193). -/
def Fmt.maxVal (f : Fmt) : ℚ := (f.maxFin.1 : ℚ) * 2 ^ f.maxFin.2

/-- Rounding the exact non-zero `x` once to the format leaves the datum and the flags `r`: a grid value no larger than the largest finite one
is the result, of x's sign; a larger one is an overflow (R195 to R197, R199, R200). -/
def Fmt.rounds (f : Fmt) (c : RCtx) (x : ℝ) (r : FV × Flags) : Prop :=
  ∃ (y : ℝ) (neg : Bool), c.picks f.onGrid f.evenAt x y ∧ (neg = true ↔ x < 0) ∧
    (|y| ≤ (f.maxVal : ℝ) →
      if c.fo = true ∧ y ≠ 0 ∧ |y| < 2 ^ f.emin then r = (.fin neg 0 0, fUF ||| fNX)
      else (∃ m e, r.1 = .fin neg m e ∧ |y| = (m : ℝ) * 2 ^ e)
        ∧ (y = x → r.2 = fNone) ∧ (y ≠ x → r.2 = fNX ∨ r.2 = fUF ||| fNX)
        ∧ (y ≠ x → (2 : ℝ) ^ f.emin ≤ |x| → r.2 = fNX)
        ∧ (y ≠ x → |x| ≤ (2 : ℝ) ^ f.emin * (1 - 2 ^ (-(f.t : ℤ) - 1)) → r.2 = fUF ||| fNX))
    ∧ ((f.maxVal : ℝ) < |y| →
      r.2 = fOF ||| fNX ∧
      ((c.mode = .rne ∨ c.mode = .rna ∨ (c.mode = .ru ∧ 0 < x) ∨ (c.mode = .rd ∧ x < 0) ∨ (c.mode = .rs ∧ |x| ≤ |y|)) →
        r.1 = if c.sat then .fin neg f.maxFin.1 f.maxFin.2 else if f.ext && (f.signed || !neg) then .inf neg else .nan false)
      ∧ ((c.mode = .rz ∨ (c.mode = .ru ∧ x < 0) ∨ (c.mode = .rd ∧ 0 < x) ∨ (c.mode = .rs ∧ |y| < |x|)) →
        r.1 = .fin neg f.maxFin.1 f.maxFin.2))

/-- A datum that is neither a NaN nor an infinity. -/
def FV.isFin (v : FV) : Prop := v.isNaN = false ∧ v.isInf = false

/-- Width, count and format of the elements of a floating type's code (R52, R239). -/
def FloatShape (f : Fields) (w n : Nat) (m : Fmt) : Prop :=
  (f.ty.toNat, w, n, m) ∈ [(3, 64, 1, fp64), (6, 32, 1, fp32), (9, 32, 2, fp32), (10, 16, 4, fp16), (11, 16, 4, bf16)]

/-- The word's one result register, whose element `j` and the flags it raises are, for every `j`, as `v` says; the word raises the flags of all
its elements (R187, R240). -/
def EachFloat (w n : Nat) (o : LaneOut) (v : Nat → Nat × Flags → Prop) : Prop :=
  ∃ (r : Word) (fl : Nat → Flags), o = ⟨[r], none, o.flags⟩ ∧ r.toNat < 2 ^ (w * n) ∧ (∀ j < n, v j (elem w j r, fl j))
    ∧ ∀ k < 5, o.flags.getLsbD k = true ↔ ∃ j < n, (fl j).getLsbD k = true

/-- `a` lies below `b` as a number, with both zeros equal (R202, R243). -/
def FV.below (a b : FV) : Prop :=
  (a = .inf true ∧ b ≠ .inf true) ∨ (a ≠ .inf false ∧ b = .inf false) ∨ (a.isFin ∧ b.isFin ∧ a.val < b.val)

/-- The exact non-zero `x` rounded and written as a pattern. -/
def Fmt.writes (m : Fmt) (c : RCtx) (x : ℝ) (q : Nat × Flags) : Prop := ∃ r, m.rounds c x r ∧ q = (m.encode r.1, r.2)

/-- A sum of two data (R241, R201, R202). -/
def SumOf (m : Fmt) (c : RCtx) (a b : FV) (q : Nat × Flags) : Prop :=
  (a.isNaN = true ∨ b.isNaN = true → q = (m.canonNaN, if a.isSNaN || b.isSNaN then fNV else fNone))
  ∧ (∀ s t, a = .inf s → b = .inf t → q = if s = t then (m.encode (.inf s), fNone) else (m.canonNaN, fNV))
  ∧ (∀ s, (a = .inf s ∧ b.isFin) ∨ (b = .inf s ∧ a.isFin) → q = (m.encode (.inf s), fNone))
  ∧ (a.isFin → b.isFin → (a.val + b.val ≠ 0 → m.writes c ((a.val + b.val : ℚ) : ℝ) q)
      ∧ (a.val + b.val = 0 → q = (m.encode (.fin (if a.isZero && b.isZero && a.isNeg == b.isNeg then a.isNeg else c.mode == .rd) 0 0), fNone)))

/-- A product of two data (R241, R201, R202). -/
def ProductOf (m : Fmt) (c : RCtx) (a b : FV) (q : Nat × Flags) : Prop :=
  (a.isNaN = true ∨ b.isNaN = true → q = (m.canonNaN, if a.isSNaN || b.isSNaN then fNV else fNone))
  ∧ (a.isNaN = false → b.isNaN = false → (a.isInf = true ∨ b.isInf = true) →
      q = if a.isZero || b.isZero then (m.canonNaN, fNV) else (m.encode (.inf (a.isNeg != b.isNeg)), fNone))
  ∧ (a.isFin → b.isFin → (a.val * b.val ≠ 0 → m.writes c ((a.val * b.val : ℚ) : ℝ) q)
      ∧ (a.val * b.val = 0 → q = (m.encode (.fin (a.isNeg != b.isNeg) 0 0), fNone)))

/-- A product plus a datum with one rounding (R241, R202). -/
def FmaOf (m : Fmt) (c : RCtx) (a b d : FV) (q : Nat × Flags) : Prop :=
  let neg := a.isNeg != b.isNeg
  let bad := (a.isZero && b.isInf) || (a.isInf && b.isZero)
  ((a.isNaN = true ∨ b.isNaN = true ∨ d.isNaN = true ∨ bad = true) →
    q = (m.canonNaN, if a.isSNaN || b.isSNaN || d.isSNaN || bad then fNV else fNone))
  ∧ (a.isNaN = false → b.isNaN = false → d.isNaN = false → bad = false → (a.isInf = true ∨ b.isInf = true) →
      q = if d = .inf (!neg) then (m.canonNaN, fNV) else (m.encode (.inf neg), fNone))
  ∧ (a.isFin → b.isFin → ∀ s, d = .inf s → q = (m.encode (.inf s), fNone))
  ∧ (a.isFin → b.isFin → d.isFin → (a.val * b.val + d.val ≠ 0 → m.writes c ((a.val * b.val + d.val : ℚ) : ℝ) q)
      ∧ (a.val * b.val + d.val = 0 →
          q = (m.encode (.fin (if (a.isZero || b.isZero) && d.isZero && d.isNeg == neg then neg else c.mode == .rd) 0 0), fNone)))

/-- A value chosen and written unchanged, but that FO makes a subnormal one zero (R199, R242). -/
def Fmt.passes (m : Fmt) (fo : Bool) (v : FV) (q : Nat × Flags) : Prop :=
  let tiny := v.isFin ∧ v.val ≠ 0 ∧ |v.val| < 2 ^ m.emin
  (fo = true → tiny → q = (m.encode (.fin v.isNeg 0 0), fUF ||| fNX)) ∧ (fo = false ∨ ¬tiny → q = (m.encode v, fNone))

/-- A quotient of two data (R248, R249, R202). -/
def QuotientOf (m : Fmt) (c : RCtx) (a b : FV) (q : Nat × Flags) : Prop :=
  let neg := a.isNeg != b.isNeg
  (a.isNaN = true ∨ b.isNaN = true → q = (m.canonNaN, if a.isSNaN || b.isSNaN then fNV else fNone))
  ∧ ((a.isInf = true ∧ b.isInf = true) ∨ (a.isZero = true ∧ b.isZero = true) → q = (m.canonNaN, fNV))
  ∧ (a.isInf = true → b.isFin → q = (m.encode (.inf neg), fNone))
  ∧ (a.isFin → b.isInf = true → q = (m.encode (.fin neg 0 0), fNone))
  ∧ (a.isFin → a.isZero = false → b.isZero = true → q = (m.encode (.inf neg), fDZ))
  ∧ (a.isZero = true → b.isFin → b.isZero = false → q = (m.encode (.fin neg 0 0), fNone))
  ∧ (a.isFin → b.isFin → a.val ≠ 0 → b.val ≠ 0 → m.writes c ((a.val / b.val : ℚ) : ℝ) q)

/-- The integer that rounding `x` to an integral value gives in the mode in force (R195, R246, R251). -/
def RCtx.picksInt (c : RCtx) (x : ℝ) (i : ℤ) : Prop := c.picks (fun y => ∃ n : ℤ, y = n) (fun y => ∃ n : ℤ, y = 2 * n) x i

/-- The pattern and flags of a NaN input (R200, R201). -/
def nanOut (m : Fmt) (v : FV) : Nat × Flags := (m.canonNaN, if v.isSNaN then fNV else fNone)

/-- An extended real is at most, and at least, a real number. -/
def XR.leR (a : XR) (x : ℝ) : Prop :=
  match a with
  | .ninf => True
  | .fin d => (d.val : ℝ) ≤ x
  | .pinf => False
def XR.geR (a : XR) (x : ℝ) : Prop :=
  match a with
  | .ninf => False
  | .fin d => x ≤ (d.val : ℝ)
  | .pinf => True

/-- The real members of an interval (R203). -/
def Iv.has (v : Iv) (x : ℝ) : Prop :=
  match v with
  | .mk lo hi => lo.leR x ∧ hi.geR x
  | _ => False

/-- Both bounds of an interval are finite. -/
def Iv.bounded (v : Iv) : Prop := ∃ l h : Dy, v = .mk (.fin l) (.fin h)

/-- The word writes one interval, which holds every value of `S`. -/
def HoldsAll (o : LaneOut) (S : ℝ → Prop) : Prop := ∃ r, o = ⟨[r], none, 0⟩ ∧ ∀ z, S z → (ivRead r).has z

/-- The word writes one interval, which holds every value of `S` and whose bounds no FP32 value could draw closer (R204). -/
def HullOf (o : LaneOut) (S : ℝ → Prop) : Prop :=
  ∃ r lo hi, o = ⟨[r], none, 0⟩ ∧ ivRead r = .mk lo hi ∧ (∀ z, S z → (ivRead r).has z)
    ∧ ∀ z : ℝ, fp32.onGrid z → |z| ≤ (fp32.maxVal : ℝ) → ((∀ y, S y → z ≤ y) → lo.geR z) ∧ ((∀ y, S y → y ≤ z) → hi.leR z)

/-- An FP32 pattern with any zero written +0 (R204). -/
def plusZero (p : Nat) : Nat := if p % 2 ^ 31 = 0 then 0 else p

/-- The smaller datum, or with `up` the larger, with −0 below +0; of one NaN and a number the number where `first`, else NaN (R242, R202). -/
def ChosenOf (m : Fmt) (fo up first : Bool) (a b : FV) (q : Nat × Flags) : Prop :=
  let nv : Flags := if a.isSNaN || b.isSNaN then fNV else fNone
  let less (u v : FV) := u.below v ∨ (u.isZero = true ∧ v.isZero = true ∧ u.isNeg = true ∧ v.isNeg = false)
  ((a.isNaN = true ∧ b.isNaN = true) ∨ (first = false ∧ (a.isNaN = true ∨ b.isNaN = true)) → q = (m.canonNaN, nv))
  ∧ (first = true → a.isNaN = true → b.isNaN = false → ∃ fl, m.passes fo b (q.1, fl) ∧ q.2 = fl ||| nv)
  ∧ (first = true → b.isNaN = true → a.isNaN = false → ∃ fl, m.passes fo a (q.1, fl) ∧ q.2 = fl ||| nv)
  ∧ (a.isNaN = false → b.isNaN = false → ∃ v, (v = a ∨ v = b) ∧ m.passes fo v q
      ∧ if up = true then ¬less v a ∧ ¬less v b else ¬less a v ∧ ¬less b v)

/-- A datum converted into a format, with R198's cases of an infinity or a negative value that the format cannot stand for (R198, R251). -/
def ConvertedTo (g : Fmt) (c : RCtx) (v : FV) (q : Nat × Flags) : Prop :=
  (v.isNaN = true → q = nanOut g v) ∧ (v.isZero = true → q = (g.encode (.fin v.isNeg 0 0), fNone))
  ∧ (∀ s, v = .inf s → q = if g.signed = false ∧ s = true then (if c.sat then 0 else g.canonNaN, fNV) else if g.ext then (g.encode (.inf s), fNone)
      else (if c.sat then g.encode (.fin s g.maxFin.1 g.maxFin.2) else g.canonNaN, fNV))
  ∧ (v.isFin → v.val ≠ 0 → (g.signed = true ∨ 0 < v.val) → g.writes c (v.val : ℝ) q)
  ∧ (v.isFin → v.val < 0 → g.signed = false → ∃ y : ℝ, c.picks g.onGrid g.evenAt (v.val : ℝ) y
      ∧ q = if y = 0 then (0, fUF ||| fNX) else (if c.sat then 0 else g.canonNaN, fNV))

/-- `trunc_window(x, e, w)` and `exponent_of(x)` of R7. -/
def truncTo (x : ℚ) (e : ℤ) (w : ℕ) : ℚ := (if x < 0 then -1 else 1) * (⌊|x| / 2 ^ (e - w + 1)⌋ : ℤ) * 2 ^ (e - w + 1)
def expOf (x : ℚ) : ℤ := if x = 0 then -(2 ^ 31) else Int.log 2 |x|

/-- The largest exponent of the non-zero values of a group of 32 (R207). -/
def TopExp (a : Nat → FV) (e : ℤ) : Prop := (∃ k < 32, (a k).val ≠ 0 ∧ expOf (a k).val = e) ∧ ∀ k < 32, (a k).val ≠ 0 → expOf (a k).val ≤ e

/-- One K-group of one FP32 entry: the pattern `q` after it, from the 32 values of each side and the entry's datum before (R207). -/
def GroupOf (wa wb : Nat) (a b : Nat → FV) (acc : FV) (q : Nat) : Prop :=
  let nan := acc.isNaN = true ∨ ∃ k < 32, (a k).isNaN = true ∨ (b k).isNaN = true
    ∨ ((a k).isInf = true ∧ (b k).isZero = true) ∨ ((a k).isZero = true ∧ (b k).isInf = true)
  let infs (s : Bool) := ∃ k < 32, ((a k).isInf = true ∨ (b k).isInf = true) ∧ ((a k).isNeg != (b k).isNeg) = s
  (nan → q = fp32.canonNaN) ∧ (¬nan → infs true → infs false → q = fp32.canonNaN)
  ∧ (¬nan → ∀ s, infs s → ¬infs (!s) → q = if acc = .inf (!s) then fp32.canonNaN else fp32.encode (.inf s))
  ∧ (¬nan → ¬infs true → ¬infs false → ∀ s, acc = .inf s → q = fp32.encode (.inf s))
  ∧ (¬nan → ¬infs true → ¬infs false → acc.isInf = false → ∀ g : ℚ,
      (((∀ k < 32, (a k).val = 0) ∨ (∀ k < 32, (b k).val = 0)) → g = 0) →
      (∀ ea eb, TopExp a ea → TopExp b eb → g = ((List.range 32).map fun k => truncTo (a k).val ea wa * truncTo (b k).val eb wb).sum) →
      let e := max (expOf g) (expOf acc.val)
      let v := truncTo g e 28 + truncTo acc.val e 28
      (v = 0 → q = 0) ∧ (v ≠ 0 → ∃ r, fp32.rounds ctxRNE (v : ℝ) r ∧ q = if r.1.isZero then 0 else fp32.encode r.1))

end Sys2Proof.Machine
end

