-- ==== Sys2Proof/Certificates/Slice0/Obligations.lean ====
section
/-! DEFINITION. The statements for the provers. -/

open Sys2Proof Sys2Proof.Machine


/-- Decoding the words of any well-formed instruction gives the instruction back (R41, R51, R58, R65, R66, R282). For every well-
formed instruction that stands in memory as words, with every operand at every value its encoding admits: encode gives a first
word and, exactly when a source is the literal code, a second; decode of the first word, told the second or (without a literal)
any word that follows, is that instruction. Event rows are no words and have no encoding. -/
def Obligations.EncodedWordDecodesBack : Prop :=
  ∀ i : Instr, i.WellFormed = true → i.isWord = true → ∀ follows : Word,
    ∃ w rest, encode i = w :: rest ∧ (rest ≠ [] ↔ hasLiteral i = true)
      ∧ decode (isMatrixWord w) w (rest.headD follows) = .ok i

/-- Words written out from the encodings decode to the instructions they stand for (R41, R58, R92, R120, R210, R269, R282). A few
words, each from the spec's own encoding of it: quit, movi v7 #-5, iadd.x8.i8.sat v3 v4 v5, tern v1 v2 v3 v4 #0xE8, nextp p2 to
segment 2, ld.b64 v6 [v8+16], bar 3's arrival at matrix barrier 3, march v20 v10 k4 v16 and mmul.b8p4se #1024 a1[0x400 + x2] s2
m=4 k=64 ks=0 cg=1:2 decode to those instructions with the fields that the spec's encodings give them; 0x3FC0_0000_0000_0000, with
the unassigned opcode 0xFF, is no instruction. -/
def Obligations.TableWordsDecodeAsWritten : Prop :=
  decodeTableWord 64 0x01C0000000000000 = some (.quit { (default : Fields) with safe := false })
  ∧ (∃ f, decodeTableWord 64 0x10800FFFFFFEC000 = some (.movi f) ∧ f.dst = 7 ∧ imm27 f = BitVec.ofInt 27 (-5))
  ∧ (∃ f, decodeTableWord 64 0x0838060402800008 = some (.iadd f) ∧ f.ty = 14 ∧ f.dst = 3 ∧ f.sa = 4 ∧ f.sb = 5 ∧ f.sc = 0 ∧ f.sat = true)
  ∧ (∃ f, decodeTableWord 64 0x0C38020201810100 = some (.tern f) ∧ ternTable f = 0xE8 ∧ f.dst = 1 ∧ f.sa = 2 ∧ f.sb = 3 ∧ f.sc = 4)
  ∧ (∃ f, decodeTableWord 64 0x8080000200008000 = some (.nextp f) ∧ f.safe = true ∧ (imm27 f).toNat = 2 + 2 * 2 ^ 18)
  ∧ (∃ f, decodeTableWord 64 0x28000C0865008000 = some (.ld f) ∧ f.ty = 0 ∧ f.dst = 6 ∧ f.sa = 8 ∧ f.sb = 0x0CA ∧ f.sc = 2)
  ∧ (∃ f, decodeTableWord 64 0x314000000000C000 = some (.mbara f) ∧ f.sc = 3)
  ∧ (∃ f, decodeTableWord 64 0x3240280A42040000 = some (.march f) ∧ f.dst = 20 ∧ f.sa = 10 ∧ f.sb = 0x84 ∧ f.sc = 16)
  ∧ decodeTableWord 64 0x3880241300834081 = some (.mmul { buf := 1, aoff := 32, xa := 2, m1 := 3, k1 := 1, ks := 0, slot := 2, ns := 1, nc1 := 1, fmt := 8, entry := 2, xc := 0 })
  ∧ decodeTableWord 64 0x3FC0000000000000 = none

/-- A step runs exec of the instruction that the bytes at the position of the word at issue decode to (R65, R81, R99, R118, R269).
With a batch in the issue slot and its 8 bytes fetched at the address of its word (and, for a literal, the next 8), step is exec
of the instruction those words decode to, in the state the fetch leaves, where the model's counter of free values has gone on by
one. A matrix stream word at issue runs likewise. While a REP is in progress the instruction is the target with its register
fields as stepped. With nothing at issue, step runs the next event that the model's agenda asks for: that, and the counter of free
values, are the model's own (log entries 1 and 3). -/
def Obligations.StepRunsTheDecodedWord : Prop :=
  (∀ s n b m ms g o w e, s.issue = some (.batch n) → s.batch? n = some b → b.members = m :: ms → s.group? m.gid = some g →
      s.object? g.ctx b.obj = some o → o.loader = false → b.rep = none →
      fetchVa { s with free := s.free + 1 } b.core o.ctx (o.addr b.seg b.woff) = (e, some w) →
      (∀ i, decode false w 0 = .ok i → hasLiteral i = false → step s = exec i e)
      ∧ (∀ i j e' l, decode false w 0 = .ok i → hasLiteral i = true →
          fetchVa e b.core o.ctx (o.addr b.seg (b.woff + 1)) = (e', some l) → decode false w l = .ok j → step s = exec j e'))
  ∧ (∀ s n b i e j rp, s.issue = some (.batch n) → s.batch? n = some b → b.rep = some rp →
      fetchInstr { s with free := s.free + 1 } { b with rep := none } = (e, .ok i) → withRep i rp = .ok j → step s = exec j e)
  ∧ (∀ s bid blk eng o x w e i, s.issue = some (.msq bid) → s.block? bid = some blk → blk.engine = some eng →
      streamSec { s with free := s.free + 1 } blk eng = some (o, x) → eng.woff < x.len →
      fetchVa { s with free := s.free + 1 } blk.core blk.ctx (streamVa o x eng.woff) = (e, some w) → decode true w 0 = .ok i →
      step s = exec i e)
  ∧ (∀ s i rest, s.issue = none → s.agenda = i :: rest → step s = exec i { s with free := s.free + 1, agenda := rest })

/-- A word that fetch or decode refuses traps precisely in every group of its batch and leaves the issue slot (R67, R89, R118, R426,
R470). When fetching or decoding the word at issue of a batch gives a cause, step answers the state in which every group of the
batch, one after the other, has raised a precise trap of that cause at that word over its lanes that are present at it (those of a
passed-over group only where the word ends the segment, or where every group of the batch is passed over), and nothing is at
issue: for a batch of one group, the state that raising that trap leaves, whether its job runs or not. Where no job of the groups
runs the trap is held: each group has stopped with it. -/
def Obligations.RefusedWordTrapsEveryGroup : Prop :=
  (∀ s n b c e, s.issue = some (.batch n) → s.batch? n = some b → fetchInstr { s with free := s.free + 1 } b = (e, .error c) →
    ∃ u a, u.batches = e.batches ∧ u.groups = (tickBatch e b).groups ∧ (c ≠ .ifetchFault → a = 0 ∧ u = tickBatch e b)
      ∧ step s = .next (b.members.foldl (fun v m => trapGroup b v (m.gid, refusedLanes e b m, .trap c (refusedLanes e b m) 0 a)) u).unissue
      ∧ ∀ m g, b.members = [m] → e.group? m.gid = some g → refusedLanes e b m ≠ 0 →
          ∃ tr, step s = .next (raiseTrap u m.gid tr (refusedLanes e b m)).unissue ∧ tr.cause = c ∧ tr.flags = 1 ∧ tr.lanes = refusedLanes e b m ∧ tr.detail = 0
            ∧ tr.addr = a ∧ tr.obj = g.obj ∧ tr.seg = b.seg ∧ tr.woff = b.woff)
  ∧ (∀ b v gid g c p a, v.group? gid = some g → ∃ w, (∀ n, n ≠ gid → w.group? n = v.group? n) ∧ w.batches = v.batches ∧ w.mem = v.mem ∧ (p ≠ 0 → w = v)
      ∧ trapGroup b v (gid, p, .trap c p 0 a) = raiseTrap w gid ⟨c, 1, p, 0, a, g.obj, b.seg, b.woff, 0, 0⟩ p)
  ∧ ∀ s n b c e, s.issue = some (.batch n) → s.batch? n = some b → (b.members.map Member.gid).Nodup →
    fetchInstr { s with free := s.free + 1 } b = (e, .error c) →
    (∀ m ∈ b.members, ∃ g, e.group? m.gid = some g ∧ g.trap = none ∧ jobRuns e g.ctx = false) →
    ∃ t, step s = .next t ∧ t.issue = none
      ∧ ∀ m ∈ b.members, ∀ g, e.group? m.gid = some g → ∃ g' tr, t.group? m.gid = some g' ∧ g'.trap = some tr ∧ g'.stop = .trapping
        ∧ tr.cause = c ∧ tr.flags = 1 ∧ tr.lanes = refusedLanes e b m ∧ tr.obj = g.obj ∧ tr.seg = b.seg ∧ tr.woff = b.woff

/-- After reset nothing is live, READY is clear, memory lists nothing and the breakpoint and watchpoint tables are empty (R11, R13,
R154, R351, R400, R403, R466, R467). State.reset has 512 cores, no context, launch, block, group, batch, queue or code object,
every bit of HSTAT clear, the registers of the host control window 0, EBUDGET.CHIP 96000, the 32 range-lock entries of every core
free, breakpoint and watchpoint tables of 16 and 8 entries and no sealed frame. That the breakpoint and watchpoint tables are
empty is the model's choice (log entry 20), and so is that every byte of local GDDR reads 0 (log entry 2). -/
def Obligations.ResetLeavesTheChipHeld : Prop :=
  State.reset.cores.length = 512 ∧ State.reset.contexts = [] ∧ State.reset.launches = [] ∧ State.reset.blocks = []
    ∧ State.reset.groups = [] ∧ State.reset.batches = [] ∧ State.reset.queues = [] ∧ State.reset.objects = []
    ∧ State.reset.host.ready = false ∧ State.reset.host.busy = false ∧ State.reset.host.overrun = false ∧ State.reset.host.therm = false
    ∧ State.reset.host.ctxt = 0 ∧ State.reset.host.frbase = 0 ∧ State.reset.host.frlog = 0 ∧ State.reset.host.frhead = 0
    ∧ State.reset.host.frtail = 0 ∧ State.reset.host.cmd = 0 ∧ State.reset.host.arg0 = 0 ∧ State.reset.host.arg1 = 0
    ∧ State.reset.host.arg2 = 0 ∧ State.reset.host.arg3 = 0 ∧ State.reset.host.result = 0 ∧ State.reset.chipBudget = 96000
    ∧ (∀ c ∈ State.reset.cores, c.rlt = List.replicate 32 none)
    ∧ State.reset.bps = List.replicate 16 none ∧ State.reset.wps = List.replicate 8 none ∧ State.reset.sealed = []
    ∧ State.reset.mem = [] ∧ ∀ a, Memory.get State.reset.mem a = 0

/-- The invariant of every step holds after reset (R2, R13, R466, R467). State.reset is Good: the local, host and peer memories stand
in the canonical form, and the breakpoint and watchpoint tables have their 16 and 8 entries. -/
def Obligations.ResetIsGood : Prop :=
  State.reset.Good

/-- Every step keeps the memories canonical and the fixed tables at their sizes (R2, R13, R137, R466, R467). For every state that is
Good, reachable or not, if step answers a next state then that state is Good: all three memories keep strictly rising addresses
with no zero byte listed, whatever word, event, host access or engine acted, and the breakpoint and watchpoint tables keep 16 and
8 entries. -/
def Obligations.StepKeepsGood : Prop :=
  ∀ s t : State, s.Good → step s = .next t → t.Good

/-- A fixed-latency word puts every participating lane's result on its way and changes nothing else (R21, R23, R34, R48, R83, R211,
R239, R28, R78). For each of the fixed-latency integer, bit, move, address, lane, float, conversion and interval words that
compute a lane's result from its own operands (the constructors of fixedRes): when nothing holds it back and no lane raises a flag
it enables, exec answers a next state in which every present lane with a true guard holds the row's result on its way (each
register, a predicate unless p0, visible after the row's distance) and has its flags ORed into STATUS; a word with a k destination
runs once, for the lowest present lane, and its result is on its way to the k registers with distance 3. The result functions are
the rows' own (R210 to R262). For each word of fixedRes, under the same conditions: every byte of memory, every block, context,
core, queue and other group is as when the word's effect began; in the group every v, o, k and q register, the predicates, the
enables, SAFEORD, the private bytes and the special registers are unchanged (results are only on their way), no full/empty bit is
touched, and lanes that are not present keep even their pending results. Without the S bit the memory the effect begins with is
that before the word. -/
def Obligations.FixedLatencyWordResultAndFrame : Prop :=
  (
  ∀ i fn, fixedRes i = some fn → Completes i alwaysReady noBar (fun e b g p => Quiet i fn e b g p) (FixedPost i fn)
  ) ∧ (
  ∀ i fn, fixedRes i = some fn →
    Completes i alwaysReady noBar (fun e b g p => Quiet i fn e b g p)
      (fun e _ g p t => OnlyGroup g.gid e t ∧ ∃ g', t.group? g.gid = some g' ∧ SameGroup g g' ∧ g'.flights = g.flights
        ∧ ∀ l, l ∉ lanesOf p → g'.fibre l = g.fibre l)
    ∧ ∀ s b g p, stopBit i = false → (entered i s b g p).mem = s.mem
  )

/-- A fixed-latency word that raises an enabled flag writes its result and then raises FP_ENABLED (R34, R426). For each word of
fixedRes and a batch of one group that nothing holds back: if some present lane with a true guard (any present lane, for a uniform
word) raises a flag whose enable is set in its STATUS, exec answers the state that raising the trap FP_ENABLED leaves, raised over
a state in which the results are on their way and the flags are set, over the lanes that raised such a flag and with the OR of
those flags (log entry 112) and the word's offset and segment in DETAIL. A uniform word raises its one result's flags in every
present lane, each by its own enables. -/
def Obligations.EnabledFlagTrapsAfterTheResult : Prop :=
  ∀ i fn, fixedRes i = some fn →
    Completes i alwaysReady noBar
      (fun e b g p => ∃ l ∈ lanesOf (if isUniform i then p else g.participants p (fieldsOfInstr i)),
        enabledFlags (g.fibre l).status (fn (laneIn e b g i (if isUniform i then (lowestLane p).getD 0 else l))).flags ≠ 0)
      (fun e b g p t =>
        let lanes := lanesOf (if isUniform i then p else g.participants p (fieldsOfInstr i))
        let raised (l : Nat) : Flags := enabledFlags (g.fibre l).status (fn (laneIn e b g i (if isUniform i then (lowestLane p).getD 0 else l))).flags
        ∃ u tr, FixedPost i fn e b g p u ∧ tr.cause = .fpEnabled ∧ tr.flags = 0
          ∧ (∀ l, l ∈ lanesOf tr.lanes ↔ l ∈ lanes ∧ raised l ≠ 0)
          ∧ (∀ n < 5, tr.detail.testBit n = true ↔ ∃ l ∈ lanes, (raised l).getLsbD n = true)
          ∧ tr.detail / 32 % 8 = 0 ∧ tr.detail / 256 = b.woff + b.seg * 2 ^ 24
          ∧ t = (raiseTrap u g.gid tr p).unissue)

/-- A fixed-latency result is visible to the k-th following word of its batch and to no nearer one (R28, R83). Let a fibre hold a
pending result for a register or predicate that it has, issued after every other result pending for it, with k further words to go
(k at least 1). A word of the batch moves every pending result one nearer (tickFibre). After k such words the destination reads
the result. If nothing else is pending for the destination, after fewer words it still reads what it read and the result is still
on its way, and after more it goes on reading the result. -/
def Obligations.PendingResultBecomesVisible : Prop :=
  ∀ (x : Fibre) (p : Pend), p ∈ x.pend → (∀ r ∈ x.pend, r.dst = p.dst → r ≠ p → r.seq < p.seq) → 1 ≤ p.left → x.hasDst p.dst →
    (tickTimes p.left x).dstVal p.dst = p.dst.keeps p.val
    ∧ ((∀ r ∈ x.pend, r.dst = p.dst → r = p) →
        (∀ k < p.left, (tickTimes k x).dstVal p.dst = x.dstVal p.dst
          ∧ ({ p with left := p.left - k } : Pend) ∈ (tickTimes k x).pend)
        ∧ ∀ k, p.left ≤ k → (tickTimes k x).dstVal p.dst = p.dst.keeps p.val)

/-- A variable-latency word empties its destinations, flies with each lane's result, and writes it when the result comes (R27, R87,
R210, R214, R239, R254, R97, R105, R426). For IDIV, IREM, FRCP, FRSQ, FSQRT, FDIV, FEXP2, FLOG2, FSIN, FCOS, IVDIV and IVSQRT (the
constructors of lateRes): when nothing holds the word back and some lane takes part, exec answers a next state in which the group
has the word in flight for exactly the lanes that take part, each with the result its row computes from the operands read at
issue, every destination register is empty, and everything outside the group is as it was. VARIABLE_LATENCY_RESULT for a word in
flight with one lane pending, whose lane may perform, which raises no enabled flag, in a group where nothing else in flight is
held or waits to perform without a result and no trap waits, and which makes its accesses whole in this step: if performing the
lane gives result words, exec answers a next state in which the word has left the words in flight and, where the fibre lives, each
v register the destination names holds its word, full and not poisoned; a uniform word's k registers do. (Registers that two of
the results name are left out.) -/
def Obligations.VariableLatencyWordFliesThenWrites : Prop :=
  (
  ∀ i fn, lateRes i = some fn →
    Completes i alwaysReady noBar (fun _ _ g p => partLanes g p i ≠ 0)
      (fun e b g p t => LatePost i fn e b g p t ∧ OnlyGroup g.gid e t)
  ) ∧ (
  ∀ s gid seq lane g fl op s1 outs g1, s.group? gid = some g → flightMay s gid seq = true →
    g.flights.find? (fun e => e.seq == seq) = some fl → (g.flights.map Flight.seq).Nodup → fl.pending = laneBit lane → lane < 32 →
    fl.ops.find? (fun o => o.lane == lane) = some op → (∀ h ∈ fl.held, h.1 ≠ lane) → laneFree g fl op = true →
    inMask fl.void lane = false → splitNow s fl lane = false → fl.parts = [] →
    (fl.kind ≠ .deq ∧ fl.kind ≠ .publish ∧ fl.kind ≠ .prune) →
    performLane s g fl op = (s1, .done outs) → s1.group? gid = some g1 → g1.flights = g.flights → g1.gid = gid → g1.held = [] →
    (∀ p ∈ flagLanes fl lane, enabledFlags (g.fibre p.1).status p.2 = 0) →
    (∀ e ∈ g.flights, e.seq ≠ seq → e.noResult = false ∧ e.held = []) → (g1.fibre lane).live = true → lane < g1.fibres.length →
    ∃ t g', exec (.variableLatencyResult gid seq (laneBit lane)) s = .next t ∧ t.group? gid = some g'
      ∧ (∀ e ∈ g'.flights, e.seq ≠ seq)
      ∧ (fl.uniform = false → ∀ j < outs.length, ∀ n, vIndex g1 ((resultRegs fl.instr).1 + j) = some n → n < (g1.fibre lane).v.length →
          (∀ k < outs.length, vIndex g1 ((resultRegs fl.instr).1 + k) = some n → k = j) →
          nth (g'.fibre lane).v n = ⟨nth outs j, true, false⟩)
      ∧ (fl.uniform = true → ∀ j < outs.length, 0x80 ≤ (resultRegs fl.instr).1 → (resultRegs fl.instr).1 - 0x80 + j < g1.k.length →
          nth g'.k ((resultRegs fl.instr).1 - 0x80 + j) = ⟨nth outs j, true, false⟩)
  )

/-- The lane exchanges, quad derivatives, reductions and scans put their combinations of the lanes' elements on their way (R230, R231,
R232, R233, R234, R83, R235). When nothing holds the word back and no enabled flag is raised, exec answers a next state in which
every participating lane has on its way: for LXCH, LXOR and LBCAST the register made of the elements that R232's index picks
across the group (0 from a lane with no live fibre); for QXCH source A of the lane at the position its B names in its quad; for
QDDX and QDDY the difference, rounded once, of the right and left (lower and upper) lanes of its quad. When nothing holds the word
back, no operation code outside R235's table stands in source B, and no enabled flag is raised: exec answers a next state in which
every participating lane has on its way, element by element, the combination (sum, minimum, maximum, and, or, xor) of source A
over the present non-helper lanes with a true guard (LREDUCE), or over those below it and, unless exclusive, itself (LSCAN). -/
def Obligations.LaneExchangeReduceAndScanResult : Prop :=
  (
  (∀ i f, i = Instr.lxch f ∨ i = .lxor f ∨ i = .lbcast f →
    ∀ s b g0 p g, Alone i alwaysReady noBar s b g0 p → (entered i s b g0 p).group? g0.gid = some g → (∀ l ∈ lanesOf p, l < g.fibres.length) →
      ∃ t, exec i s = .next t
        ∧ FixedPost i (fun x => outW (exchWord i (entered i s b g0 p) (srcCtx (entered i s b g0 p) b g) g x.lane x.b))
            (entered i s b g0 p) b g p t)
  ∧ (∀ f s b g0 p g, Alone (.qxch f) alwaysReady noBar s b g0 p → (entered (.qxch f) s b g0 p).group? g0.gid = some g →
      (∀ l ∈ lanesOf p, l < g.fibres.length) →
      ∃ t, exec (.qxch f) s = .next t
        ∧ FixedPost (.qxch f) (fun x => outW (crossVal (entered (.qxch f) s b g0 p) (srcCtx (entered (.qxch f) s b g0 p) b g) g (.qxch f)
            (x.lane / 4 * 4 + field x.b 0 2))) (entered (.qxch f) s b g0 p) b g p t)
  ∧ (∀ i f hi lo, (i = Instr.qddx f ∧ hi = 1 ∧ lo = 2) ∨ (i = .qddy f ∧ hi = 2 ∧ lo = 1) →
    ∀ s b g0 p g, Alone i alwaysReady noBar s b g0 p → (entered i s b g0 p).group? g0.gid = some g → (∀ l ∈ lanesOf p, l < g.fibres.length) →
      let fn : LaneIn → LaneOut := fun x => outWF (subElems f x
        (crossVal (entered i s b g0 p) (srcCtx (entered i s b g0 p) b g) g i (x.lane / 4 * 4 + (x.lane % 4 ||| hi)))
        (crossVal (entered i s b g0 p) (srcCtx (entered i s b g0 p) b g) g i (x.lane / 4 * 4 + (x.lane % 4 &&& lo))))
      Quiet i fn (entered i s b g0 p) b g p → ∃ t, exec i s = .next t ∧ FixedPost i fn (entered i s b g0 p) b g p t)
  ) ∧ (
  (∀ f, Completes (.lreduce f) alwaysReady (combineBar (.lreduce f) false)
    (fun e b g p => Quiet (.lreduce f) (fun x => outWF (combineWord (.lreduce f) x e (srcCtx e b g) g (lanesOf (g.actors p f)))) e b g p)
    (fun e b g p t => FixedPost (.lreduce f)
      (fun x => outWF (combineWord (.lreduce f) x e (srcCtx e b g) g (lanesOf (g.actors p f)))) e b g p t))
  ∧ (∀ f, Completes (.lscan f) alwaysReady (combineBar (.lscan f) true)
    (fun e b g p => Quiet (.lscan f) (fun x => outWF (combineWord (.lscan f) x e (srcCtx e b g) g
      (scanSet (g.actors p f) x.lane (bitN x.b.toNat 3)))) e b g p)
    (fun e b g p t => FixedPost (.lscan f) (fun x => outWF (combineWord (.lscan f) x e (srcCtx e b g) g
      ((lanesOf (g.actors p f)).filter fun k => decide (k < x.lane) || (k == x.lane && !bitN x.b.toNat 3)))) e b g p t))
  )

/-- A dual word puts the results of both its halves on their way (R58, R59, R60, R62, R83). When nothing holds back a dual word whose
halves are the full-form words x and y, neither of them uniform, and no lane raises an enabled flag: exec answers a next state in
which each lane whose guard of x is true awaits the result of x, and each whose guard of y is true the result of y, both from the
registers as they stand at the word. -/
def Obligations.DualWordIssuesBothHalves : Prop :=
  ∀ safe a b x y, halfInstr safe a = some x → halfInstr safe b = some y → isUniform x = false → isUniform y = false →
    Completes (.dualWord safe a b) alwaysReady noBar (fun e bt g p => Quiet x (resHalf x) e bt g p ∧ Quiet y (resHalf y) e bt g p)
      (fun e bt g p t => ∃ g' n m, t.group? g.gid = some g'
        ∧ (∀ l ∈ lanesOf (g.participants p (fieldsOfInstr x)),
            Awaits (g'.fibre l) g n (rowOf x).dist (fieldsOfInstr x).dst.toNat (resHalf x (laneIn e bt g x l)))
        ∧ (∀ l ∈ lanesOf (g.participants p (fieldsOfInstr y)),
            Awaits (g'.fibre l) g m (rowOf y).dist (fieldsOfInstr y).dst.toNat (resHalf y (laneIn e bt g y l))))

/-- A word with an empty source waits where its W bit is 0 and traps EMPTY_READ where it is 1 (R27, R41, R426, R428). For a fixed-
latency word at issue in a batch of one group, not outside the window: if a source register whose W bit is 0, or a destination
register it will write (for which W has no bit), is empty in a participating lane, exec answers the state as it was with the word
taken from the issue slot and the batch not tried again in this clock. That such a wait comes before the trap of another empty
source whose W bit is 1 is the model's reading (log entry 110). If nothing bids it wait, no source is poisoned and some
participating lane has an empty source, exec answers the state in which the group has raised a precise EMPTY_READ over those lanes
with the sources in DETAIL, and the word has taken effect in no lane. -/
def Obligations.EmptySourceWaitsOrTraps : Prop :=
  ∀ i fn, fixedRes i = some fn → ∀ s b g p, issuerBatch s = some b → b.wait = none → wordMembers b i = [(g.gid, p)] →
    (tickBatch s b).group? g.gid = some g → outsideWindow g i = false →
    (mustWait (tickBatch s b) (srcCtx (tickBatch s b) b g) g p (partLanes g p i) i = true → exec i s = .next (s.blocked b))
    ∧ (mustWait (tickBatch s b) (srcCtx (tickBatch s b) b g) g p (partLanes g p i) i = false →
        (∀ l ∈ lanesOf (partLanes g p i), ∀ n ∈ srcNeeds i, srcAny poisonAt (tickBatch s b) (srcCtx (tickBatch s b) b g) g p l i n = false) →
        ∀ l0, lowestLane (lanesWith (partLanes g p i) fun l => emptySources (tickBatch s b) (srcCtx (tickBatch s b) b g) g p l i != 0) = some l0 →
        ∃ u, exec i s = .next u.unissue
          ∧ u = advanceBatch (noteIssue s.nextId (raiseTrap (tickBatch s b) g.gid
              ⟨.emptyRead, 1, lanesWith (partLanes g p i) fun l => emptySources (tickBatch s b) (srcCtx (tickBatch s b) b g) g p l i != 0,
                emptySources (tickBatch s b) (srcCtx (tickBatch s b) b g) g p l0 i, 0, g.obj, b.seg, b.woff, 0, 0⟩ p) b i) b.id i)

/-- Loads, fetches and atomics issue with each lane's effective address and operands, which the address forms make from base, index
and offset (R44, R105, R106, R120, R122, R124, R130, R131, R79). For LD, LDS, LDP, LDRS, ATOM, SATOM, CAS, FETCH and FETCH3 in a
group with nothing in flight and no trap waiting, with no watchpoint set, in a context that does not suspend at page faults (FPOL
other than 1): when nothing holds the word back (addresses aligned, within bounds and unlocked) and some lane takes part, exec
answers a next state whose group has the word in flight for exactly those lanes, each lane with the address that its base, index
and offset give and with the data registers an atomic reads; its destinations are empty; every byte of memory is as it was. For
every memory word of the M form the effective address is A + B + SC × size modulo 2^64, with SC signed and the size that TY names;
the atomics, LDRS and STRS take no index; FETCH takes A + B; FETCH3 takes A. The sizes are 1, 2, 4, 8, 16 and 32 bytes. -/
def Obligations.LoadAndAtomicIssueAtTheirAddress : Prop :=
  (
  ∀ i f, (i = Instr.ld f ∨ i = .lds f ∨ i = .ldp f ∨ i = .ldrs f ∨ i = .atom f ∨ i = .satom f ∨ i = .cas f ∨ i = .fetch f ∨ i = .fetch3 f) →
    Completes i (accessReady i) noBar
      (fun e _ g p => memLanes i g p ≠ 0 ∧ g.flights = [] ∧ g.held = [] ∧ (∀ w ∈ e.wps, w = none) ∧ (∀ c, e.context? g.ctx = some c → c.fpol ≠ 1))
      (fun e b g p t => OnlyGroup g.gid e t ∧ ∃ g' fl, t.group? g.gid = some g' ∧ g'.flights = [fl] ∧ fl.instr = i
        ∧ fl.pending = memLanes i g p
        ∧ (∀ l ∈ lanesOf (memLanes i g p), ∃ o ∈ fl.ops, o.lane = l
            ∧ o.ea = eaOf i (srcA e (srcCtx e b g) g l i) (srcB e (srcCtx e b g) g l i)
            ∧ o.data = memData i e (srcCtx e b g) g l)
        ∧ ∀ l ∈ lanesOf (memLanes i g p), ∀ j < (dstSpan i).2,
            emptyAt g' l ((dstSpan i).1 + j) = true ∨ regOf g l ((dstSpan i).1 + j) = none)
  ) ∧ (
  (∀ f a b, eaOf (.ld f) a b = ((a.toNat + b.toNat + f.sc.toInt * (sizeBytes f.ty.toNat : Int)) % (2 ^ 64 : Int)).toNat)
  ∧ (∀ f a b, eaOf (.st f) a b = eaOf (.ld f) a b ∧ eaOf (.lds f) a b = eaOf (.ld f) a b ∧ eaOf (.sts f) a b = eaOf (.ld f) a b
      ∧ eaOf (.ldp f) a b = eaOf (.ld f) a b ∧ eaOf (.stp f) a b = eaOf (.ld f) a b ∧ eaOf (.ldrs f) a b = eaOf (.ld f) a 0
      ∧ eaOf (.strs f) a b = eaOf (.ld f) a 0)
  ∧ (∀ f a b, eaOf (.atom f) a b = ((a.toNat + f.sc.toInt * (atomBytes f : Int)) % (2 ^ 64 : Int)).toNat
      ∧ eaOf (.cas f) a b = eaOf (.atom f) a b ∧ eaOf (.red f) a b = eaOf (.atom f) a b ∧ eaOf (.satom f) a b = eaOf (.atom f) a b)
  ∧ (∀ f a b, eaOf (.fetch f) a b = (a.toNat + b.toNat) % 2 ^ 64 ∧ eaOf (.fetch3 f) a b = a.toNat)
  ∧ ∀ n, sizeBytes n ∈ [1, 2, 4, 8, 16, 32]
  )

/-- A memory word with a misaligned lane traps ALIGN precisely before any lane accesses (R105, R106, R426, R427). For LD, ST, LDS,
STS, LDP, STP, LDRS, STRS, ATOM, RED, SATOM, CAS and FETCH at issue in a batch of one group, with every register inside the window
and nothing to wait for, and fewer than 16 words in flight: if no participating lane is a helper or has an empty source, and the
lowest one has an address that its access size does not divide, exec answers a state in which the group has raised a precise ALIGN
trap with that address over every such misaligned lane; the word itself has accessed nothing. -/
def Obligations.MisalignedAccessTraps : Prop :=
  ∀ i f, (i = Instr.ld f ∨ i = .st f ∨ i = .lds f ∨ i = .sts f ∨ i = .ldp f ∨ i = .stp f ∨ i = .ldrs f ∨ i = .strs f ∨ i = .atom f
      ∨ i = .red f ∨ i = .satom f ∨ i = .cas f ∨ i = .fetch f) →
    ∀ s b g p, issuerBatch s = some b → wordMembers b i = [(g.gid, p)] → (tickBatch s b).group? g.gid = some g →
      outsideWindow g i = false → mustWait (tickBatch s b) (srcCtx (tickBatch s b) b g) g p (partLanes g p i) i = false →
      g.flights.length < 16 → isUniform i = false →
      (∀ l ∈ lanesOf (partLanes g p i), (g.fibre l).helper = false ∧ ∀ n ∈ srcNeeds i, emptyAt g l n.1 = false) →
      ∀ l0, lowestLane (partLanes g p i) = some l0 →
        eaOf i (srcA (tickBatch s b) (srcCtx (tickBatch s b) b g) g l0 i) (srcB (tickBatch s b) (srcCtx (tickBatch s b) b g) g l0 i)
          % accessSize i ≠ 0 →
        ∃ tr, exec i s = .next ((memFin i (some b) (noteIssue s.nextId (raiseTrap (tickBatch s b) g.gid tr p) b i) b.id).unissue)
          ∧ tr.cause = .align ∧ tr.flags = 1 ∧ tr.seg = b.seg ∧ tr.woff = b.woff
          ∧ tr.addr = eaOf i (srcA (tickBatch s b) (srcCtx (tickBatch s b) b g) g l0 i) (srcB (tickBatch s b) (srcCtx (tickBatch s b) b g) g l0 i)
          ∧ ∀ l, l ∈ lanesOf tr.lanes ↔ l ∈ lanesOf (partLanes g p i)
              ∧ eaOf i (srcA (tickBatch s b) (srcCtx (tickBatch s b) b g) g l i) (srcB (tickBatch s b) (srcCtx (tickBatch s b) b g) g l i)
                  % accessSize i ≠ 0

/-- STS, STRS and STP write their lanes' bytes at their addresses and no other byte (R44, R105, R106, R107, R109, R111, R120). For STS
and STRS in a calm group (nothing in flight, no trap waiting, no stream busy, no watchpoint set), with one lane taking part, whose
target block lives: exec answers a next state in which that block's scratchpad is the old one with the lane's data, in the access
size, written at the lane's address, so every byte outside it reads as before, no other block's scratchpad changed, and no byte of
the memories did; of an access of 16 or 32 bytes, whose 8-byte parts are separate accesses (R138), either all of it or, where the
free choice falls so, one of its 8-byte parts. STP writes the lane's private bytes likewise, whole, where their sectors have not
left L1 and L1 has room for their lines. The data are the register (or the pair or four) that DST names. -/
def Obligations.ScratchAndPrivateStore : Prop :=
  (∀ i f, (i = Instr.sts f ∨ i = .strs f) →
    Completes i (accessReady i) noBar (fun e b g p => Calm e g
        ∧ ∃ l bid blk, memLanes i g p = laneBit l ∧ l < 32 ∧ targetBlock e g i (srcB e (srcCtx e b g) g l i) = some bid ∧ e.block? bid = some blk)
      (fun e b g p t => ∀ l bid blk, memLanes i g p = laneBit l → l < 32 →
        targetBlock e g i (srcB e (srcCtx e b g) g l i) = some bid → e.block? bid = some blk →
        (∃ blk', t.block? bid = some blk' ∧ blk'.scratch = Memory.write blk.scratch
            (storedFirst i e b g l).1 (storedFirst i e b g l).2)
        ∧ (∀ n, n ≠ bid → (t.block? n).map Block.scratch = (e.block? n).map Block.scratch)
        ∧ t.mem = e.mem ∧ t.hostMem = e.hostMem ∧ t.peerMem = e.peerMem))
  ∧ (∀ f, Completes (.stp f) (accessReady (.stp f)) noBar
      (fun e b g p => Calm e g ∧ ∃ l, memLanes (.stp f) g p = laneBit l ∧ l < 32
        ∧ (∃ c, e.core? g.core = some c ∧ privHeld e g.core + accessSize (.stp f) ≤ l1Size c.carve)
        ∧ ∀ n ∈ privSectors g l (eaOf (.stp f) (srcA e (srcCtx e b g) g l (.stp f)) (srcB e (srcCtx e b g) g l (.stp f))) (accessSize (.stp f)),
            n ∉ g.privAway)
      (fun e b g p t => ∀ l, memLanes (.stp f) g p = laneBit l → l < 32 → ∃ g', t.group? g.gid = some g'
        ∧ g'.priv = Memory.write g.priv (privKey l (eaOf (.stp f) (srcA e (srcCtx e b g) g l (.stp f)) (srcB e (srcCtx e b g) g l (.stp f))))
            (storeBytes f.ty.toNat (memData (.stp f) e (srcCtx e b g) g l))
        ∧ t.mem = e.mem ∧ t.hostMem = e.hostMem ∧ t.peerMem = e.peerMem))

/-- ST leaves its core's write on the way to its home, and RED performs its operation there at once (R106, R116, R120, R122, R123,
R137, R141, R143). With one lane taking part in a calm group (nothing in flight, no trap waiting, no stream busy, no watchpoint),
in a context whose FPOL is not 1 and whose address translates: ST answers a next state in which the core's waiting writes have
gained, last, one of that lane with the lane's address, target and bytes (of a store of 16 or 32 bytes all of it or, where the
free choice falls so, one of its 8-byte parts: R138), and no byte of memory has changed but page-table bits A and D. RED without
release order, on unpoisoned local memory where no waiting write of the core stands, answers a next state in which local memory is
what translation left with the operation's result written at the target: every byte outside reads as before. -/
def Obligations.GlobalStoreAndReduction : Prop :=
  (∀ f, Completes (.st f) (accessReady (.st f)) noBar (fun e b g p => Calm e g ∧ (∀ c, e.context? g.ctx = some c → c.fpol ≠ 1)
        ∧ ∃ l s1 tg c, memLanes (.st f) g p = laneBit l ∧ l < 32
          ∧ portXl e g (storedFirst (.st f) e b g l).1 .write (storedFirst (.st f) e b g l).2.length (storedFirst (.st f) e b g l).2 = (s1, .ok tg) ∧ e.core? g.core = some c)
      (fun e b g p t => ∀ l s1 tg c, memLanes (.st f) g p = laneBit l → l < 32 →
        portXl e g (storedFirst (.st f) e b g l).1 .write (storedFirst (.st f) e b g l).2.length (storedFirst (.st f) e b g l).2 = (s1, .ok tg) → e.core? g.core = some c →
        t.mem = s1.mem ∧ t.hostMem = e.hostMem ∧ t.peerMem = e.peerMem
        ∧ ∃ (c' : Core) (w : PendWrite), t.core? g.core = some c' ∧ c'.pend = c.pend ++ [w] ∧ w.ctx = g.ctx ∧ w.gid = g.gid ∧ w.lane = l ∧ w.target = tg
          ∧ w.va = (storedFirst (.st f) e b g l).1 ∧ w.bytes = (storedFirst (.st f) e b g l).2))
  ∧ (∀ f, relOrder f = false → acqOrder f = false →
      Completes (.red f) (accessReady (.red f)) noBar (fun e b g p => Calm e g ∧ (∀ c, e.context? g.ctx = some c → c.fpol ≠ 1)
        ∧ ∃ l s1 pa c, memLanes (.red f) g p = laneBit l ∧ l < 32
          ∧ portXl e g (eaOf (.red f) (srcA e (srcCtx e b g) g l (.red f)) 0) .reduce (atomBytes f)
              ((memData (.red f) e (srcCtx e b g) g l).flatMap fun w => toBytes w.toNat 8) = (s1, .ok (.local pa))
          ∧ s1.poisoned pa (atomBytes f) = false ∧ e.core? g.core = some c ∧ c.pend = [])
      (fun e b g p t => ∀ l s1 pa, memLanes (.red f) g p = laneBit l → l < 32 →
        portXl e g (eaOf (.red f) (srcA e (srcCtx e b g) g l (.red f)) 0) .reduce (atomBytes f)
          ((memData (.red f) e (srcCtx e b g) g l).flatMap fun w => toBytes w.toNat 8) = (s1, .ok (.local pa)) →
        ∃ v, atomNew (.red f) (ofBytes (s1.readPa pa (atomBytes f))) (memData (.red f) e (srcCtx e b g) g l) = some v
          ∧ t.mem = Memory.write s1.mem pa (toBytes v (atomBytes f)) ∧ t.hostMem = e.hostMem ∧ t.peerMem = e.peerMem))

/-- A load's result is its bytes, little-endian, extended as TY says (R44, R109, R111, R120, R137, R140, R454). Performing a lane of
LDS or LDRS gives the words that the block's scratchpad bytes at its address make; LDP those of the lane's private bytes, once the
sectors of theirs that have left L1 are filled again (if none has, nothing is filled); LD, where its line is in no L1 copy and
under no waiting write of the core, those that local GDDR holds at the translated address, and leaves every byte of memory as
translation left it. A size of 16 or 32 bytes makes two or four registers; a smaller one is sign-extended under a signed code and
zero-extended otherwise. A poisoned byte holds the lane with POISON instead. -/
def Obligations.LoadedValues : Prop :=
  (∀ s g fl op blk, (fl.kind = .load .scratch ∨ fl.kind = .load .remote) → s.block? op.tgt = some blk → (g.fibre op.lane).helper = false →
    (performLane s g fl op).2 = if scratchPoisoned blk op.ea fl.size then .hold (.poison op.ea)
      else .done (loadWords (fieldsOfInstr fl.instr).ty.toNat (Memory.read blk.scratch op.ea fl.size)))
  ∧ (∀ s g fl op g1, fl.kind = .load .priv → (g.fibre op.lane).helper = false → (privFill s g op.lane op.ea fl.size).group? g.gid = some g1 →
      privLate (privFill s g op.lane op.ea fl.size) g op.lane op.ea fl.size = false →
      (performLane s g fl op).2 = if (privSectors g1 op.lane op.ea fl.size).any (fun x => g1.privPoison.any fun p => p.1 == x) then .hold (.poison op.ea)
        else .done (loadWords (fieldsOfInstr fl.instr).ty.toNat (Memory.read g1.priv (op.lane * 2 ^ 32 + op.ea) fl.size)))
  ∧ (∀ s g lane ea n, s.group? g.gid = some g → (∀ x ∈ privSectors g lane ea n, x ∉ g.privAway) →
      privFill s g lane ea n = s ∧ privLate s g lane ea n = false)
  ∧ (∀ s g fl op s1 pa, fl.kind = .load .global → portXl s g op.ea .read fl.size [] = (s1, .ok (.local pa)) → l1Holds s1 g op.ea = false →
      corePend s1 g.core g.ctx = [] → pa % 128 = op.ea % 128 → op.ea % 128 + fl.size ≤ 128 → s1.poisoned pa fl.size = false →
      (performLane s g fl op).2 = .done (loadWords (fieldsOfInstr fl.instr).ty.toNat (Memory.read s1.mem pa fl.size))
        ∧ (performLane s g fl op).1.mem = s1.mem)
  ∧ (∀ ty bs, (ty = 1 ∨ ty = 2) → (loadWords ty bs).length = sizeBytes ty / 8)
  ∧ (∀ ty bs, ty ≠ 1 → ty ≠ 2 → bs.length = sizeBytes ty →
      loadWords ty bs = [if ty = 4 ∨ ty = 8 ∨ ty = 12 then BitVec.ofInt 64 ((BitVec.ofNat (8 * sizeBytes ty) (ofBytes bs)).toInt)
        else BitVec.ofNat 64 (ofBytes bs)])

/-- An atomic returns the old value (RED nothing) and leaves the operation's result, or CAS's swap only where the comparison holds
(R122, R123, R124, R143). Performing a lane of SATOM without ordering gives the old pattern of its scratchpad bytes and leaves the
operation's result there, every other scratchpad byte untouched. Performing a lane of ATOM or CAS without ordering on unpoisoned
local memory, with no write of its core waiting, gives the old pattern and leaves local memory with the new pattern written at the
target (for CAS only where the old pattern equals the comparand); RED does the same and returns nothing. Exchange leaves the
operand, addition on integers wraps, AND, OR and XOR act bit by bit. -/
def Obligations.AtomicPerforms : Prop :=
  (∀ s g fl op blk f, fl.kind = .atomic .scratch → fl.instr = .satom f → fl.uniform = false → relOrder f = false → acqOrder f = false →
    (g.fibre op.lane).helper = false → s.block? op.tgt = some blk → scratchPoisoned blk op.ea fl.size = false →
    (performLane s g fl op).2 = .done (atomOuts fl.instr (ofBytes (Memory.read blk.scratch op.ea fl.size)))
      ∧ ∃ blk', (performLane s g fl op).1.block? op.tgt = some blk'
        ∧ blk'.scratch = Memory.write blk.scratch op.ea (toBytes ((atomNew fl.instr (ofBytes (Memory.read blk.scratch op.ea fl.size)) op.data).getD
            (ofBytes (Memory.read blk.scratch op.ea fl.size))) fl.size))
  ∧ (∀ s g fl op s1 pa c f, fl.kind = .atomic .global → (fl.instr = .atom f ∨ fl.instr = .cas f) → fl.uniform = false →
      relOrder f = false → acqOrder f = false → (g.fibre op.lane).helper = false →
      portXl s g op.ea .atomic (atomBytes f) (op.data.flatMap fun w => toBytes w.toNat 8) = (s1, .ok (.local pa)) → s1.core? g.core = some c → c.pend = [] → s1.poisoned pa (atomBytes f) = false →
      (performLane s g fl op).2 = .done (atomOuts fl.instr (ofBytes (s1.readPa pa (atomBytes f))))
        ∧ (performLane s g fl op).1.mem = (match atomNew fl.instr (ofBytes (s1.readPa pa (atomBytes f))) op.data with
            | some v => Memory.write s1.mem pa (toBytes v (atomBytes f))
            | none => s1.mem))
  ∧ (∀ s g fl op s1 pa c f, fl.kind = .atomic .global → fl.instr = .red f → fl.uniform = false → relOrder f = false →
      acqOrder f = false → (g.fibre op.lane).helper = false →
      portXl s g op.ea .reduce (atomBytes f) (op.data.flatMap fun w => toBytes w.toNat 8) = (s1, .ok (.local pa)) →
      s1.core? g.core = some c → c.pend = [] → s1.poisoned pa (atomBytes f) = false →
      (performLane s g fl op).2 = .done []
        ∧ (performLane s g fl op).1.mem = (match atomNew fl.instr (ofBytes (s1.readPa pa (atomBytes f))) op.data with
            | some v => Memory.write s1.mem pa (toBytes v (atomBytes f))
            | none => s1.mem))
  ∧ (∀ i old, atomOuts i old = if opOf i = 0xA7 then []
      else if (fieldsOfInstr i).sb.getLsbD 5 then [w64 old, w64 (old / 2 ^ 64)] else [w64 old])
  ∧ (∀ f old data, f.sb.getLsbD 5 = false → atomNew (.cas f) old data =
      if old = (nth data 0).toNat % 2 ^ (8 * atomBytes f) then some ((nth data 1).toNat % 2 ^ (8 * atomBytes f)) else none)
  ∧ (∀ t old x, t.isFloat = false → atomOp t 0 old x = (old + x) % 2 ^ t.width ∧ atomOp t 3 old x = old &&& x
      ∧ atomOp t 4 old x = old ||| x ∧ atomOp t 5 old x = old ^^^ x ∧ atomOp t 6 old x = x)

/-- A waiting write performs at its home, and a private line is written back there (R137, R139, R454, R111, R112). For a waiting write
of a core that no older waiting write of its context overlaps, whose number is its own, in a context whose job is not frozen: exec
answers a next state in which the write no longer waits and every other one still does; if its home is local GDDR, memory is the
old memory with its bytes written there, so a read of them gives them and every byte outside them reads as before, and the poison
of every sector it covers whole is cleared (a sector that its word covers with other writes of it clears once the last of them
performs: such a write carries the sector); the host's and the peers' memories change only for writes that go there. While the job
is frozen nothing changes. A write in canonical memory leaves every byte outside it as it was. For a live group whose job is not
frozen and a line of which one 32-byte sector is dirty, whose address translates for a write to local GDDR and which is not
poisoned: exec answers a next state in which local memory is what translation left with every private byte of that sector written
from the target on, no other byte changed, and the sector is dirty no more and has left L1. A line with no dirty sector changes no
memory. Where translation fails, the fault is filed and the sector is dirty no more. Where its request is held at this chip it
stays dirty. A sector that has left L1 and translates for a read is filled again with the bytes that stand at its home. That a
failed write-back loses the sector is log entry 123. -/
def Obligations.WaitingWritesAndPrivateLinesReachTheirHome : Prop :=
  (
  (∀ s core c w, s.core? core = some c → w ∈ c.pend → (c.pend.map PendWrite.id).Nodup →
    (∀ x ∈ c.pend, x.id < w.id → overlap x.va x.bytes.length w.va w.bytes.length = false ∨ x.ctx ≠ w.ctx) → memoryMay s w.ctx = true →
    ∃ t, exec (.writePerformedAtScope core w.id) s = .next t
      ∧ (∃ c', t.core? core = some c' ∧ c'.pend.map PendWrite.id = (c.pend.map PendWrite.id).filter fun n => n != w.id)
      ∧ (∀ pa, w.target = .local pa → t.mem = Memory.write s.mem pa w.bytes ∧ t.hostMem = s.hostMem ∧ t.peerMem = s.peerMem
          ∧ (w.clears = [] → t.poison = clearPoison s.poison pa w.bytes.length))
      ∧ (∀ a, w.target = .host a → t.hostMem = Memory.write s.hostMem a w.bytes ∧ t.mem = s.mem ∧ t.peerMem = s.peerMem)
      ∧ (∀ ch va, w.target = .peer ch va → t.peerMem = Memory.write s.peerMem (ch * 2 ^ 57 + va) w.bytes ∧ t.mem = s.mem ∧ t.hostMem = s.hostMem))
  ∧ (∀ s core c w, s.core? core = some c → w ∈ c.pend → (c.pend.map PendWrite.id).Nodup → memoryMay s w.ctx = false →
      exec (.writePerformedAtScope core w.id) s = .next s)
  ∧ (∀ m a bs x, Memory.wf m = true → (x < a ∨ a + bs.length ≤ x) → Memory.get (Memory.write m a bs) x = Memory.get m x)
  ) ∧ (
  (∀ s gid g line sec s1 pa, s.group? gid = some g → g.privDirty.filter (fun x => (lineSectors line).contains x) = [sec] → memoryMay s g.ctx = true →
    portXl s g ((sectorVas g sec).headD 0) .write (sectorVas g sec).length ((sectorVas g sec).map fun va => Memory.get g.priv (privKeyAt g va))
      = (s1, .ok (.local pa)) → (∀ p ∈ g.privPoison, p.1 ≠ sec) →
    ∃ t, exec (.privateLineWriteback gid line) s = .next t
      ∧ t.mem = Memory.write s1.mem pa ((sectorVas g sec).map fun va => Memory.get g.priv (privKeyAt g va))
      ∧ t.hostMem = s1.hostMem ∧ t.peerMem = s1.peerMem
      ∧ ∃ g', t.group? gid = some g' ∧ sec ∉ g'.privDirty ∧ sec ∈ g'.privHome ∧ sec ∈ g'.privAway)
  ∧ (∀ s gid g line, s.group? gid = some g → (∀ x ∈ g.privDirty, (lineSectors line).contains x = false) →
      ∃ t, exec (.privateLineWriteback gid line) s = .next t ∧ t.mem = s.mem ∧ t.hostMem = s.hostMem ∧ t.peerMem = s.peerMem)
  ∧ (∀ s gid g line sec s1 x, s.group? gid = some g → g.privDirty.filter (fun x => (lineSectors line).contains x) = [sec] → memoryMay s g.ctx = true →
      portXl s g ((sectorVas g sec).headD 0) .write (sectorVas g sec).length ((sectorVas g sec).map fun va => Memory.get g.priv (privKeyAt g va))
        = (s1, .error x) →
      ∃ t g', exec (.privateLineWriteback gid line) s = .next t ∧ t.group? gid = some g' ∧ t.faults = (filePriv s1 g .write x).faults
        ∧ ((∀ k, x ≠ .held k) → sec ∉ g'.privDirty) ∧ (∀ k, x = .held k → sec ∈ g'.privDirty))
  ∧ (∀ s g sec s1 pa, s.group? g.gid = some g → Memory.wf g.priv = true → sec ∈ g.privAway → 0 < g.wg → g.plimit ≤ 2 ^ 32 →
      portXl s g ((sectorVas g sec).headD 0) .read (sectorVas g sec).length [] = (s1, .ok (.local pa)) →
      ∃ g', (privFillSector g.gid s sec).group? g.gid = some g' ∧ sec ∉ g'.privAway
        ∧ ∀ i < (sectorVas g sec).length, Memory.get g'.priv (privKeyAt g (nth (sectorVas g sec) i)) = Memory.get s1.mem (pa + i))
  )

/-- Segment ends send each lane to its successor, and quitting ends fibres, groups and blocks (R73, R77, R86, R94, R95, R79, R97).
When nothing holds the word back and every successor lies in the segment table, exec answers a next state in which each present
lane stands in an entry at the first word of its successor (the immediate; for NEXTP the immediate where the selected predicate,
negated if asked, is true, else the next segment; for NEXTX and RET bits 17 to 0 of its source), with no loop level, in no batch
any more, and for the words other than CALL with its pending results visible. CALL's destination holds c + 1 in each present lane,
where its pending results are older than the word. When nothing holds the word back and the group is not in its handler: exec
answers a next state in which the present lanes hold no live fibre and stand in no entry and no batch; where the group keeps a
live non-helper fibre it stays, and the fibres of every quad that keeps one are untouched. Where it keeps none and nothing is in
flight, the group is gone, and with it its block if no other group of it lives. -/
def Obligations.SegmentEndsSendOnOrQuit : Prop :=
  (
  (∀ i succ, ((∃ f, i = Instr.next f ∧ succ = succImm f) ∨ (∃ f, i = .nextp f ∧ succ = succPred f)
      ∨ (∃ f, i = .nextx f ∧ succ = succReg i) ∨ (∃ f, i = .call f ∧ succ = succImm f) ∨ (∃ f, i = .ret f ∧ succ = succReg i)) →
    Completes i alwaysReady (succBar succ) always (fun e b g p t =>
      (∀ x ∈ t.batches, ∀ m ∈ x.members, m.gid = g.gid → m.lanes &&& p = 0)
      ∧ ∃ g', t.group? g.gid = some g' ∧ ∀ l ∈ lanesOf p,
          (∃ y ∈ g'.entries, l ∈ lanesOf y.lanes ∧ y.quad = l / 4 ∧ y.seg = succ e b g l ∧ y.woff = 0 ∧ y.loops = [] ∧ y.rep = none ∧ y.wait = none)
          ∧ ((∀ f, i ≠ .call f) → g'.fibre l = settleFibre (g.fibre l))))
  ∧ (∀ f e b g l, succImm f e b g l = (imm27 f).toNat % 2 ^ 18)
  ∧ (∀ f e b g l, succPred f e b g l = if ((g.fibre l).pred ((imm27 f).toNat / 2 ^ 18 % 16)) != (imm27 f).getLsbD 22
      then (imm27 f).toNat % 2 ^ 18 else b.seg + 1)
  ∧ (∀ i e b g l, succReg i e b g l = (srcA e (srcCtx e b g) g l i).toNat % 2 ^ 18)
  ∧ (∀ f, Completes (.call f) alwaysReady (succBar (succImm f))
      (fun e _ g p => (dstUse (rowOf (.call f)) f).isReg = true ∧ f.dst.toNat < 0x80 ∧ ∀ l ∈ lanesOf p, ∀ r ∈ (g.fibre l).pend, r.seq < e.nextId)
      (fun _ b g p t => ∃ g', t.group? g.gid = some g' ∧ ∀ l ∈ lanesOf p, ∀ n, vIndex g f.dst.toNat = some n → n < (g.fibre l).v.length →
        (g'.fibre l).dstVal (.v n) = BitVec.ofNat 64 (b.seg + 1)))
  ) ∧ (
  ∀ f, Completes (.quit f) alwaysReady noBar (fun _ _ g _ => g.frame = none ∧ g.fibres.length ≤ 32 ∧ g.wg = g.fibres.length)
    (fun e _ g p t =>
      (g.workers &&& ~~~p ≠ 0 → ∃ g', t.group? g.gid = some g'
        ∧ (∀ l ∈ lanesOf p, (g'.fibre l).live = false ∧ (∀ y ∈ g'.entries, l ∉ lanesOf y.lanes))
        ∧ (∀ x ∈ t.batches, ∀ m ∈ x.members, m.gid = g.gid → m.lanes &&& p = 0)
        ∧ ∀ l < g.fibres.length, l ∉ lanesOf p → (g.workers &&& ~~~p) >>> (l / 4 * 4) &&& 0xF#32 ≠ 0 → g'.fibre l = g.fibre l)
      ∧ (g.workers &&& ~~~p = 0 → g.flights = [] → g.aside = [] → t.group? g.gid = none
        ∧ ((∀ x ∈ e.groups, x.bid = g.bid → x.gid ≠ g.gid → x.alive = false) → t.block? g.bid = none)))
  )

/-- FORK makes a child on the lowest free lane for each forking fibre and writes the predicate (R96, R30, R33). When nothing holds the
word back, for each participating lane in increasing order that finds a free lane (of its quad for a helper, of its group
otherwise; a helper may fork only helpers): a child lives there with the parent's v0 to v7, other registers zero and full, STATUS
at reset but for DRM and the enables, and HELPER as asked; it stands in an entry at the named segment; and the parent awaits true
in the predicate. A lane that finds none awaits false. With one forking lane the child's lane is the lowest free one. A free lane
has no live fibre and no pending result. Which lanes are free is log entry 196, and the child's SAFEORD log entry 107. -/
def Obligations.ForkMakesChildren : Prop :=
  (∀ f, Completes (.fork f) (forkReady f) (forkBar f)
    (fun _ _ g p => (∀ l ∈ lanesOf p, (g.fibre l).live = true) ∧ g.wg = g.fibres.length ∧ g.wg ≤ 32)
    (fun e _ g p t => ∃ g', t.group? g.gid = some g' ∧ ∀ q ∈ forkPlan e g (forkHelper f) (lanesOf (g.participants p f)),
      (forkPred f ≠ 0 → (⟨e.nextId, .p (forkPred f), if q.2.isSome then 1 else 0, 2⟩ : Pend) ∈ (g'.fibre q.1).pend)
      ∧ ∀ n, q.2 = some n →
          (g'.fibre n).live = true ∧ (g.fibre n).live = false ∧ (g'.fibre n).helper = forkHelper f
          ∧ (∀ j < 8, j < g.win → nth (g'.fibre n).v j = { nth (g.fibre q.1).v j with full := true })
          ∧ (∀ j, 8 ≤ j → j < g.win → nth (g'.fibre n).v j = Reg.zero)
          ∧ (∀ j, 1 ≤ j → j < 16 → (g'.fibre n).pred j = false)
          ∧ (g'.fibre n).status.extractLsb' 21 3 = (g.fibre q.1).status.extractLsb' 21 3
          ∧ (g'.fibre n).status.extractLsb' 25 5 = (g.fibre q.1).status.extractLsb' 25 5
          ∧ ∃ y ∈ g'.entries, n ∈ lanesOf y.lanes ∧ y.seg = forkSeg f ∧ y.woff = 0))
  ∧ (∀ s g l, forkPlan s g true [l] = [(l, (freeLanes s g).find? fun n => n / 4 == l / 4)])
  ∧ (∀ s g l, forkPlan s g false [l] = [(l, if (g.fibre l).helper then none else (freeLanes s g).head?)])
  ∧ (∀ s g l, l ∈ freeLanes s g → l < g.wg ∧ (g.fibre l).live = false ∧ ∀ fl ∈ g.flights, fl.uniform = false → inMask fl.pending l = true →
      fl.noResult = true ∨ fl.kind = .qput)

/-- LOOP pushes a level for its body, LOOP_PASS_END counts it down or pops it, and REP makes the next word repeat (R89, R98, R99).
When nothing holds it back, LOOP answers a next state in which the batch's group has a new innermost level with the count of its
source, the body that follows the word and its length; with a count above 0 the batch stands at the body, and with count 0 at the
word after it, where the body ends before the segment does. LOOP_PASS_END for a batch of one group with lanes in it at the end of
its innermost body starts the body again with the count one lower while more than one pass is left, and otherwise pops the level
(where the next level, if any, is not spent) and goes on. REP leaves the batch at the next word with n repeats to go and the steps
of its immediate. -/
def Obligations.LoopAndRepeatSetTheirCounts : Prop :=
  (∀ f, Completes (.loop f) alwaysReady (loopBar f) (fun e b _ _ => e.batch? b.id = some b ∧ b.rep = none)
    (fun e b g p t => ∀ l0, lowestLane p = some l0 → ∃ b' m m', t.batch? b.id = some b' ∧ b.members = [m] ∧ b'.members = [m']
      ∧ m'.loops = ⟨(srcA e (srcCtx e b g) g l0 (.loop f)).toNat, b.woff + wordCount (.loop f), (imm18 f).toNat % 1024 + 1⟩ :: m.loops
      ∧ ((srcA e (srcCtx e b g) g l0 (.loop f)).toNat ≠ 0 → b'.woff = b.woff + wordCount (.loop f))
      ∧ ((srcA e (srcCtx e b g) g l0 (.loop f)).toNat = 0 → b.woff + wordCount (.loop f) + ((imm18 f).toNat % 1024 + 1) < segLen e b g.ctx →
          b'.woff = b.woff + wordCount (.loop f) + ((imm18 f).toNat % 1024 + 1))))
  ∧ (∀ s b m l rest, s.batch? b.id = some b → b.members = [m] → m.lanes ≠ 0 → m.loops = l :: rest → b.rep = none → b.woff = l.first + l.len →
      (∀ x ∈ rest, x.count > 0) →
      ∃ t b' m', exec (.loopPassEnd b.id) s = .next t ∧ t.batch? b.id = some b' ∧ b'.members = [m']
        ∧ (2 ≤ l.count → m'.loops = { l with count := l.count - 1 } :: rest ∧ b'.woff = l.first)
        ∧ (l.count ≤ 1 → m'.loops = rest ∧ b'.woff = b.woff))
  ∧ (∀ f, Completes (.rep f) alwaysReady (repBar f) (fun e b _ _ => e.batch? b.id = some b ∧ b.rep = none)
    (fun _ b _ _ t => ∃ b' r, t.batch? b.id = some b' ∧ b'.rep = some r ∧ b'.woff = b.woff + wordCount (.rep f)
      ∧ r.left = (imm18 f).toNat % 64 + 1 ∧ r.done = 0
      ∧ r.sd = repStepOf ((imm18 f).toNat / 2 ^ 6 % 4) ∧ r.sa = repStepOf ((imm18 f).toNat / 2 ^ 8 % 4)
      ∧ r.sb = repStepOf ((imm18 f).toNat / 2 ^ 10 % 4) ∧ r.sc = repStepOf ((imm18 f).toNat / 2 ^ 12 % 4)))
  ∧ repStepOf 0 = 0 ∧ repStepOf 1 = 1 ∧ repStepOf 2 = 2 ∧ repStepOf 3 = 4

/-- BAR and BARA arrive with the whole group and turn the phase at its count; BAR and BARW then wait (R100, R144). In a barrier phase
whose count is set, or set by this word: if all live non-helper fibres of the group are present with true guards and none has
arrived before, BARA answers a next state in which the block's barrier counts one more arrival, or, where that reaches the count,
has turned: the next phase, with no arrivals. BAR does the same and the batch then waits at the barrier; BARW leaves the barrier
as it is and the batch waits. A batch whose wait is over goes on past the word. That a turn clears the count and that repeated
complete arrivals count is log entry 115; how a word waits is log entry 116. -/
def Obligations.BlockBarrierArrivals : Prop :=
  (∀ i f, (i = Instr.bar f ∨ i = .bara f) → ∀ ready, (i = .bar f → ready = barReady i) → (i = .bara f → ready = releaseReady i) →
    Completes i ready (arriveBar i) (fun e b g p => e.batch? b.id = some b ∧ g.workers ≠ 0 ∧ g.actors p f = g.workers ∧ (arriveOf g.bars (barIdx i)).lanes = 0
        ∧ ∃ blk n, e.block? g.bid = some blk ∧ barIdx i < blk.bars.length ∧ (nth blk.bars (barIdx i)).zero = false
          ∧ (∀ x ∈ blk.bars, x.expected = none → x.arrived = 0)
          ∧ (((nth blk.bars (barIdx i)).expected = some n)
              ∨ ((nth blk.bars (barIdx i)).expected = none ∧ ∀ l ∈ lanesOf (g.actors p f), barCount i e b g l = some n)))
      (fun e b g p t => ∀ blk n, e.block? g.bid = some blk →
        (((nth blk.bars (barIdx i)).expected = some n)
            ∨ ((nth blk.bars (barIdx i)).expected = none ∧ ∀ l ∈ lanesOf (g.actors p f), barCount i e b g l = some n)) →
        ∃ blk' b', t.block? g.bid = some blk' ∧ t.batch? b.id = some b'
          ∧ ((nth blk.bars (barIdx i)).arrived + 1 ≥ n →
              (nth blk'.bars (barIdx i)).phase = (nth blk.bars (barIdx i)).phase + 1 ∧ (nth blk'.bars (barIdx i)).arrived = 0)
          ∧ ((nth blk.bars (barIdx i)).arrived + 1 < n →
              (nth blk'.bars (barIdx i)).phase = (nth blk.bars (barIdx i)).phase
                ∧ (nth blk'.bars (barIdx i)).arrived = (nth blk.bars (barIdx i)).arrived + 1 ∧ (nth blk'.bars (barIdx i)).expected = some n)
          ∧ (i = .bar f → b'.wait = some (.bar (barIdx i) []) ∧ b'.woff = b.woff)
          ∧ (i = .bara f → b'.wait = none ∧ (b.rep = none → b'.woff = b.woff + wordCount i))))
  ∧ (∀ f, Completes (.barw f) (barwReady (.barw f)) noBar (fun e b _ _ => e.batch? b.id = some b)
      (fun e b g _ t => t.blocks = e.blocks ∧ ∃ b' ph, t.batch? b.id = some b' ∧ b'.woff = b.woff ∧ b'.wait = some (.bar (barIdx (.barw f)) [(g.gid, ph)])
        ∧ ph = (match (arriveOf g.bars (barIdx (.barw f))).phase with
            | some q => if (arriveOf g.bars (barIdx (.barw f))).observed = some q then (nth ((e.block? g.bid).getD default).bars (barIdx (.barw f))).phase else q
            | none => (nth ((e.block? g.bid).getD default).bars (barIdx (.barw f))).phase)))
  ∧ (∀ i f, (i = Instr.bar f ∨ i = .barw f) → ∀ s b g m ps, issuerBatch s = some b → s.batch? b.id = some b → b.wait = some (.bar (barIdx i) ps) →
      b.members = [m] → m.gid = g.gid → m.present false ≠ 0 → (tickBatch s b).group? g.gid = some g →
      fullVerdict i (if i = .bar f then barReady i else barwReady i) (if i = .bar f then arriveBar i else noBar) (tickBatch s b) b g (m.present false) = .ok →
      ∃ t b', exec i s = .next t ∧ t.issue = none ∧ t.batch? b.id = some b' ∧ b'.wait = none ∧ (b.rep = none → b'.woff = b.woff + wordCount i))

/-- ELECT, VOTE, PLOP, PMOV and LIVE put the values of their rules on the way (R101, R103, R83). When nothing holds the word back:
ELECT leaves every participating lane awaiting true in the lowest candidate and false in the others; VOTE all and any leave every
candidate awaiting the conjunction or disjunction of the named predicate over the candidates, and ballot a register with their
bits; PLOP leaves the bit of its table that three predicates select; PMOV to a register leaves STATUS[15:0] with bit 0 set; PMOV
from a register leaves each predicate 1 to 15 that the mask selects awaiting its bit; LIVE leaves the masks of the group's live
non-helper and helper fibres in the halves of its register. All have distance 2, and p0 takes nothing. One value for a k
destination, that of the lowest lane, is log entry 109. -/
def Obligations.PredicateWordsResult : Prop :=
  (∀ f, Completes (.elect f) alwaysReady noBar always (fun e _ g p t => ∃ g', t.group? g.gid = some g' ∧ ∀ l ∈ lanesOf (g.participants p f),
    f.dst.toNat ≠ 0 → (⟨e.nextId, .p f.dst.toNat, if lowestLane (g.actors p f) = some l then 1 else 0, 2⟩ : Pend) ∈ (g'.fibre l).pend))
  ∧ (∀ f, Completes (.vote f) alwaysReady noBar always (fun e _ g p t => ∃ g', t.group? g.gid = some g' ∧ ∀ l ∈ lanesOf (g.actors p f),
      (f.sc.toNat % 4 = 0 → f.dst.toNat ≠ 0 → (⟨e.nextId, .p f.dst.toNat,
        if ∀ k ∈ lanesOf (g.actors p f), (g.fibre k).pred (f.sa.toNat % 16) = true then 1 else 0, 2⟩ : Pend) ∈ (g'.fibre l).pend)
      ∧ (f.sc.toNat % 4 = 1 → f.dst.toNat ≠ 0 → (⟨e.nextId, .p f.dst.toNat,
        if ∃ k ∈ lanesOf (g.actors p f), (g.fibre k).pred (f.sa.toNat % 16) = true then 1 else 0, 2⟩ : Pend) ∈ (g'.fibre l).pend)
      ∧ (f.sc.toNat % 4 = 2 → ∀ d, dstAt g f.dst.toNat = some d → ∃ w : Word, (⟨e.nextId, d, w, 2⟩ : Pend) ∈ (g'.fibre l).pend
        ∧ ∀ k, w.getLsbD k = true ↔ k ∈ lanesOf (g.actors p f) ∧ (g.fibre k).pred (f.sa.toNat % 16) = true)))
  ∧ (∀ f, Completes (.plop f) alwaysReady noBar always (fun e _ g p t => ∃ g', t.group? g.gid = some g' ∧ ∀ l ∈ lanesOf (g.participants p f),
      f.dst.toNat ≠ 0 → (⟨e.nextId, .p f.dst.toNat, if plopBit f (g.fibre l) then 1 else 0, 2⟩ : Pend) ∈ (g'.fibre l).pend))
  ∧ (∀ f x, plopBit f x = bitN ((imm18 f).toNat / 256) ((if x.pred (f.sa.toNat % 16) then 4 else 0) + (if x.pred ((imm18 f).toNat % 16) then 2 else 0)
      + (if x.pred ((imm18 f).toNat / 16 % 16) then 1 else 0)))
  ∧ (∀ f, f.sc.getLsbD 0 = false → Completes (.pmov f) alwaysReady noBar always
      (FixedPost (.pmov f) (fun x => outW ((x.status &&& 0xFFFF#64) ||| 1#64))))
  ∧ (∀ f, f.sc.getLsbD 0 = true → Completes (.pmov f) alwaysReady noBar always (fun e b g p t => ∃ g', t.group? g.gid = some g' ∧
      ∀ l ∈ lanesOf (g.participants p f), ∀ n, 1 ≤ n → n < 16 → (srcB e (srcCtx e b g) g l (.pmov f)).getLsbD n = true →
        (⟨e.nextId, .p n, if (srcA e (srcCtx e b g) g l (.pmov f)).getLsbD n then 1 else 0, 2⟩ : Pend) ∈ (g'.fibre l).pend))
  ∧ (∀ f, Completes (.live f) alwaysReady noBar always (fun e b g p t =>
      FixedPost (.live f) (fun _ => outW (BitVec.ofNat 64 (g.workers.toNat + g.helpers.toNat * 2 ^ 32))) e b g p t))

/-- NOP only counts as a word, YIELD makes its batch the youngest, SLEEP keeps it from issuing for n to n + 64 clocks (R93, R102). A
word of opcode 0 decodes to a NOP only if every field but S is zero, and to ILLEGAL_FIELD otherwise. When nothing holds the word
back, NOP, YIELD and SLEEP answer a next state in which every register, flag and byte of memory and everything else outside the
batch is as when the word's effect began, the batch stands at the next word, and: YIELD has set the batch's entry time to the
clock, so that every batch of the same priority that is older goes before it; SLEEP with n above 0 keeps the batch from issuing
until at least n and at most n + 64 clocks on, and with n = 0 does what NOP does. When the effect begins, the word has counted as
one for R83 in every lane of the batch, and with S = 1 the present lanes have passed its safe point. SLEEP_END lets a batch whose
time has run out issue again. A sleep holds back no result already pending. A stop of the context drops the rest of a sleep: the
resume point of the group's lanes is the word after SLEEP, where the batch stands, and names no time. -/
def Obligations.NopYieldAndSleep : Prop :=
  (∀ w lit : Word, wordBits w 54 8 = 0 → w.getLsbD 62 = false → decode false w lit =
    if w &&& 0x7FFFFFFFFFFFFFFF#64 = 0 then .ok (.nop { (default : Fields) with safe := w.getLsbD 63 }) else .error .illegalField)
  ∧ (∀ i f, (i = Instr.nop f ∨ i = .yield f ∨ i = .sleep f) → Completes i alwaysReady noBar (fun e b _ _ => e.batch? b.id = some b ∧ b.rep = none)
      (fun e b g _ t => OnlyGroup g.gid e t ∧ t.group? g.gid = e.group? g.gid ∧ ∃ b', t.batch? b.id = some b' ∧ b'.woff = b.woff + 1
        ∧ b'.members = b.members
        ∧ (i = .nop f → b'.time = b.time ∧ b'.sleepUntil = b.sleepUntil)
        ∧ (i = .yield f → b'.time = e.clock)
        ∧ (i = .sleep f → let n := (imm18 f).toNat % 2 ^ 16
            b'.time = b.time ∧ (n = 0 → b'.sleepUntil = 0) ∧ (0 < n → e.clock + n ≤ b'.sleepUntil ∧ b'.sleepUntil ≤ e.clock + n + 64))))
  ∧ (∀ s b m g i p, b.wait = none → b.members = [m] → s.group? m.gid = some g → g.fibres.length ≤ 32 → ∃ g1, (entered i s b g p).group? m.gid = some g1
      ∧ (stopBit i = false → ∀ l, g1.fibre l = if inMask m.lanes l then tickFibre (g.fibre l) else g.fibre l)
      ∧ (stopBit i = true → ∀ o c ord n, s.object? g.ctx b.obj = some o → s.context? g.ctx = some c → o.safeAt b.seg b.woff = some (ord, n) →
          ∀ l ∈ lanesOf p, l < g.fibres.length → (g1.fibre l).safeord = ord))
  ∧ (∀ s b, ∃ prio slot, batchKey s b = issueKey prio b.time slot ∧ ∀ time' slot', slot' < 8 → time' < b.time → issueKey prio time' slot' < batchKey s b)
  ∧ (∀ s b, s.batch? b.id = some b → b.sleepUntil ≤ s.clock → ∃ t, exec (.sleepEnd b.id) s = .next t ∧ t.batch? b.id = some { b with sleepUntil := 0 })
  ∧ (∀ s b, batchMay s b = true → b.sleepUntil ≤ s.clock)
  ∧ (∀ s id n gid seq, flightMay (s.modBatch id fun b => { b with sleepUntil := n }) gid seq = flightMay s gid seq)
  ∧ (∀ s b n m, memberPos s { b with sleepUntil := n } m = memberPos s b m)
  ∧ (∀ s b m, m.loops = [] → b.rep = none → memberPos s b m = (b.woff, [], none))

/-- BATCH_FORM makes a batch of ready entries, BATCH_ISSUE puts the first batch in the issue slot, a starved entry goes alone (R76,
R77, R81, R82). If a scheduler forms a batch now and no entry of it is starved, BATCH_FORM answers a next state with one batch
more, at the oldest ready unit's segment and word, of the units gathered for it. If it forms none, has not issued in this clock
and nothing is at issue, BATCH_ISSUE answers a next state in which the batch that goes first by context priority, age and slot
stands at issue and the scheduler has issued, where no breakpoint stops it. A ready entry that has waited 4096 clocks is issued by
STARVED_ENTRY_ISSUE as a batch of its own, where no breakpoint stops it. That a starved entry is a batch of its own is log entry
199, and that BATCH_ISSUE comes when nothing is at issue log entry 1. -/
def Obligations.SorterFormsAndIssuesBatches : Prop :=
  (∀ s core sched u us, formsNow s core sched = true → starved s core sched = none → newBatch s core sched = u :: us →
    ∃ (t : State) (b : Batch), exec (.batchForm core sched) s = .next t ∧ t.batches = s.batches ++ [b] ∧ b.id = s.nextId ∧ b.core = core ∧ b.sched = sched
      ∧ b.obj = u.obj ∧ b.seg = u.seg ∧ b.woff = u.woff ∧ b.rep = u.rep ∧ b.wait = u.wait ∧ b.members = membersOf (u :: us)
      ∧ b.time = minOf ((u :: us).map EntryUnit.time) ∧ t.issue = s.issue ∧ t.mem = s.mem)
  ∧ (∀ s core sched b, s.issue = none → s.issued.contains (core, sched) = false → formsNow s core sched = false → bestBatch s core sched = some b →
      breakHit s b = none →
      ∃ t, exec (.batchIssue core sched) s = .next t ∧ t.issue = some (.batch b.id) ∧ (core, sched) ∈ t.issued ∧ t.groups = s.groups ∧ t.mem = s.mem
        ∧ b ∈ s.batches ∧ b.core = core ∧ b.sched = sched ∧ batchMay s b = true
        ∧ ∀ x ∈ s.batches, x.core = core → x.sched = sched → batchMay s x = true → batchKey s b ≤ batchKey s x)
  ∧ (∀ s core sched u, formsNow s core sched = true → starved s core sched = some u →
      (∀ x, (takeUnits s core sched [u]).1.batch? s.nextId = some x → breakHit (takeUnits s core sched [u]).1 x = none) →
      ∃ (t : State) (b : Batch), exec (.starvedEntryIssue core sched) s = .next t ∧ t.batches = s.batches ++ [b] ∧ t.issue = some (.batch b.id) ∧ b.members = membersOf [u]
        ∧ b.seg = u.seg ∧ b.woff = u.woff ∧ s.clock ≥ u.since + 4096)

/-- Fences wait and order; prefetches bring lines and change no value (R126, R127, R144, R145, R151, R118, R128, R129). When nothing
holds it back (the accesses it orders have performed), FENCE and FENCERO answer a next state in which no group changed and: a
releasing FENCE (not acq) at cluster scope or wider leaves no write of a participating lane waiting in its core; an acquiring
FENCE (not rel) at such a scope, and FENCERO, leave no L1 copy of a line of the context in the core where some lane takes part;
FENCERO leaves no Grinder line of the context there. Where no write waits in the core, every byte of memory is as it was. When
nothing holds it back, PREF answers a next state in which no group, block, queue and no byte of host or peer memory changed, no
byte of canonical local memory did but for the accessed bits that a walk sets in page-table entries, and every core keeps its
waiting writes; with cache hint 2 (.nl1) no L1 gains a line. IPREF of a segment in the table adds lines of that segment, at most
64, to what its core asks for, and changes no group and no memory. ICACHE_FILL, with a line wanted by the core, answers a next
state in which that line is no longer asked for by IPREF and, if its page may be fetched from, is held; no set that held at most
four lines holds more, no group changed, and no byte of host or peer memory did. -/
def Obligations.FencesAndPrefetches : Prop :=
  (
  (∀ f, Completes (.fence f) (fenceReady (.fence f)) noBar always (fun e _ g p t => t.groups = e.groups ∧ t.blocks = e.blocks ∧ t.contexts = e.contexts
      ∧ ∀ c, e.core? g.core = some c → ∃ c', t.core? g.core = some c'
        ∧ (f.sc.toNat / 8 % 4 ≠ 0 → 2 ≤ (Scope.ofCode (f.sc.toNat % 8)).rank →
            ∀ w ∈ c'.pend, w.ctx = g.ctx → w.gid = g.gid → w.lane ∉ lanesOf (g.actors p f))
        ∧ (f.sc.toNat / 8 % 4 ≠ 1 → 2 ≤ (Scope.ofCode (f.sc.toNat % 8)).rank → g.actors p f ≠ 0 → ∀ x ∈ c'.l1, x.ctx ≠ g.ctx)
        ∧ (c.pend = [] → t.mem = e.mem ∧ t.hostMem = e.hostMem ∧ t.peerMem = e.peerMem)))
  ∧ (∀ f, Completes (.fencero f) (fenceReady (.fencero f)) noBar always (fun e _ g p t => t.groups = e.groups ∧ t.mem = e.mem ∧ t.hostMem = e.hostMem
      ∧ t.peerMem = e.peerMem ∧ t.blocks = e.blocks ∧ t.contexts = e.contexts
      ∧ ∀ c, e.core? g.core = some c → g.actors p f ≠ 0 → ∃ c', t.core? g.core = some c'
        ∧ (∀ x ∈ c'.grinder, x.ctx ≠ g.ctx) ∧ (∀ x ∈ c'.l1, x.ctx ≠ g.ctx)))
  ) ∧ (
  (∀ f, Completes (.pref f) alwaysReady noBar always (fun e _ _ _ t => t.groups = e.groups ∧ t.blocks = e.blocks ∧ t.queues = e.queues
      ∧ t.hostMem = e.hostMem ∧ t.peerMem = e.peerMem ∧ t.poison = e.poison
      ∧ (∀ n c, e.core? n = some c → ∃ c', t.core? n = some c' ∧ c'.pend = c.pend ∧ (f.rm = 2 → c'.l1 = c.l1))
      ∧ (Memory.wf e.mem = true → ∀ a, Memory.get t.mem a = Memory.get e.mem a ∨ Memory.get t.mem a = Memory.get e.mem a ||| 0x40#8)))
  ∧ (∀ f, Completes (.ipref f) alwaysReady (iprefBar f) always (fun e b g p t => t.groups = e.groups ∧ t.mem = e.mem ∧ t.hostMem = e.hostMem ∧ t.peerMem = e.peerMem
      ∧ ∀ o c, e.object? g.ctx b.obj = some o → e.core? g.core = some c → g.participants p f ≠ 0 → ∃ c' ls, t.core? g.core = some c'
        ∧ c'.iwant = c.iwant ++ ls ∧ ls.length ≤ 64 ∧ c'.icache = c.icache
        ∧ (∀ x ∈ ls, x.1 = g.ctx ∧ x.2 ∈ segLines o ((imm27 f).toNat % 2 ^ 18) ∧ x ∉ c.icache)
        ∧ ∀ n ∈ (segLines o ((imm27 f).toNat % 2 ^ 18)).take 64, (g.ctx, n) ∈ c'.iwant ∨ (g.ctx, n) ∈ c.icache))
  ∧ (∀ s core d x rest c, wanted s core = (d, x) :: rest → s.core? core = some c →
      ∃ t c', exec (.icacheFill core) s = .next t ∧ t.core? core = some c' ∧ x ∉ c'.iwant
        ∧ (lineMapped s core x = true → x ∈ c'.icache) ∧ (lineMapped s core x = false → c'.icache = c.icache)
        ∧ (c.icache.Nodup → ∀ n, (c.icache.filter fun y => y.2 % 64 == n).length ≤ 4 → (c'.icache.filter fun y => y.2 % 64 == n).length ≤ 4)
        ∧ t.groups = s.groups ∧ t.hostMem = s.hostMem ∧ t.peerMem = s.peerMem)
  )

/-- Stream words make their register busy, and settling gives it its value (R24, R133, R134, R132, R135). When nothing holds the word
back (the named registers are not busy, hold no fault and, but for SOPEN and SCLOSE, are open) and, for the words that set a
register, no watchpoint is set: exec answers a next state in which each participating lane's named register is: for SOPEN busy
with the descriptor's address (a helper's address that 32 does not divide leaves it ended); for SADV busy with a move to the next
element or a gallop to bits 31 to 0 of A; for SISECT of two different registers both busy with each other, and of one register
twice as it was; for SCLOSE closed. STEST leaves the predicate on its way as the register's ended state; SMERGE leaves min × 2^32
plus one bit for each stream that stands at the lower coordinate; SGET flies with the coordinate and the value, all ones and 0
when ended. For a busy register of a lane whose group may go on: STREAM_SETTLE answers a next state in which the register's state
is what its operation leaves (SOPEN: the descriptor's first element; next: the first element after the current one, an ended
register staying so; gallop: the first element at or after the target, none moving where the current coordinate already reaches
it; SISECT: both registers where the skip-ahead of both leaves them), no operation is left and no fault held. Where a read fails,
the register keeps its element and holds the fault's cause and address; a helper's is open and ended; a read whose request is held
at this chip or its target leaves it as it was. No step moves a register backwards: the first element found is at or after the
position sought from and its coordinate is at least the target. -/
def Obligations.StreamWordsAndTheirSettling : Prop :=
  (
  (∀ f, Completes (.sopen f) (streamReady (.sopen f)) (sopenBar (.sopen f)) (fun e _ g _ => (∀ w ∈ e.wps, w = none) ∧ ∀ x ∈ g.fibres, x.q.length = 8)
      (fun e b g p t => OnlyGroup g.gid e t ∧ ∃ g', t.group? g.gid = some g' ∧ ∀ l ∈ lanesOf (g.participants p f),
        (((g.fibre l).helper = false ∨ (srcA e (srcCtx e b g) g l (.sopen f)).toNat % 32 = 0) →
          (nth (g'.fibre l).q (f.dst.toNat % 8)).op = some (.sopen (srcA e (srcCtx e b g) g l (.sopen f)).toNat)
            ∧ (nth (g'.fibre l).q (f.dst.toNat % 8)).busy = true)
        ∧ (((g.fibre l).helper = true ∧ (srcA e (srcCtx e b g) g l (.sopen f)).toNat % 32 ≠ 0) →
          (nth (g'.fibre l).q (f.dst.toNat % 8)).opened = true ∧ (nth (g'.fibre l).q (f.dst.toNat % 8)).ended = true
            ∧ (nth (g'.fibre l).q (f.dst.toNat % 8)).busy = false)))
  ∧ (∀ f, Completes (.sadv f) (streamReady (.sadv f)) (streamBar (.sadv f)) (fun e _ g _ => (∀ w ∈ e.wps, w = none) ∧ ∀ x ∈ g.fibres, x.q.length = 8)
      (fun e b g p t => OnlyGroup g.gid e t ∧ ∃ g', t.group? g.gid = some g' ∧ ∀ l ∈ lanesOf (g.participants p f),
        nth (g'.fibre l).q (f.dst.toNat % 8) = { nth (g.fibre l).q (f.dst.toNat % 8) with
          since := e.nextId, seg := b.seg, woff := b.woff, op := some (if f.sa = 0x0CA then .next else .gallop ((srcA e (srcCtx e b g) g l (.sadv f)).toNat % 2 ^ 32)) }))
  ∧ (∀ f, f.dst.toNat % 8 ≠ f.sa.toNat % 8 → Completes (.sisect f) (streamReady (.sisect f)) (streamBar (.sisect f))
      (fun e _ g _ => (∀ w ∈ e.wps, w = none) ∧ ∀ x ∈ g.fibres, x.q.length = 8)
      (fun e _ g p t => OnlyGroup g.gid e t ∧ ∃ g', t.group? g.gid = some g' ∧ ∀ l ∈ lanesOf (g.participants p f),
        (nth (g'.fibre l).q (f.dst.toNat % 8)).op = some (.isect (f.sa.toNat % 8))
          ∧ (nth (g'.fibre l).q (f.sa.toNat % 8)).op = some (.isect (f.dst.toNat % 8))))
  ∧ (∀ f, f.dst.toNat % 8 = f.sa.toNat % 8 → Completes (.sisect f) (streamReady (.sisect f)) (streamBar (.sisect f)) always
      (fun e _ g _ t => OnlyGroup g.gid e t ∧ t.group? g.gid = e.group? g.gid))
  ∧ (∀ f, Completes (.sclose f) (streamReady (.sclose f)) noBar (fun e _ g _ => (∀ w ∈ e.wps, w = none) ∧ ∀ x ∈ g.fibres, x.q.length = 8)
      (fun e b g p t => OnlyGroup g.gid e t ∧ ∃ g', t.group? g.gid = some g' ∧ ∀ l ∈ lanesOf (g.participants p f),
        nth (g'.fibre l).q (f.dst.toNat % 8) = { Stream.closed with since := e.nextId, seg := b.seg, woff := b.woff }))
  ∧ (∀ f, Completes (.stest f) (streamReady (.stest f)) (streamBar (.stest f)) always
      (fun e b g p t => FixedPost (.stest f) (fun x => outP (nth (g.fibre x.lane).q (f.sa.toNat % 8)).ended) e b g p t))
  ∧ (∀ f, Completes (.smerge f) (streamReady (.smerge f)) (streamBar (.smerge f)) always
      (fun e b g p t => FixedPost (.smerge f) (fun x =>
        let u := nth (g.fibre x.lane).q (f.sa.toNat % 8)
        let v := nth (g.fibre x.lane).q (f.sb.toNat % 8)
        let cu := if u.ended then 0xFFFFFFFF else u.cur
        let cv := if v.ended then 0xFFFFFFFF else v.cur
        outW (BitVec.ofNat 64 (min cu cv * 2 ^ 32 + (if cu ≤ cv ∧ u.ended = false then 1 else 0) + (if cv ≤ cu ∧ v.ended = false then 2 else 0))))
        e b g p t))
  ∧ (∀ f, Completes (.sget f) (streamReady (.sget f)) (streamBar (.sget f)) (fun _ _ g p => partLanes g p (.sget f) ≠ 0)
      (fun e b g p t => LatePost (.sget f) (fun x =>
        let u := nth (g.fibre x.lane).q (f.sa.toNat % 8)
        ⟨if u.ended then [0xFFFFFFFF#64, 0] else [BitVec.ofNat 64 u.cur, BitVec.ofNat 64 u.curVal], none, 0⟩) e b g p t))
  ) ∧ (
  (∀ s gid g lane n a s1 q, s.group? gid = some g → flightMay s gid (2 ^ 256) = true → (nth (g.fibre lane).q n).fault = none →
    (nth (g.fibre lane).q n).op = some (.sopen a) → streamOpen (streamRd g) a s = (s1, .ok q) →
    s1.groups = s.groups → lane < g.fibres.length → n < (g.fibre lane).q.length →
    ∃ t g', exec (.streamSettle gid lane n) s = .next t ∧ t.group? gid = some g'
      ∧ nth (g'.fibre lane).q n = { q with op := none, fault := none, raised := false })
  ∧ (∀ s gid g lane n q0 s1 q, s.group? gid = some g → flightMay s gid (2 ^ 256) = true → nth (g.fibre lane).q n = q0 → q0.fault = none →
      s1.groups = s.groups → lane < g.fibres.length → n < (g.fibre lane).q.length →
      ((q0.op = some .next ∧ q0.ended = false ∧ streamMove (streamRd g) q0 (q0.pos + 1) 0 s = (s1, .ok q))
        ∨ (q0.op = some .next ∧ q0.ended = true ∧ s1 = s ∧ q = q0)
        ∨ (∃ c, q0.op = some (.gallop c) ∧ (q0.ended = true ∨ c ≤ q0.cur) ∧ s1 = s ∧ q = q0)
        ∨ (∃ c, q0.op = some (.gallop c) ∧ q0.ended = false ∧ q0.cur < c
            ∧ streamMove (streamRd g) q0 q0.pos c s = (s1, .ok q))) →
      ∃ t g', exec (.streamSettle gid lane n) s = .next t ∧ t.group? gid = some g'
        ∧ nth (g'.fibre lane).q n = { q with op := none, fault := none, raised := false })
  ∧ (∀ s gid g lane n m q0 p0 s1 a b, s.group? gid = some g → flightMay s gid (2 ^ 256) = true → nth (g.fibre lane).q n = q0 → nth (g.fibre lane).q m = p0 →
      q0.fault = none → q0.op = some (.isect m) → n ≠ m → s1.groups = s.groups → lane < g.fibres.length → n < (g.fibre lane).q.length →
      m < (g.fibre lane).q.length → streamIsect (streamRd g) (q0.last - q0.pos + (p0.last - p0.pos) + 2) q0 p0 s = (s1, .ok (a, b)) →
      ∃ t g', exec (.streamSettle gid lane n) s = .next t ∧ t.group? gid = some g'
        ∧ nth (g'.fibre lane).q n = { a with op := none, fault := none, raised := false }
        ∧ nth (g'.fibre lane).q m = { b with op := none, fault := none, raised := false })
  ∧ (∀ s gid g lane n q0 s1 e, s.group? gid = some g → flightMay s gid (2 ^ 256) = true → nth (g.fibre lane).q n = q0 → q0.fault = none →
      q0.op = some .next → q0.ended = false → s1.groups = s.groups → lane < g.fibres.length → n < (g.fibre lane).q.length →
      streamMove (streamRd g) q0 (q0.pos + 1) 0 s = (s1, .error e) →
      ∃ t g', exec (.streamSettle gid lane n) s = .next t ∧ t.group? gid = some g'
        ∧ (∀ k, e = .held k → nth (g'.fibre lane).q n = q0)
        ∧ ((∀ k, e ≠ .held k) → (g.fibre lane).helper = false → nth (g'.fibre lane).q n = { q0 with fault := some (e.cause, e.addr), raised := false })
        ∧ ((∀ k, e ≠ .held k) → (g.fibre lane).helper = true → (nth (g'.fibre lane).q n).opened = true ∧ (nth (g'.fibre lane).q n).ended = true
            ∧ (nth (g'.fibre lane).q n).op = none ∧ (nth (g'.fibre lane).q n).fault = none))
  ∧ (∀ rd q pos target s s1 q', streamMove rd q pos target s = (s1, .ok q') → q'.ended = false → pos ≤ q'.pos ∧ q'.pos < q.last ∧ target ≤ q'.cur)
  )

/-- KGET, SREAD, ERD and WPGET fly, and complete with the register, system register, energy count or channel they name (R27, R35,
R185, R236, R352, R443). When nothing holds the word back and a lane takes part, KGET, SREAD, ERD and WPGET answer a next state in
which the group has the word in flight for the lanes that take part, its destinations empty, and nothing outside the group
changed. SREAD carries each lane's value of the register that bits 7 to 0 of the immediate name, as it stands at issue with every
predicate written so far. Performing a lane: SREAD gives what it carries, once no earlier word in flight of the lane may raise
flags; KGET gives 0 for a group that is not in the block or has ended, waits while the register is empty, and gives the full
register's value or that of a write to it that is still on its way, of which there may be none; ERD gives the context's and the
block's energy in mJ, the context's waiting count, the chip budget, and the rounds; WPGET the pointer and sequence number of the
context's channel in its cluster, 0 and 0 where it has none. The choice of KGET's value is free (log entry 3); 0 for an ended
group is log entry 127. -/
def Obligations.ReadsOfOtherUnitsInFlight : Prop :=
  (∀ i f, (i = Instr.kget f ∨ i = .sread f ∨ i = .erd f ∨ i = .wpget f) → ∀ ready bar,
      (i = .kget f → ready = alwaysReady ∧ bar = noBar) → (i = .sread f → ready = alwaysReady ∧ bar = sysBar i false) →
      (i = .erd f → ready = alwaysReady ∧ bar = erdBar i) → (i = .wpget f → ready = memReady ∧ bar = noBar) →
    Completes i ready bar (fun _ _ g p => (if i = .wpget f then wpgetLanes i g p else partLanes g p i) ≠ 0)
      (fun e _ g p t => OnlyGroup g.gid e t ∧ ∃ g' fl, t.group? g.gid = some g' ∧ fl ∈ g'.flights ∧ fl.instr = i
        ∧ fl.pending = (if i = .wpget f then wpgetLanes i g p else partLanes g p i)
        ∧ (∀ l ∈ lanesOf fl.pending, ∃ o ∈ fl.ops, o.lane = l ∧ (i = .sread f → o.data = [sysValue e g l ((imm18 f).toNat % 256)]))
        ∧ ∀ l ∈ lanesOf fl.pending, ∀ j < (dstSpan i).2, emptyAt g' l ((dstSpan i).1 + j) = true ∨ regOf g l ((dstSpan i).1 + j) = none))
  ∧ (∀ s g fl op, fl.kind = .kget → (∀ x ∈ s.groups, x.bid = g.bid → x.index = op.ea → ∀ y ∈ x.fibres, y.live = false) → (performLane s g fl op).2 = .done [0])
  ∧ (∀ s g fl op x, fl.kind = .kget → (s.groups.find? fun y => y.bid == g.bid && y.index == op.ea && y.fibres.any fun z => z.live) = some x →
      (nth x.k ((fieldsOfInstr fl.instr).sa.toNat - 0x80)).full = false → (performLane s g fl op).2 = .later)
  ∧ (∀ s g fl op x, fl.kind = .kget → (s.groups.find? fun y => y.bid == g.bid && y.index == op.ea && y.fibres.any fun z => z.live) = some x →
      (nth x.k ((fieldsOfInstr fl.instr).sa.toNat - 0x80)).full = true → ∃ w, (performLane s g fl op).2 = .done [w]
        ∧ (w = (nth x.k ((fieldsOfInstr fl.instr).sa.toNat - 0x80)).val
          ∨ ∃ k ∈ x.kpend, k.idx = (fieldsOfInstr fl.instr).sa.toNat - 0x80 ∧ w = k.val))
  ∧ (∀ s g fl op, fl.kind = .sread → (performLane s g fl op).2 =
      if g.flights.any (fun e => decide (e.seq < fl.seq) && e.flagsDue op.lane) then .later else .done op.data)
  ∧ (∀ s g fl op c b, fl.kind = .erd → s.context? g.ctx = some c → s.block? g.bid = some b → op.ea < 5 → (performLane s g fl op).2 = .done
      [BitVec.ofNat 64 (nth [c.energy / 160000000, b.charge / 160000000, c.ewait, s.chipBudget, s.rounds] op.ea)])
  ∧ (∀ s g fl op c, fl.kind = .wpget → (s.channels.find? fun c => c.ctx == g.ctx && c.cluster == g.core / 8 && c.chan == op.ea) = some c →
      (performLane s g fl op).2 = .done [c.ptr, BitVec.ofNat 64 c.seq])
  ∧ (∀ s g fl op, fl.kind = .wpget → (∀ c ∈ s.channels, c.ctx = g.ctx → c.cluster = g.core / 8 → c.chan ≠ op.ea) →
      (performLane s g fl op).2 = .done [0, 0])

/-- QPUT claims the header's index and adds 1 to WIDX; QPUT_SLOT_PUBLISH writes the slot once the queue has room (R164, R165, R184).
QPUT with one acting lane, in a group with nothing in flight and no trap waiting, no other group's QPUT of its batch in flight, no
watchpoint and a context whose FPOL is not 1: when nothing holds it back, the header lies in unpoisoned local memory where no
write of the core waits, a copy queue of the context stands there, the aligned descriptor of a tensor packet can be read and the
packet's range locks fit, exec answers a next state in which local memory is what translation left with WIDX one higher, the queue
notes the claim, and the word is in flight with the lane's header, packet and claimed index. QPUT_SLOT_PUBLISH for a claimed lane,
nothing earlier of which is in flight, that may publish takes the lane out of flight; while the lane's index is RIDX + capacity or
more, the step changes nothing. A slot stands at base + 64 × (index modulo capacity), its phase the parity of index / capacity
plus 1. -/
def Obligations.QputClaimsThenPublishes : Prop :=
  (∀ f, Completes (.qput f) (qputReady (.qput f)) (qputBar (.qput f))
    (fun e b g p => g.flights = [] ∧ g.held = [] ∧ (∀ x ∈ e.groups, ∀ fl ∈ x.flights, fl.batch = b.id → fl.kind ≠ .qput)
      ∧ (∀ w ∈ e.wps, w = none) ∧ (∀ c, e.context? g.ctx = some c → c.fpol ≠ 1)
      ∧ ∃ l s1 s2 td pa q c, g.actors p f = laneBit l ∧ l < 32
        ∧ qputReads e g (packetBytes (qputPacket (.qput f) e (srcCtx e b g) g l)) (srcA e (srcCtx e b g) g l (.qput f)).toNat s1 s2 td pa
        ∧ s2.poisoned pa 8 = false
        ∧ e.queue? g.ctx (srcA e (srcCtx e b g) g l (.qput f)).toNat = some q ∧ q.cls = 0 ∧ q.closing = false
        ∧ locksFit e (qputLocks e g (srcA e (srcCtx e b g) g l (.qput f)).toNat (packetBytes (qputPacket (.qput f) e (srcCtx e b g) g l)) td) = true
        ∧ e.core? g.core = some c ∧ c.pend = [])
    (fun e b g p t => ∀ l s1 s2 td pa, g.actors p f = laneBit l → l < 32 →
      qputReads e g (packetBytes (qputPacket (.qput f) e (srcCtx e b g) g l)) (srcA e (srcCtx e b g) g l (.qput f)).toNat s1 s2 td pa →
      t.mem = Memory.write s2.mem pa (toBytes (ofBytes (s2.readPa pa 8) + 1) 8) ∧ t.hostMem = e.hostMem ∧ t.peerMem = e.peerMem
      ∧ (∃ q', t.queue? g.ctx (srcA e (srcCtx e b g) g l (.qput f)).toNat = some q' ∧ (ofBytes (s2.readPa pa 8), g.lid, g.bid) ∈ q'.puts)
      ∧ ∃ g' fl o, t.group? g.gid = some g' ∧ fl ∈ g'.flights ∧ fl.instr = .qput f ∧ fl.pending = laneBit l ∧ o ∈ fl.ops ∧ o.lane = l
          ∧ o.ea = (srcA e (srcCtx e b g) g l (.qput f)).toNat ∧ o.data = qputPacket (.qput f) e (srcCtx e b g) g l
          ∧ o.tgt = ofBytes (s2.readPa pa 8) + 1))
  ∧ (∀ s gid seq g fl o s1, s.group? gid = some g → (g.flights.find? fun e => e.seq == seq && e.kind == .qput && flightMay s gid seq) = some fl →
      fl.pendingOps = [o] → fl.pending = laneBit o.lane → o.tgt ≠ 0 → fl.held = [] → g.flights = [fl] → g.held = [] →
      qputPublish s g o.lane (Scope.ofCode ((fieldsOfInstr fl.instr).sc.toNat % 8)) o.ea (o.tgt - 1) (packetBytes o.data) = (s1, .ok true) →
      ∃ t, exec (.qputSlotPublish gid seq) s = .next t ∧ t.mem = s1.mem ∧ ∀ g', t.group? gid = some g' → g'.flights = [])
  ∧ (∀ s gid seq g fl o q s1 r, s.group? gid = some g → (g.flights.find? fun e => e.seq == seq && e.kind == .qput && flightMay s gid seq) = some fl →
      fl.pendingOps = [o] → o.tgt ≠ 0 → s.queue? g.ctx o.ea = some q → engineRead s g.core g.ctx (o.ea + 128) 8 = (s1, .ok r) →
      ofBytes r + 2 ^ q.log2c ≤ o.tgt - 1 → exec (.qputSlotPublish gid seq) s = .next s)
  ∧ (∀ (q : QueueReg) i, q.slot i = q.base + 64 * (i % 2 ^ q.log2c) ∧ q.phase i = (i / 2 ^ q.log2c + 1) % 2)

/-- TBINIT makes a barrier, TBARR counts an arrival and its bytes, TBWAIT waits until the phase is no longer its parity (R181, R182,
R186). With one acting lane that names a resident block, the barrier in no poisoned sector, no lane of the group held and no
watchpoint set: TBINIT answers a next state in which the 16 bytes at its offset are a barrier with PEND = EXPB = its bytes, ARR =
EXPA = its arrivals, PHASE and OVF 0; TBARR one in which that barrier has changed by the bytes and one arrival. A change with
another arrival outstanding or bytes left adds the bytes and takes one arrival; the one that brings both to 0 turns the phase and
reloads ARR and PEND. TBWAIT leaves the batch at the word, waiting for exactly the lanes whose barrier's phase equals their
parity; a batch whose waits are over goes on past it. -/
def Obligations.TransactionBarrierWords : Prop :=
  (∀ f, Completes (.tbinit f) memReady (tbBar (.tbinit f) true fun a n => a.toNat == 0 || decide (a.toNat > 65535) || decide (n.toNat ≥ 2 ^ 31))
    (fun e b g p => (∀ w ∈ e.wps, w = none) ∧ ∃ l bid blk, g.actors p f = laneBit l ∧ l < 32
      ∧ tbTarget e g (srcA e (srcCtx e b g) g l (.tbinit f)) = some bid ∧ e.block? bid = some blk ∧ Memory.wf blk.scratch = true
      ∧ (srcB e (srcCtx e b g) g l (.tbinit f)).toNat ≤ 65535 ∧ (srcC e (srcCtx e b g) g l (.tbinit f)).toNat < 2 ^ 31)
    (fun e b g p t => ∀ l bid, g.actors p f = laneBit l → l < 32 → tbTarget e g (srcA e (srcCtx e b g) g l (.tbinit f)) = some bid →
      let x := tbRead t bid ((srcA e (srcCtx e b g) g l (.tbinit f)).toNat % 2 ^ 19)
      x.pend = ((srcC e (srcCtx e b g) g l (.tbinit f)).toNat : Int) ∧ x.expb = (srcC e (srcCtx e b g) g l (.tbinit f)).toNat
        ∧ x.arr = (srcB e (srcCtx e b g) g l (.tbinit f)).toNat ∧ x.expa = (srcB e (srcCtx e b g) g l (.tbinit f)).toNat
        ∧ x.phase = 0 ∧ x.ovf = 0 ∧ t.mem = e.mem))
  ∧ (∀ f, Completes (.tbarr f) (tbReady (.tbarr f)) (tbBar (.tbarr f) true fun n _ => decide (n.toNat ≥ 2 ^ 31))
    (fun e b g p => (∀ w ∈ e.wps, w = none) ∧ (∀ fl ∈ g.flights, fl.held = []) ∧ g.held = [] ∧ ∃ l bid blk, g.actors p f = laneBit l ∧ l < 32
      ∧ tbTarget e g (srcA e (srcCtx e b g) g l (.tbarr f)) = some bid ∧ e.block? bid = some blk ∧ Memory.wf blk.scratch = true
      ∧ tbPoisoned e bid ((srcA e (srcCtx e b g) g l (.tbarr f)).toNat % 2 ^ 19) = false)
    (fun e b g p t => ∀ l bid, g.actors p f = laneBit l → l < 32 → tbTarget e g (srcA e (srcCtx e b g) g l (.tbarr f)) = some bid →
      tbRead t bid ((srcA e (srcCtx e b g) g l (.tbarr f)).toNat % 2 ^ 19)
        = (tbRead e bid ((srcA e (srcCtx e b g) g l (.tbarr f)).toNat % 2 ^ 19)).change ((srcB e (srcCtx e b g) g l (.tbarr f)).toNat : Int) true))
  ∧ (∀ (x : TBar) (n : Int), 0 ≤ n → -(2 ^ 31) ≤ x.pend + n → x.pend + n < 2 ^ 31 → 1 ≤ x.arr →
      ((x.arr ≠ 1 ∨ x.pend + n ≠ 0) → x.change n true = { x with pend := x.pend + n, arr := x.arr - 1 })
      ∧ (x.arr = 1 → x.pend + n = 0 → x.change n true = { x with pend := sextN x.expb 32, arr := x.expa, phase := 1 - x.phase }))
  ∧ (∀ f, Completes (.tbwait f) tbwaitReady (tbBar (.tbwait f) false fun _ _ => false) (fun e b _ _ => e.batch? b.id = some b)
    (fun e b g p t => t.groups = e.groups ∧ t.mem = e.mem ∧ t.blocks = e.blocks ∧ ∃ b' todo, t.batch? b.id = some b' ∧ b'.woff = b.woff
      ∧ b'.wait = some (.tbwait todo) ∧ ∀ l ∈ lanesOf (g.actors p f), ∀ bid, tbTarget e g (srcA e (srcCtx e b g) g l (.tbwait f)) = some bid →
        tbPoisoned e bid ((srcA e (srcCtx e b g) g l (.tbwait f)).toNat % 2 ^ 19) = false →
        ((bid, (srcA e (srcCtx e b g) g l (.tbwait f)).toNat % 2 ^ 19, (srcB e (srcCtx e b g) g l (.tbwait f)).toNat % 2) ∈ todo ↔
          (tbRead e bid ((srcA e (srcCtx e b g) g l (.tbwait f)).toNat % 2 ^ 19)).phase = (srcB e (srcCtx e b g) g l (.tbwait f)).toNat % 2)))
  ∧ (∀ f s b g m, issuerBatch s = some b → s.batch? b.id = some b → b.wait = some (.tbwait []) → b.members = [m] → m.gid = g.gid →
      m.present false ≠ 0 → (tickBatch s b).group? g.gid = some g → (∀ w ∈ s.wps, w = none) →
      (∀ fl ∈ g.flights, fl.held = []) → g.held = [] → (∀ x ∈ s.blocks, x.scratchPoison = []) →
      wordVerdict (tickBatch s b) b g (m.present false) (.tbwait f) = .ok →
      ∃ t b', exec (.tbwait f) s = .next t ∧ t.issue = none ∧ t.batch? b.id = some b' ∧ b'.wait = none
        ∧ (b.rep = none → b'.woff = b.woff + wordCount (.tbwait f)))

/-- CPE_PACKET_ACCEPT takes the queue's next packet to its channel, or ends a bad one; CHANNEL_PACKET_START starts it (R166, R167,
R168, R170, R171, R172, R173, R175, R178). For a copy queue that is not being closed, whose copy engine runs, whose next packet
can be read and whose status can be written: CPE_PACKET_ACCEPT of a linear packet, or of a tensor packet whose descriptor can be
read and is well formed, with no error, whose locks fit, answers a next state in which the packet's channel holds it last in
waiting, with its descriptor and size, under the queue's next index, which the queue has passed and counts as open; for a packet
whose fields are wrong no channel changes and the index is passed and not open. CHANNEL_PACKET_START on a channel with nothing
running makes its oldest waiting packet the running one, the sequence number one higher and the pointer the packet's destination.
A tile's byte at position ((j2 × h1 + j1) × h0 + j0) × 2^LESZ + k is byte k of the element at index origin plus j, where every
index lies in its extent, and the fill's byte k elsewhere. -/
def Obligations.CopyEngineTakesPackets : Prop :=
  (∀ s ctx header q s1 bs s2, s.queue? ctx header = some q → q.cls = 0 → q.closing = false →
    engineMay s ctx .copy (stepPacket s ctx header q.next) = true → nextPacket s q = (s1, some bs) → canEnd s1 q q.next = (s2, true) →
    let put := q.puts.find? fun p => p.1 == q.next
    let lid := match put with | some p => some p.2.1 | none => boundLid s2 q
    (∀ s3 td, pkErr bs = 0 → readTdesc s2 q.clu ctx bs = (s3, .ok td) → (pkTensor bs = true → tdBad td = false) →
        copyErr s3 q.clu lid (put.map fun p => p.2.2) bs td = 0 → locksFit s3 (copyLocks none q.clu bs td) = true →
      ∃ t ch j q', exec (.cpePacketAccept ctx header) s = .next t ∧ t.channel? ctx q.clu (pkChan bs) = some ch ∧ ch.waiting.getLast? = some j
        ∧ j.packet = bs ∧ j.header = header ∧ j.index = q.next ∧ j.tdesc = td ∧ j.rsec = 0
        ∧ j.size = (if pkTensor bs then pkShape bs 0 * pkShape bs 1 * pkShape bs 2 * 2 ^ byteField td 9 1 else byteField bs 28 4) ∧ j.known = true
        ∧ t.queue? ctx header = some q' ∧ q'.next = q.next + 1 ∧ q.next ∈ q'.openIdx)
    ∧ (pkErr bs ≠ 0 → ∃ t q', exec (.cpePacketAccept ctx header) s = .next t ∧ t.channels = s.channels
        ∧ t.queue? ctx header = some q' ∧ q'.next = q.next + 1 ∧ q.next ∉ q'.openIdx))
  ∧ (∀ s ctx clu chan c j rest, s.channel? ctx clu chan = some c → c.running = none → c.waiting = j :: rest → jobMay s ctx j = true →
      ∃ t, exec (.channelPacketStart ctx clu chan) s = .next t
        ∧ t.channel? ctx clu chan = some { c with seq := c.seq + 1, ptr := BitVec.ofNat 64 (pkDst j.packet), running := some j, waiting := rest }
        ∧ t.mem = s.mem ∧ t.groups = s.groups ∧ t.blocks = s.blocks ∧ t.queues = s.queues)
  ∧ (∀ bs, pkTensor bs = false → ∀ s clu ctx, readTdesc s clu ctx bs = (s, .ok []))
  ∧ (∀ bs td p, pkTensor bs = false → copyByte bs td p = .inl (byteField bs 4 8 + p))
  ∧ (∀ bs td (j0 j1 j2 k : Nat), pkTensor bs = true → j0 < pkShape bs 0 → j1 < pkShape bs 1 → k < tdSize td →
      let i0 := pkOrg bs 0 + (j0 : Int)
      let i1 := pkOrg bs 1 + (j1 : Int)
      let i2 := pkOrg bs 2 + (j2 : Int)
      copyByte bs td (((j2 * pkShape bs 1 + j1) * pkShape bs 0 + j0) * tdSize td + k)
        = if 0 ≤ i0 ∧ i0 < (tdExt td 0 : Int) ∧ 0 ≤ i1 ∧ i1 < (tdExt td 1 : Int) ∧ 0 ≤ i2 ∧ i2 < (tdExt td 2 : Int) ∧ 0 < tdExt td 3 ∧ 0 < tdExt td 4 then
            .inl (wrapN (tileAddr td i0 i1 i2) 64 + k)
          else .inr (fillByte (pkFill bs) (tdSize td) k))
  ∧ (∀ td i0 i1 i2, tileAddr td i0 i1 i2 = (byteField td 0 8 : Int) + i0 * ((2 ^ byteField td 9 1 : Nat) : Int) + i1 * sextN (byteField td 32 8) 64
      + i2 * sextN (byteField td 40 8) 64)
  ∧ (∀ size k, fillByte 0 size k = 0 ∧ fillByte 1 size k = 0xFF#8 ∧ fillByte 2 size k = nth (toBytes (fillNaN size) size) k)
  ∧ (∀ x size k, x < 256 → fillByte (256 + x) size k = BitVec.ofNat 8 x)

/-- COPY_SECTOR_DELIVER writes the next sector at its destination; COPY_COMPLETE posts the copy and frees the channel (R168, R174,
R175, R176, R177, R180, R370). For a channel whose running packet may move on, is parked nowhere, has its locks and has sectors
left: if the sector's bytes can be read, COPY_SECTOR_DELIVER answers a next state in which they stand at the destination (a
block's scratchpad bytes, a buffer or slot of its matrix engine, a slot's also in what a word taken back would give it again, or
global memory as an engine's write leaves it), one sector more is delivered, and the status counts it. A packet parked at an open
fault record stays as it is. With every sector delivered, COPY_COMPLETE answers a next state in which the channel has nothing
running and its pointer at the destination's end, the packet's index is no longer open, no range lock of the copy is left in any
core, the event that SIG names is one higher modulo 2^32, and the live dependence counter that it names is one lower, or with its
last count is live no more. Where a barrier is named, the count (BCNT, or the size) has left its PEND. A status that can be
written is bit 0 the phase, bits 3 to 1 the state, bits 7 to 4 ERR and bits 31 to 8 the sectors delivered modulo 2^24. -/
def Obligations.CopySectorsAndCompletion : Prop :=
  (∀ s ctx clu chan c j s1 bs, s.channel? ctx clu chan = some c → c.running = some j → jobMay s ctx j = true → j.failed = false → j.fault = none →
    j.known = true → (ownerCores s j.owner).any (fun n => lockWaits s n j.owner fun _ => true) = false → j.rsec < j.total →
    copyBytes clu ctx j.packet j.tdesc ((List.range (j.done (j.rsec + 1) - j.done j.rsec)).map (j.done j.rsec + ·)) s = (s1, .ok bs) →
    (∀ bid blk, pkDsp j.packet = 1 → j.bid = some bid → s.block? bid = some blk →
      ∃ t c' blk', exec (.copySectorDeliver ctx clu chan) s = .next t ∧ t.channel? ctx clu chan = some c'
        ∧ c'.running = some { j with rsec := j.rsec + 1 } ∧ t.block? bid = some blk'
        ∧ blk'.scratch = Memory.write blk.scratch (pkBase j.packet + j.done j.rsec) bs ∧ t.mem = (sectorStatus s1 ctx clu j bs).mem)
    ∧ (∀ bid blk eng, pkDsp j.packet = 2 ∨ pkDsp j.packet = 3 → j.bid = some bid → s.block? bid = some blk → blk.engine = some eng →
      ∃ t c' blk', exec (.copySectorDeliver ctx clu chan) s = .next t ∧ t.channel? ctx clu chan = some c'
        ∧ c'.running = some { j with rsec := j.rsec + 1 } ∧ t.block? bid = some blk' ∧ t.mem = (sectorStatus s1 ctx clu j bs).mem
        ∧ blk'.engine = some (if pkDsp j.packet = 2 then eng.writeBuf (pkUnit j.packet) (pkBase j.packet + j.done j.rsec) bs
            else eng.copySlot (pkUnit j.packet) (pkFmt j.packet) (pkBase j.packet + j.done j.rsec) bs))
    ∧ (∀ s2, pkDsp j.packet = 0 → engineWrite s1 (cpeAgent clu) ctx (pkBase j.packet + j.done j.rsec) bs = (s2, .ok ()) →
      ∃ t c', exec (.copySectorDeliver ctx clu chan) s = .next t ∧ t.channel? ctx clu chan = some c'
        ∧ c'.running = some { j with rsec := j.rsec + 1 } ∧ t.mem = (sectorStatus s1 ctx clu j bs).mem
        ∧ (s.queue? ctx j.header = none → t.mem = s2.mem ∧ t.hostMem = s2.hostMem ∧ t.peerMem = s2.peerMem)))
  ∧ (∀ (e : Engine) n fmt off bs, (e.copySlot n fmt off bs).slots = ((e.slotFmt n fmt).writeSlot n off bs).slots
      ∧ (e.copySlot n fmt off bs).bufs = e.bufs ∧ (e.copySlot n fmt off bs).acc = e.acc)
  ∧ (∀ s q i st err r s1, parkOf s (QueueReg.agent q) q.ctx (q.slot i + 60) 4 = none →
      engineWrite s q.agent q.ctx (q.slot i + 60) (toBytes (q.phase i + 2 * st + 16 * err + 256 * (r % 2 ^ 24)) 4) = (s1, .ok ()) →
      setStatus s q i st err r = s1)
  ∧ (∀ s ctx clu chan c j va, s.channel? ctx clu chan = some c → c.running = some j → jobMay s ctx j = true → j.failed = false →
      j.fault = some va → s.faults.any (sameFault ctx va) = true → exec (.copySectorDeliver ctx clu chan) s = .next s)
  ∧ (∀ s ctx clu chan c j q s1, s.channel? ctx clu chan = some c → c.running = some j → s.queue? ctx j.header = some q → jobMay s ctx j = true →
      j.known = true → j.total ≤ j.rsec → canEnd s q j.index = (s1, true) →
      ∃ t c' q', exec (.copyComplete ctx clu chan) s = .next t ∧ t.channel? ctx clu chan = some c' ∧ c'.running = none
        ∧ c'.ptr = copyPtr j.packet j.size ∧ c'.waiting = c.waiting ∧ t.queue? ctx j.header = some q' ∧ j.index ∉ q'.openIdx
        ∧ ((∀ n k, s.core? n = some k → ∀ x, some x ∈ k.rlt → x.owner = j.owner → x.share ≤ 1) →
            ∀ n k, t.core? n = some k → ∀ x, some x ∈ k.rlt → x.owner ≠ j.owner)
        ∧ (pkSig j.packet / 2 ^ 30 = 1 → (∃ k, s.context? ctx = some k) →
            eventCount t ctx (pkSig j.packet % 65536) = (eventCount s ctx (pkSig j.packet % 65536) + 1) % 2 ^ 32)
        ∧ (∀ k, pkSig j.packet / 2 ^ 30 = 2 → s.counter? ctx (pkSig j.packet % 65536) = some k →
            t.counter? ctx (pkSig j.packet % 65536) = if k.count ≤ 1 then none else some { k with count := k.count - 1 })
        ∧ (∀ bid blk, pkTB j.packet = true → j.tbid = some bid → s.block? bid = some blk → Memory.wf blk.scratch = true →
            tbRead t bid (pkBar j.packet).1 = (tbRead s bid (pkBar j.packet).1).change
              (-((if byteField j.packet 52 4 = 0 then j.size else byteField j.packet 52 4 : Nat) : Int)) false))

/-- MBARA arrives with its whole group, MBARW waits for the turn, MMOVE flies with its entries, MSTART starts a stream (R275, R277,
R290, R293, R294, R295, R296). In a block with an engine whose MSQ has not faulted, when nothing holds the word back: MBARA leaves
the named barrier with one more arrival where every live non-helper fibre of the group acts and no other arrival of the block is
open, and with the acting fibres noted where some do not; MBARW leaves the batch at the word, waiting out the phase of its group's
latest arrival while no MBARW has observed that turn, else the current one, and a batch whose wait is over goes on; MMOVE is in
flight for its lanes with their entry numbers, its destinations empty, and performs, once no earlier matrix word is in flight,
with entries n + 2j and n + 2j + 1 in the halves of word j; MSTART sets the MSQ running at word 0 of the stream in A, with no loop
level, x1 and x2 the halves of B and the other index registers 0, and leaves barriers, accumulators, slots, buffers and words in
flight as they are. How partial arrivals are kept is log entries 115 and 144, MMOVE's lane order log entry 140, and that MSTART
clears CAUSE log entry 143. -/
def Obligations.VectorWordsOfTheMatrixEngine : Prop :=
  (∀ f, Completes (.mbara f) (mbaraReady (.mbara f)) (engineBar (.mbara f) true fun _ _ _ _ _ => none)
    (fun e _ g p => ∃ en, e.engine? g.bid = some en ∧ en.state ≠ 3 ∧ barIdx (.mbara f) < en.mbars.length ∧ g.actors p f ≠ 0 ∧ g.workers ≠ 0
      ∧ (e.groups.map Group.gid).Nodup ∧ ∀ x ∈ e.groups, x.bid = g.bid → ∀ a ∈ x.mbars, a.lanes = 0)
    (fun e _ g p t => ∀ en, e.engine? g.bid = some en → ∃ en' g', t.engine? g.bid = some en' ∧ t.group? g.gid = some g'
      ∧ (nth en'.mbars (barIdx (.mbara f))).phase = (nth en.mbars (barIdx (.mbara f))).phase ∧ en'.acc = en.acc ∧ en'.state = en.state
      ∧ (g.workers &&& ~~~(g.actors p f) = 0 → (nth en'.mbars (barIdx (.mbara f))).arr = (nth en.mbars (barIdx (.mbara f))).arr + 1
          ∧ (arriveOf g'.mbars (barIdx (.mbara f))).lanes = 0
          ∧ (arriveOf g'.mbars (barIdx (.mbara f))).phase = some (nth en.mbars (barIdx (.mbara f))).phase)
      ∧ (g.workers &&& ~~~(g.actors p f) ≠ 0 → (nth en'.mbars (barIdx (.mbara f))).arr = (nth en.mbars (barIdx (.mbara f))).arr
          ∧ (arriveOf g'.mbars (barIdx (.mbara f))).lanes = g.actors p f)))
  ∧ (∀ f, Completes (.mbarw f) (mbarwReady (.mbarw f)) (engineBar (.mbarw f) true fun _ _ _ _ _ => none) (fun e b _ _ => e.batch? b.id = some b)
    (fun e b g _ t => t.groups = e.groups ∧ t.blocks = e.blocks ∧ t.mem = e.mem ∧ ∃ b' ph, t.batch? b.id = some b' ∧ b'.woff = b.woff
      ∧ b'.wait = some (.mbar (barIdx (.mbarw f)) [(g.gid, ph)])
      ∧ ∀ en, e.engine? g.bid = some en → ph = (match (arriveOf g.mbars (barIdx (.mbarw f))).phase, (arriveOf g.mbars (barIdx (.mbarw f))).observed with
          | some q, some o => if q ≤ o then (nth en.mbars (barIdx (.mbarw f))).phase else q
          | some q, none => q
          | none, _ => (nth en.mbars (barIdx (.mbarw f))).phase)))
  ∧ (∀ f s b g m ps, issuerBatch s = some b → s.batch? b.id = some b → b.wait = some (.mbar (barIdx (.mbarw f)) ps) → b.members = [m] →
      m.gid = g.gid → m.present false ≠ 0 → (tickBatch s b).group? g.gid = some g →
      fullVerdict (.mbarw f) (mbarwReady (.mbarw f)) (engineBar (.mbarw f) true fun _ _ _ _ _ => none) (tickBatch s b) b g (m.present false) = .ok →
      ∃ t b', exec (.mbarw f) s = .next t ∧ t.issue = none ∧ t.batch? b.id = some b' ∧ b'.wait = none
        ∧ (b.rep = none → b'.woff = b.woff + wordCount (.mbarw f)))
  ∧ (∀ f, Completes (.mmove f) (mmoveReady (.mmove f)) (mmoveBar (.mmove f)) (fun _ _ g p => mmoveLanes (.mmove f) g p ≠ 0)
    (fun e b g p t => OnlyGroup g.gid e t ∧ ∃ g' fl, t.group? g.gid = some g' ∧ fl ∈ g'.flights ∧ fl.instr = .mmove f
      ∧ fl.pending = mmoveLanes (.mmove f) g p
      ∧ ∀ l0, lowestLane (mmoveLanes (.mmove f) g p) = some l0 → ∀ l ∈ lanesOf (mmoveLanes (.mmove f) g p),
        (∃ o ∈ fl.ops, o.lane = l ∧ o.ea = (srcA e (srcCtx e b g) g l (.mmove f)).toNat % 2 ^ 16 ∧ o.tgt = mmoveCount (.mmove f) e b g l0)
        ∧ ∀ j < mmoveCount (.mmove f) e b g l0, emptyAt g' l (f.dst.toNat + j) = true ∨ regOf g l (f.dst.toNat + j) = none))
  ∧ (∀ s g fl op en, fl.kind = .mmove → s.engine? g.bid = some en → en.ops = [] → (performLane s g fl op).2 = .tainted
      ((List.range op.tgt).map fun j => (BitVec.ofNat 64 ((en.entry (op.ea + 2 * j)).toNat + (en.entry (op.ea + 2 * j + 1)).toNat * 2 ^ 32),
        en.accPoison.contains (op.ea + 2 * j) || en.accPoison.contains (op.ea + 2 * j + 1))))
  ∧ (∀ f, Completes (.mstart f) (mstartReady (.mstart f)) (mstartBar (.mstart f))
    (fun e _ g p => ∃ en, e.engine? g.bid = some en ∧ g.actors p f ≠ 0)
    (fun e b g p t => t.groups = e.groups ∧ t.mem = e.mem ∧ ∀ en l0, e.engine? g.bid = some en → lowestLane (g.actors p f) = some l0 →
      ∃ en', t.engine? g.bid = some en' ∧ en'.state = 1 ∧ en'.cause = 0 ∧ en'.woff = 0 ∧ en'.loops = []
        ∧ en'.sidx = (srcA e (srcCtx e b g) g l0 (.mstart f)).toNat % 2 ^ 32
        ∧ en'.x = [0, (srcB e (srcCtx e b g) g l0 (.mstart f)).toNat % 2 ^ 32, (srcB e (srcCtx e b g) g l0 (.mstart f)).toNat / 2 ^ 32, 0, 0, 0, 0, 0]
        ∧ en'.mbars = en.mbars ∧ en'.acc = en.acc ∧ en'.slots = en.slots ∧ en'.bufs = en.bufs ∧ en'.ops = en.ops ∧ en'.accn = en.accn))

/-- A matrix-stream word at issue joins the engine's work or acts, or faults the MSQ where its ranges leave the storage (R265, R269,
R270, R272, R276, R283, R284, R285, R286, R287, R288). For a word of the MSQ in the issue slot: MZERO, MBLOAD, MMUL and MSTORE
whose entry, scratchpad, buffer and format checks hold answer a next state in which the engine has the word in flight last, with
the sums of its fields and index registers modulo 2^32, and stands at the next word; where a bound is broken the MSQ has faulted
at the word with ACCESS_FAULT, and where an MMUL's formats do not go together with ILLEGAL_OPERAND, and nothing else of the engine
changed (no MMOVE of the block being in flight, which would take that fault). MWAIT passes to the next word. MARRIVE also sets
SARR and the next count of its barrier. MLOOP with count above 0 pushes a level, with count 0 passes its body, and with four
levels open faults LOOP_DEPTH. MEND ends the stream. MATRIX_STREAM_WORD_FETCH puts the MSQ's next word in the issue slot, faults
the MSQ where it does not decode, and does nothing while the word must wait. The issue slot is then empty and memory as it was. -/
def Obligations.MatrixStreamWordsIssue : Prop :=
  (∀ s bid blk e, s.issue = some (.msq bid) → s.block? bid = some blk → blk.engine = some e →
    (∀ i xs, ((∃ x a, i = Instr.mzero x ∧ xs = [a] ∧ a = e.sum x.entry.toNat x.xr.toNat ∧ a + (x.count1.toNat + 1) ≤ e.accn)
        ∨ (∃ x a, i = .mbload x ∧ xs = [a] ∧ a = e.sum x.off.toNat x.xr.toNat
            ∧ 32 * a + (x.k1.toNat + 1) * 32 * (x.nc1.toNat + 1) * 64 ≤ blk.scr)
        ∨ (∃ x a c, i = .mmul x ∧ xs = [a, c] ∧ a = e.sum x.aoff.toNat x.xa.toNat ∧ c = e.sum x.entry.toNat x.xc.toNat
            ∧ matPair x.fmt.toNat (slotFormat e x.slot.toNat) = true ∧ 32 * a + mulM x * mulPitch x ≤ 65536 ∧ 512 * c + mulM x * mulN x ≤ e.accn)
        ∨ (∃ x c o, i = .mstore x ∧ xs = [c, o] ∧ c = e.sum x.entry.toNat x.xc.toNat ∧ o = e.sum x.off.toNat x.xs.toNat
            ∧ c + stM x * stCn x ≤ e.accn ∧ 32 * o + stM x * stCn x * storeSize x.out.toNat ≤ blk.scr)) →
      ∃ t, exec i s = .next t ∧ t.issue = none ∧ t.mem = s.mem ∧ t.groups = s.groups
        ∧ t.engine? bid = some { e with woff := e.woff + 1, ops := e.ops ++ [⟨s.nextId, i, xs, 0, e.woff, e.sidx, e.x, e.loops⟩] })
    ∧ (∀ i c, (∀ g ∈ s.groups, g.bid = bid → ∀ fl ∈ g.flights, fl.kind ≠ .mmove) →
        ((∃ x, i = Instr.mzero x ∧ c = Cause.accessFault ∧ e.accn < e.sum x.entry.toNat x.xr.toNat + (x.count1.toNat + 1))
        ∨ (∃ x, i = .mbload x ∧ c = .accessFault ∧ blk.scr < 32 * e.sum x.off.toNat x.xr.toNat + (x.k1.toNat + 1) * 32 * (x.nc1.toNat + 1) * 64)
        ∨ (∃ x, i = .mmul x ∧ c = .illegalOperand ∧ matPair x.fmt.toNat (slotFormat e x.slot.toNat) = false)
        ∨ (∃ x, i = .mmul x ∧ c = .accessFault ∧ matPair x.fmt.toNat (slotFormat e x.slot.toNat) = true
            ∧ (65536 < 32 * e.sum x.aoff.toNat x.xa.toNat + mulM x * mulPitch x ∨ e.accn < 512 * e.sum x.entry.toNat x.xc.toNat + mulM x * mulN x))
        ∨ (∃ x, i = .mstore x ∧ c = .accessFault ∧ (e.accn < e.sum x.entry.toNat x.xc.toNat + stM x * stCn x
            ∨ blk.scr < 32 * e.sum x.off.toNat x.xs.toNat + stM x * stCn x * storeSize x.out.toNat))
        ∨ (∃ x, i = .mloop x ∧ c = .loopDepth ∧ 4 ≤ e.loops.length)) →
      ∃ t, exec i s = .next t ∧ t.issue = none ∧ t.mem = s.mem ∧ t.groups = s.groups ∧ t.engine? bid = some { e with state := 3, cause := c.code })
    ∧ (∀ n, ∃ t, exec (.mwait n) s = .next t ∧ t.issue = none ∧ t.mem = s.mem ∧ t.engine? bid = some { e with woff := e.woff + 1 })
    ∧ (∀ (n : BitVec 4) c, n.toNat < e.mbars.length → ∃ t en, exec (.marrive n c) s = .next t ∧ t.issue = none ∧ t.mem = s.mem ∧ t.engine? bid = some en
        ∧ en.woff = e.woff + 1 ∧ (nth en.mbars n.toNat).sarr = true ∧ (nth en.mbars n.toNat).next = c.toNat
        ∧ (nth en.mbars n.toNat).phase = (nth e.mbars n.toNat).phase ∧ (nth en.mbars n.toNat).arr = (nth e.mbars n.toNat).arr)
    ∧ (∀ x o sec, streamSec s blk e = some (o, sec) → e.loops.length < 4 → e.woff + 1 + (x.len1.toNat + 1) ≤ sec.len →
        (∀ l ∈ e.loops, e.woff + 1 + (x.len1.toNat + 1) ≤ l.first + l.len) → hasMend s blk e (e.woff + 1) (x.len1.toNat + 1) = false →
        ∃ t, exec (.mloop x) s = .next t ∧ t.issue = none ∧ t.mem = s.mem ∧ t.engine? bid = some (if x.count.toNat = 0
          then { e with woff := e.woff + 1 + (x.len1.toNat + 1) }
          else { e with woff := e.woff + 1, loops :=
            ⟨x.count.toNat, e.woff + 1, x.len1.toNat + 1, x.xr1.toNat, x.step1.toInt, x.xr2.toNat, x.step2.toInt⟩ :: e.loops }))
    ∧ (∃ t, exec .mend s = .next t ∧ t.issue = none ∧ t.mem = s.mem ∧ t.engine? bid = some { e with state := 2, woff := e.woff + 1 }))
  ∧ (∀ (e : Engine) imm r, e.sum imm r = (imm + (if r = 0 then 0 else nth e.x r)) % 2 ^ 32)
  ∧ (∀ s bid blk e s1 i, msqNext s bid = some (blk, e) → msqFetch s blk e = (s1, .ok i) →
      (msqReady s1 blk e i = true → ∃ t, exec (.matrixStreamWordFetch bid) s = .next t ∧ t.issue = some (.msq bid) ∧ t.blocks = s1.blocks ∧ t.mem = s1.mem)
      ∧ (msqReady s1 blk e i = false → exec (.matrixStreamWordFetch bid) s = .next s))
  ∧ (∀ s bid blk e s1 c, s.block? bid = some blk → blk.engine = some e → msqNext s bid = some (blk, e) → msqFetch s blk e = (s1, .error c) →
      s1.blocks = s.blocks → s1.groups = s.groups → (∀ g ∈ s.groups, g.bid = bid → ∀ fl ∈ g.flights, fl.kind ≠ .mmove) →
      ∃ t, exec (.matrixStreamWordFetch bid) s = .next t ∧ t.engine? bid = some { e with state := 3, cause := c.code })

/-- MATRIX_OP_COMPLETE performs a word in flight, an MMUL row by row; barriers turn and loops pass (R266, R271, R274, R276, R280,
R283, R284, R285, R286, R288, R297). For a word in flight that may act, in unpoisoned storage: MZERO leaves its entries 0 and
every other as it was; MSTORE leaves the block's scratchpad with the entries' bytes at its offset; a row of an MMUL leaves each
entry of the row the row's products and sums with the old entry, and every other as it was; MBLOAD leaves its slot with the format
of the word and each of its rows at its place. MATRIX_BARRIER_TURN with SARR set, all arrivals in and no awaited load or store in
flight turns the phase, clears arrivals, those of a group in part too, and SARR and takes the next count. MLOOP_PASS_END at a
body's end adds the steps modulo 2^32 (never to x0), and starts the body again with the count one lower or pops the level. -/
def Obligations.MatrixWorkCompletes : Prop :=
  (∀ s bid blk e o, s.block? bid = some blk → blk.engine = some e → (e.ops.find? fun p => p.seq == o.seq) = some o → matOpFree s blk e o = true →
    (∀ x, o.instr = .mzero x → ∃ t en, exec (.matrixOpComplete bid o.seq) s = .next t ∧ t.engine? bid = some en ∧ (∀ p ∈ en.ops, p.seq ≠ o.seq)
      ∧ ∀ n, en.entry n = if nth o.xs 0 ≤ n ∧ n < nth o.xs 0 + (x.count1.toNat + 1) then 0 else e.entry n)
    ∧ (∀ x, o.instr = .mstore x → (∀ p ∈ e.accPoison, p < nth o.xs 0 ∨ nth o.xs 0 + stM x * stCn x ≤ p) →
      ∃ t blk', exec (.matrixOpComplete bid o.seq) s = .next t ∧ t.block? bid = some blk' ∧ t.mem = s.mem
        ∧ blk'.scratch = Memory.write blk.scratch (32 * nth o.xs 1)
            ((List.range (stM x * stCn x)).flatMap fun j => storeEntry x.out.toNat x.sat (e.entry (nth o.xs 0 + j))))
    ∧ (∀ x, o.instr = .mmul x → (nth e.bufs x.buf.toNat).poison = [] → (nth e.slots x.slot.toNat).poison = [] →
      ∃ t en, exec (.matrixOpComplete bid o.seq) s = .next t ∧ t.engine? bid = some en
        ∧ (∀ n < mulN x, en.entry (512 * nth o.xs 1 + o.row * mulN x + n) = mulEntry x.fmt.toNat (nth e.slots x.slot.toNat).fmt
            ((List.range (mulK x)).map fun k => ofBytes (Memory.read (nth e.bufs x.buf.toNat).mem
              (32 * nth o.xs 0 + o.row * mulPitch x + k * matBytes x.fmt.toNat) (matBytes x.fmt.toNat)))
            ((List.range (mulK x)).map fun k => ofBytes (Memory.read (nth e.slots x.slot.toNat).mem
              ((x.ks.toNat * 32 + k) * 384 + (x.ns.toNat * matCols x.fmt.toNat + n) * matBytes x.fmt.toNat) (matBytes x.fmt.toNat)))
            (e.entry (512 * nth o.xs 1 + o.row * mulN x + n)))
        ∧ (∀ n, (n < 512 * nth o.xs 1 + o.row * mulN x ∨ 512 * nth o.xs 1 + (o.row + 1) * mulN x ≤ n) → en.entry n = e.entry n)
        ∧ (o.row + 1 < mulM x → { o with row := o.row + 1 } ∈ en.ops) ∧ (mulM x ≤ o.row + 1 → ∀ p ∈ en.ops, p.seq ≠ o.seq))
    ∧ (∀ x, o.instr = .mbload x → blk.scratchPoison = [] → x.slot.toNat < e.slots.length → Memory.wf (nth e.slots x.slot.toNat).mem = true →
      x.ns.toNat * 64 + (x.nc1.toNat + 1) * 64 ≤ 384 →
      ∃ t en, exec (.matrixOpComplete bid o.seq) s = .next t ∧ t.engine? bid = some en ∧ (nth en.slots x.slot.toNat).fmt = x.fmt.toNat
        ∧ ∀ j < (x.k1.toNat + 1) * 32, ∀ k < (x.nc1.toNat + 1) * 64,
            Memory.get (nth en.slots x.slot.toNat).mem ((x.ks.toNat * 32 + j) * 384 + x.ns.toNat * 64 + k)
              = Memory.get blk.scratch (32 * nth o.xs 0 + j * ((x.nc1.toNat + 1) * 64) + k)))
  ∧ (∀ s bid blk e n, s.block? bid = some blk → blk.engine = some e → n < 16 → n < e.mbars.length → engineMay s blk.ctx .msq (fun _ => true) = true →
      (nth e.mbars n).sarr = true → mbarMet s bid (nth e.mbars n) = true → (∀ q ∈ (nth e.mbars n).waits, ∀ o ∈ e.ops, o.seq ≠ q) →
      ∃ t en, exec (.matrixBarrierTurn bid n) s = .next t ∧ t.engine? bid = some en ∧ (nth en.mbars n).phase = (nth e.mbars n).phase + 1
        ∧ (nth en.mbars n).arr = 0 ∧ (nth en.mbars n).sarr = false ∧ (∀ x ∈ t.groups, x.bid = bid → ∀ a ∈ x.mbars, a.idx = n → a.lanes = 0)
        ∧ (nth en.mbars n).expc = (if (nth e.mbars n).next = 63 then (nth e.mbars n).expc else (nth e.mbars n).next))
  ∧ (∀ s bid blk e l rest, s.block? bid = some blk → blk.engine = some e → e.state = 1 → e.loops = l :: rest → e.woff = l.first + l.len →
      ∃ t, exec (.mloopPassEnd bid) s = .next t ∧ t.engine? bid = some { e with
        x := xStep (xStep e.x l.xr1 l.step1) l.xr2 l.step2
        woff := if 2 ≤ l.count then l.first else e.woff
        loops := if 2 ≤ l.count then { l with count := l.count - 1 } :: rest else rest })
  ∧ (∀ xs d, xStep xs 0 d = xs)
  ∧ (∀ xs r d, 0 < r → r < xs.length → ((nth (xStep xs r d) r : Nat) : Int) = (((nth xs r : Nat) : Int) + d) % 2 ^ 32)

/-- MARCH starts a ray job with its lane's ray; a job's registers turn full together when it ends (R157, R299, R300, R303, R315). With
one acting lane and nothing in flight, when nothing holds it back, MARCH answers a next state in which its word is in flight for
that lane and the core has a job with the lane's origin, direction, limits, epsilon, step cap (0 meaning 2^32 - 1), scene and
depth operands. RAY_SPAN_EVAL of a job whose operands no handler has changed, at its cap and not in an evaluation, ends it with
CODE 2 at ta; an evaluation that answers NaI ends it with CODE 3, an upper bound below 0 hits at ta, and a lower bound above 0
with no span left at tmax misses. An evaluation that begins counts one and its bound is applied: a lower bound above 0, or the
empty interval, takes the next span, popped or beyond tb with L twice the span's length, at most LMAX; a bound that holds 0 halves
a span longer than epsilon. OPAQUE_REPLY takes the result where the reply area shows the job's TAG, and leaves the job where it
does not. RAY_JOB_END of a job that missed or failed, or of a hit whose depth update is done (the smaller of the depth and t ×
DSC, DWIN where it lowered it), gives its slot back and leaves t and the status word with CODE and the count in the lane's two
registers, full. -/
def Obligations.MarchStartsRayJobs : Prop :=
  (∀ f, Completes (.march f) (marchReady (.march f)) (marchBar (.march f))
    (fun e _ g p => g.flights = [] ∧ e.nextId ≠ 0 ∧ ∃ l c, l < 32 ∧ g.participants p f = laneBit l ∧ (g.fibre l).helper = false ∧ e.core? g.core = some c)
    (fun e b g p t => ∀ l, l < 32 → g.participants p f = laneBit l →
      let w (n : Nat) : Nat := (spanVal e (srcCtx e b g) g l f.sa.toNat n).toNat
      ∃ c' j g' fl o, t.core? g.core = some c' ∧ j ∈ c'.rays ∧ j.gid = g.gid ∧ j.lane = l ∧ j.ctx = g.ctx
        ∧ j.org = [w 0 % 2 ^ 32, w 0 / 2 ^ 32, w 1 % 2 ^ 32] ∧ j.dir = [w 1 / 2 ^ 32, w 2 % 2 ^ 32, w 2 / 2 ^ 32]
        ∧ j.t0 = w 3 % 2 ^ 32 ∧ j.tmax = w 3 / 2 ^ 32 ∧ j.eps = w 4 % 2 ^ 32 ∧ j.cap = (if w 4 / 2 ^ 32 = 0 then 2 ^ 32 - 1 else w 4 / 2 ^ 32)
        ∧ j.scene = (srcB e (srcCtx e b g) g l (.march f)).toNat
        ∧ j.depth = (if f.sc = 0x0CA then none else some (srcC e (srcCtx e b g) g l (.march f)).toNat)
        ∧ t.group? g.gid = some g' ∧ fl ∈ g'.flights ∧ fl.instr = .march f ∧ fl.pending = laneBit l ∧ o ∈ fl.ops ∧ o.lane = l ∧ o.tgt = j.id))
  ∧ (∀ s core slot j bs, s.rayJob? core slot = some j → engineMay s j.ctx .marcher (fun st => decide (st.first ≤ j.id)) = true → jobDropped s j = false →
      jobNew? s j = none → j.fault = none → j.result = none → j.desc = some bs → j.tag = none → j.room = false → jobLockWaits s core j.ctx (codeRange 4 (sceneOf bs)) = false →
      j.begun = false → j.count = j.cap →
      ∃ t, exec (.raySpanEval core slot) s = .next t ∧ t.rayJob? core slot = some { j with result := some (j.ta, 2) } ∧ t.mem = s.mem)
  ∧ (∀ s core slot j bs s1 f, s.rayJob? core slot = some j → engineMay s j.ctx .marcher (fun st => decide (st.first ≤ j.id)) = true → jobDropped s j = false →
      jobNew? s j = none → j.fault = none → j.result = none → j.desc = some bs → j.tag = none → j.room = false → jobLockWaits s core j.ctx (codeRange 4 (sceneOf bs)) = false →
      j.begun = false → j.count ≠ j.cap →
      let x := sceneOf bs
      let rd := jobRd core j.ctx j.gid j.lane
      let v (p : Nat) : XR := (xr32 p).getD XR.zero
      evGo (codeFetch rd x j.bid) rd x x.len 0 (evStart x (j.org.map v) (j.dir.map v) (v j.ta) (v j.tb) [])
        (countEvent (chargeCtx s j.ctx 24000) j.ctx 7 1) = (s1, .fin f) → s1.rayJob? core slot = some j →
      ∃ t, exec (.raySpanEval core slot) s = .next t ∧ t.rayJob? core slot = some ({ j with count := j.count + 1 }.apply x f) ∧ t.mem = s1.mem)
  ∧ (∀ (j : RayJob) x, (j.apply x .nai).result = some (j.ta, 3)
      ∧ (∀ lo hi : XR, lo.sign ≤ 0 → hi.sign < 0 → (j.apply x (.mk lo hi)).result = some (j.ta, 0))
      ∧ (∀ lo hi : XR, lo.sign > 0 → j.spans = [] → j.tb = j.tmax → (j.apply x (.mk lo hi)).result = some (0x7F800000, 1))
      ∧ (∀ (lo hi : XR) a c rest, lo.sign > 0 → j.spans = (a, c) :: rest → (j.apply x (.mk lo hi)).ta = a ∧ (j.apply x (.mk lo hi)).tb = c
          ∧ (j.apply x (.mk lo hi)).spans = rest ∧ (j.apply x (.mk lo hi)).result = j.result))
  ∧ (∀ (j : RayJob) x a b, xr32 j.ta = some (.fin a) → xr32 j.tb = some (.fin b) →
      let tm := fp32.encode (fp32.roundDy ctxRNE false ((a.add b).scale (-1))).1
      (∀ f len m, (f = .empty ∨ ∃ lo hi, f = .mk lo hi ∧ lo.sign > 0) → j.spans = [] → xr32 j.tmax = some m → m ≠ .fin b →
          rne32 (b.add a.neg) = .fin len →
          (j.apply x f).ta = j.tb ∧ (j.apply x f).tb = nextEnd j.tb ((XR.fin (len.scale 1)).min ((xr32 x.lmax).getD XR.zero)) j.tmax
            ∧ (j.apply x f).spans = [] ∧ (j.apply x f).result = j.result ∧ (j.apply x f).count = j.count)
      ∧ (∀ lo hi : XR, lo.sign ≤ 0 → hi.sign ≥ 0 →
          ((XR.fin (b.add a.neg)).le ((xr32 j.eps).getD XR.zero) = true → (j.apply x (.mk lo hi)).result = some (j.ta, 0))
          ∧ (∀ m, (XR.fin (b.add a.neg)).le ((xr32 j.eps).getD XR.zero) = false → xr32 tm = some m → m.le (.fin a) = false → (XR.fin b).le m = false →
              (j.spans.length < 16 → (j.apply x (.mk lo hi)).spans = (tm, j.tb) :: j.spans ∧ (j.apply x (.mk lo hi)).ta = j.ta
                ∧ (j.apply x (.mk lo hi)).tb = tm ∧ (j.apply x (.mk lo hi)).result = j.result)
              ∧ (16 ≤ j.spans.length → (j.apply x (.mk lo hi)).result = some (j.ta, 0) ∧ (j.apply x (.mk lo hi)).deep = true))))
  ∧ (∀ (j : RayJob) x a c rest, j.spans = (a, c) :: rest → (j.apply x .empty).ta = a ∧ (j.apply x .empty).tb = c ∧ (j.apply x .empty).spans = rest)
  ∧ (∀ (j : RayJob) x, j.spans = [] → j.tb = j.tmax → (j.apply x .empty).result = some (0x7F800000, 1))
  ∧ (∀ s core slot j tag reply s1 bs, s.rayJob? core slot = some j → j.tag = some (tag, reply) → j.fault = none →
      engineMay s j.ctx .marcher (fun st => decide (st.first ≤ j.id)) = true → jobRead s core j.ctx j.gid j.lane reply 16 = (s1, .ok bs) →
      s1.rayJob? core slot = some j →
      ∃ t, exec (.opaqueReply core slot) s = .next t
        ∧ (byteField bs 8 8 = tag → t.rayJob? core slot = some { j with tag := none, answers := j.answers ++ [BitVec.ofNat 64 (byteField bs 0 8)] })
        ∧ (byteField bs 8 8 ≠ tag → t.rayJob? core slot = some j))
  ∧ (∀ s core slot j tt code g fl, s.rayJob? core slot = some j → j.result = some (tt, code) → code ≠ 0 → j.fault = none →
      engineMay s j.ctx .marcher (fun st => decide (st.first ≤ j.id)) = true → jobAside s j = false → jobNew? s j = none → jobFlight s j = some (g, fl) →
      fl.uniform = false → opOf fl.instr = 0xC9 → (g.fibre j.lane).live = true → j.lane < g.fibres.length →
      ∃ t g', exec (.rayJobEnd core slot) s = .next t ∧ t.group? g.gid = some g'
        ∧ (∀ c', t.core? core = some c' → ∀ k ∈ c'.rays, k.id ≠ j.id)
        ∧ (∀ n, vIndex g (fieldsOfInstr fl.instr).dst.toNat = some n → vIndex g ((fieldsOfInstr fl.instr).dst.toNat + 1) ≠ some n → n < (g.fibre j.lane).v.length →
            nth (g'.fibre j.lane).v n = ⟨BitVec.ofNat 64 tt, true, false⟩)
        ∧ (∀ n, vIndex g ((fieldsOfInstr fl.instr).dst.toNat + 1) = some n → n < (g.fibre j.lane).v.length →
            nth (g'.fibre j.lane).v n = ⟨BitVec.ofNat 64 (code + j.count * 2 ^ 32), true, false⟩))
  ∧ (∀ s core slot j tt g fl s1 dwin, s.rayJob? core slot = some j → j.result = some (tt, 0) → j.fault = none →
      engineMay s j.ctx .marcher (fun st => decide (st.first ≤ j.id)) = true → jobAside s j = false → jobNew? s j = none →
      depthUpdate s core j tt = (s1, .ok dwin) → jobFlight s1 j = some (g, fl) →
      fl.uniform = false → opOf fl.instr = 0xC9 → (g.fibre j.lane).live = true → j.lane < g.fibres.length →
      ∃ t g', exec (.rayJobEnd core slot) s = .next t ∧ t.group? g.gid = some g'
        ∧ (∀ c', t.core? core = some c' → ∀ k ∈ c'.rays, k.id ≠ j.id)
        ∧ (∀ n, vIndex g (fieldsOfInstr fl.instr).dst.toNat = some n → vIndex g ((fieldsOfInstr fl.instr).dst.toNat + 1) ≠ some n → n < (g.fibre j.lane).v.length →
            nth (g'.fibre j.lane).v n = ⟨BitVec.ofNat 64 tt, true, false⟩)
        ∧ (∀ n, vIndex g ((fieldsOfInstr fl.instr).dst.toNat + 1) = some n → n < (g.fibre j.lane).v.length →
            nth (g'.fibre j.lane).v n = ⟨BitVec.ofNat 64 ((if j.deep then 64 else 0) + (if dwin then 128 else 0) + j.count * 2 ^ 32), true, false⟩))
  ∧ (∀ s core j tt va bs, (j.depth = none → depthUpdate s core j tt = (s, .ok false))
      ∧ (∀ s1 a, j.depth = some va → j.desc = some bs → portParts s core j.ctx va 4 .reduce [] = (s1, .ok [(va, 4, .local a)]) → Memory.wf s1.mem = true →
          s1.poisoned a 4 = false → (∀ c, s.core? core = some c → c.pend = []) →
          let new := fp32.encode (fvMul fp32 ctxRNE (fp32.decode tt) (fp32.decode (sceneOf bs).dsc)).1
          let old := Memory.readN s1.mem a 4
          ∃ s2, depthUpdate s core j tt = (s2, .ok ((fp32.decode old).isNaN || (fp32.decode new).ltNum (fp32.decode old)))
            ∧ ((fp32.decode new).isNaN = false → (fp32.decode old).isNaN = false → (fp32.decode new).isZero = false →
                Memory.readN s2.mem a 4 = if (fp32.decode new).ltNum (fp32.decode old) then new else old)
            ∧ ∀ i, i < a ∨ a + 4 ≤ i → Memory.get s2.mem i = Memory.get s1.mem i))

/-- PRUNE flies with its box; RDRAW queues a batch that RASTER_TRIANGLE draws and FRAGMENT_RECORD_APPEND hands on; RREL waits for it
(R161, R317, R318, R319, R321, R322). When nothing holds them back: PRUNE is in flight for one lane with its scene, destination
and box, and with its descriptor where that can be read, and no byte of memory is other than that read leaves it; RDRAW with an
acting lane queues a batch with the lowest such lane's descriptor address, which every acting lane is before. RASTER_TRIANGLE for
the batch a cluster has in hand, its fields and queue valid and its ranges registered, draws the next triangle, claims their
places and keeps its records, where the queue has room for as many as it can hold, waits where it has not, and ends the batch
after the last. FRAGMENT_RECORD_APPEND puts the next record into its claimed place, or a further one where the queue has room, and
notes the quad; it does nothing while the queue is full. RREL in a group with nothing else under way, where no raster batch is
known, is complete at once and leaves no write of its lanes waiting in the core at cluster scope or wider; in a group with nothing
in flight, a lane that issued the RDRAW of a batch still open keeps it in flight. -/
def Obligations.PruneAndRasterUnit : Prop :=
  (∀ f s b g0 p g, Alone (.prune f) pruneReady (pruneBar (.prune f)) s b g0 p → (entered (.prune f) s b g0 p).group? g0.gid = some g →
      (∀ l ∈ lanesOf p, l < g.fibres.length) → ∃ t, exec (.prune f) s = .next t ∧ ∀ l, lowestLane p = some l →
      let e := entered (.prune f) s b g0 p
      let scene := pruneScene e (srcCtx e b g) g (.prune f)
      let r := ((pruneDesc e.fresh.2 g l scene).1, (pruneDesc s g l scene).2)
      t.mem = r.1.mem ∧ t.hostMem = r.1.hostMem ∧ t.peerMem = r.1.peerMem ∧ ∃ g' fl o, t.group? g.gid = some g' ∧ fl ∈ g'.flights ∧ fl.instr = .prune f ∧ fl.pending = laneBit l ∧ fl.ops = [o]
        ∧ o.ea = (srcA e (srcCtx e b g) g 0 (.prune f)).toNat
        ∧ nth o.data 0 = BitVec.ofNat 64 (srcC e (srcCtx e b g) g 0 (.prune f)).toNat
        ∧ (∀ n < 3, nth o.data (n + 1) = spanVal e (srcCtx e b g) g l f.sb.toNat n)
        ∧ (∀ bs, r.2 = some bs → o.data.drop 4 = descWords bs) ∧ (r.2 = none → o.data.length = 4))
  ∧ (∀ f, Completes (.rdraw f) (rdrawReady (.rdraw f)) (rdrawBar (.rdraw f)) always
    (fun e b g p t => t.mem = e.mem ∧ t.groups = e.groups ∧ t.blocks = e.blocks
      ∧ (lowestLane (g.actors p f) = none → t.rasters = e.rasters)
      ∧ ∀ l, lowestLane (g.actors p f) = some l → wordVerdict e b g p (.rdraw f) = .ok → (srcA e (srcCtx e b g) g l (.rdraw f)).toNat % 64 = 0 → ∃ j : RasterJob, t.rasters = e.rasters ++ [j] ∧ j.descAddr = (srcA e (srcCtx e b g) g l (.rdraw f)).toNat
          ∧ j.gid = g.gid ∧ j.lane = l ∧ j.ctx = g.ctx ∧ j.tri = 0 ∧ j.records = [] ∧ j.done = false ∧ j.quads = []
          ∧ ∀ n ∈ lanesOf (g.actors p f), (g.gid, n) ∈ j.before))
  ∧ (∀ s clu j bs, rasterHead s clu = some j → j.fault = none → j.desc = some bs → drawBad bs = false → ∀ p q, engineQueue s j.lid (drawOf bs).fq = some (p, q) →
      j.locked = true → lockWaits s j.core j.id (fun _ => true) = false → j.records = [] →
      ((drawOf bs).count ≤ j.tri → ∃ t k, exec (.rasterTriangle clu) s = .next t ∧ k ∈ t.rasters ∧ k.id = j.id ∧ k.done = true ∧ t.mem = s.mem)
      ∧ (∀ s1 rs n, j.tri < (drawOf bs).count → drawTriangle (drawOf bs) (jobRd j.core j.ctx j.gid j.lane) j.core j.ctx j.tri s = (s1, .ok (rs, n)) → s1.rasters = s.rasters →
          ((recordRoom s j q rs.length).2 = .ok true → ∃ t k, exec (.rasterTriangle clu) s = .next t ∧ k ∈ t.rasters ∧ k.id = j.id ∧ k.tri = j.tri + 1
              ∧ k.records = rs ∧ k.slots.length = min rs.length q.nrec ∧ t.mem = s1.mem)
          ∧ ((recordRoom s j q rs.length).2 = .ok false → exec (.rasterTriangle clu) s = .next s)))
  ∧ (∀ s clu j bs r rest p q, recordHead s clu = some j → j.fault = none → j.desc = some bs → j.records = r :: rest →
      engineQueue s j.lid (drawOf bs).fq = some (p, q) →
      (j.slots = [] → q.nrec ≤ q.occupancy → exec (.fragmentRecordAppend clu) s = .next s)
      ∧ (∀ s1 i n ns, j.slots = n :: ns → fragPublish s j p q n r = (s1, .ok i) → s1.rasters.map RasterJob.id = s.rasters.map RasterJob.id →
          ∃ t k, exec (.fragmentRecordAppend clu) s = .next t ∧ k ∈ t.rasters ∧ k.id = j.id ∧ k.records = rest ∧ k.slots = ns ∧ i = n
            ∧ (p.pid, q.index, n) ∈ k.quads ∧ t.mem = s1.mem)
      ∧ (∀ s1 i, j.slots = [] → engineAppend s j.core j.ctx j.gid j.lane p q r = some (s1, .ok i) → s1.rasters.map RasterJob.id = s.rasters.map RasterJob.id →
          ∃ t k, exec (.fragmentRecordAppend clu) s = .next t ∧ k ∈ t.rasters ∧ k.id = j.id ∧ k.records = rest ∧ (p.pid, q.index, i) ∈ k.quads ∧ t.mem = s1.mem))
  ∧ (∀ f, Completes (.rrel f) memReady noBar (fun e _ g p => Calm e g ∧ e.rasters = [] ∧ g.actors p f ≠ 0)
    (fun e _ g p t => (∃ g', t.group? g.gid = some g' ∧ g'.flights = []) ∧ ∀ c, e.core? g.core = some c → ∃ c', t.core? g.core = some c'
      ∧ (2 ≤ (Scope.ofCode (f.sc.toNat % 8)).rank → ∀ w ∈ c'.pend, w.ctx = g.ctx → w.gid = g.gid → w.lane ∉ lanesOf (g.actors p f))))
  ∧ (∀ f, Completes (.rrel f) memReady noBar (fun _ _ g _ => g.flights = [])
    (fun e _ g p t => ∀ l ∈ lanesOf (g.actors p f), ∀ r ∈ e.rasters, r.ctx = g.ctx → (g.gid, l) ∈ r.before → r.id < e.nextId → r.open_ = true →
      ∃ g' fl, t.group? g.gid = some g' ∧ fl ∈ g'.flights ∧ fl.instr = .rrel f ∧ l ∈ lanesOf fl.pending))

/-- ENQ waits for room and claims the tail; DEQ waits for a record and takes the head; a long wait suspends (R356, R371, R372, R373).
ENQ and DEQ that nothing holds back leave the batch waiting in the word, DEQ with its lanes in flight. A batch that waits in ENQ
with acting lanes and room in its queue claims an index for each, from the queue's next on, in lane order, and puts each lane's
words in flight. A lane of such an ENQ whose record's page is there writes its bytes at BASE + (index mod NREC) × RSZ, and the
index is published. A DEQ in flight with one lane, the only claimant of its batch, takes the record at the head where one is
available: its words stand in the lane's registers, full, and the head has passed it. A batch of one group in which nothing is in
flight and no trap waits goes on past DEQ. ENQ_WAIT_SUSPEND of a batch whose one group has waited 4096 clocks without room writes
a continuation that waits for that room where the group may suspend, and changes nothing where it may not. -/
def Obligations.StageQueueWords : Prop :=
  (∀ f, Completes (.enq f) (enqReady (.enq f)) (enqBar (.enq f)) (fun e b _ _ => e.batch? b.id = some b)
    (fun e b _ _ t => t.groups = e.groups ∧ t.mem = e.mem ∧ t.pipes = e.pipes ∧ ∃ b', t.batch? b.id = some b' ∧ b'.wait = some .enq ∧ b'.woff = b.woff))
  ∧ (∀ f s b g m p q, issuerBatch s = some b → s.batch? b.id = some b → b.wait = some .enq → b.members = [m] → m.gid = g.gid → m.present false ≠ 0 →
      s.group? g.gid = some g → fullVerdict (.enq f) (enqReady (.enq f)) (enqBar (.enq f)) s b g (m.present false) = .ok →
      let lanes := acting (.enq f) g (m.present false)
      groupPipe s g = some p → stageQueue (.enq f) s b g = some q → q.index = queueNo (.enq f) s b g →
      (∀ (i : Nat) (x : StageQueue), p.queues[i]? = some x → x.index = i) → lanes ≠ 0 → (∀ w ∈ s.wps, w = none) →
      (∀ c, s.context? g.ctx = some c → c.fpol ≠ 1) → g.flights = [] → g.held = [] →
      ∃ t p' q' g' fl, exec (.enq f) s = .next t ∧ t.issue = none ∧ lookupBy Pipe.pid p.pid t.pipes = some p' ∧ p'.queues[q.index]? = some q'
        ∧ q'.tail = q.tail + (lanesOf lanes).length ∧ q'.head = q.head
        ∧ t.group? g.gid = some g' ∧ fl ∈ g'.flights ∧ fl.kind = .enq ∧ fl.pending = lanes ∧ fl.ops.length = (lanesOf lanes).length
        ∧ ∀ k < (lanesOf lanes).length, ∃ o ∈ fl.ops, o.lane = nth (lanesOf lanes) k ∧ o.ea = q.index ∧ o.tgt = q.tail + k
            ∧ o.data.drop 1 = (List.range (q.rsz / 8)).map fun j => spanVal s (srcCtx s b g) g o.lane f.sa.toNat j)
  ∧ (∀ s gid seq g fl o l p q s1 pa, s.group? gid = some g → flightMay s gid seq = true → g.flights = [fl] → fl.seq = seq → fl.kind = .enq → fl.held = [] →
      fl.void = 0 → fl.parts = [] → (fl.ops.find? fun o => o.lane == l) = some o → inMask fl.pending l = true → g.held = [] → g.trap = none →
      groupPipe s g = some p → p.queues[o.ea]? = some q → q.index = o.ea → (∀ (i : Nat) (x : StageQueue), p.queues[i]? = some x → x.index = i) →
      (∀ c, s.core? g.core = some c → c.pend = []) → Memory.wf s.mem = true →
      let rec_ := (o.data.drop 1).flatMap fun w => toBytes w.toNat 8
      let va := q.base + o.tgt % q.nrec * q.rsz
      portParts s g.core g.ctx va rec_.length .write rec_ = (s1, .ok [(va, rec_.length, .local pa)]) →
      ∃ t p' q', exec (.variableLatencyResult gid seq (laneBit l)) s = .next t ∧ (∀ j < rec_.length, Memory.get t.mem (pa + j) = nth rec_ j)
        ∧ lookupBy Pipe.pid p.pid t.pipes = some p' ∧ p'.queues[o.ea]? = some q' ∧ o.tgt ∉ q'.unpublished ∧ q'.tail = q.tail ∧ q'.head = q.head)
  ∧ (∀ f, Completes (.deq f) (deqReady (.deq f)) (deqBar (.deq f)) (fun e b g p => e.batch? b.id = some b ∧ acting (.deq f) g p ≠ 0)
    (fun e b g p t => OnlyGroup g.gid e t ∧ (∃ b', t.batch? b.id = some b' ∧ b'.wait = some (.deq []) ∧ b'.woff = b.woff)
      ∧ ∃ g' fl, t.group? g.gid = some g' ∧ fl ∈ g'.flights ∧ fl.instr = .deq f ∧ fl.pending = acting (.deq f) g p))
  ∧ (∀ s gid seq lanes g fl o l p q s1 bs, s.group? gid = some g → flightMay s gid seq = true →
      (g.flights.find? fun e => e.seq == seq && e.kind == .deq) = some fl → fl.held = [] → fl.ops = [o] → fl.pending = laneBit l → l < 32 →
      deqQuad fl.instr = false → groupPipe s g = some p → deqMates s g fl p.pid o.ea = [(g, fl)] → p.queues[o.ea]? = some q → 1 ≤ q.available → q.index = o.ea →
      (∀ (i : Nat) (x : StageQueue), p.queues[i]? = some x → x.index = i) → recordBytes s g q q.head = (s1, .ok bs) →
      (g.fibre l).live = true → (g.fibre l).helper = false → l < g.wg → l < g.fibres.length →
      ∃ t g' p' q', exec (.variableLatencyResult gid seq lanes) s = .next t ∧ t.group? gid = some g'
        ∧ (∀ j < bs.length / 8, ∀ n, vIndex g ((fieldsOfInstr fl.instr).dst.toNat + j) = some n → n < (g.fibre l).v.length →
            (∀ k < bs.length / 8, vIndex g ((fieldsOfInstr fl.instr).dst.toNat + k) = some n → k = j) →
            nth (g'.fibre l).v n = ⟨BitVec.ofNat 64 (byteField bs (8 * j) 8), true, false⟩)
        ∧ lookupBy Pipe.pid p.pid t.pipes = some p' ∧ p'.queues[o.ea]? = some q' ∧ q'.head = q.head + 1 ∧ q'.tail = q.tail)
  ∧ (∀ f s b g m ts, issuerBatch s = some b → s.batch? b.id = some b → b.wait = some (.deq ts) → (∀ w ∈ s.wps, w = none) → b.members = [m] → m.gid = g.gid → m.present false ≠ 0 →
      (tickBatch s b).group? g.gid = some g → g.flights = [] → g.held = [] →
      fullVerdict (.deq f) (deqReady (.deq f)) (deqBar (.deq f)) (tickBatch s b) b g (m.present false) = .ok →
      ∃ t b', exec (.deq f) s = .next t ∧ t.issue = none ∧ t.batch? b.id = some b' ∧ b'.wait = none ∧ (b.rep = none → b'.woff = b.woff + wordCount (.deq f)))
  ∧ (∀ s batch b f g m q, s.batch? batch = some b → b.wait = some .enq → b.members.map Member.gid = [g.gid] → longWait s b g.gid = some (.enq f, g, m) → stageQueue (.enq f) s b g = some q →
      q.nrec - q.occupancy < enqCount (.enq f) s b q →
      (suspendRecord s g b.seg (succVal (.enq f) s b g) = none → exec (.enqWaitSuspend batch) s = .next s)
      ∧ (∀ s1 n, n = (lanesOf (acting (.enq f) g m)).length → trySuspend s g b.seg (succVal (.enq f) s b g) (waitRoom q.index n) = some s1 → waitMay s g.gid = true → q.index < 64 → 1 ≤ n →
          ∃ (t : State) (k : Cont), exec (.enqWaitSuspend batch) s = .next t ∧ t.conts = s.conts ++ [k] ∧ k.ctx = g.ctx ∧ k.lid = g.lid
            ∧ k.wait = .room q.index n))

/-- EVSIG adds to an event's count; EVWAIT waits until the count reaches its target modulo 2^32 (R368, R369, R374). With one acting
lane, EVSIG answers a next state in which the event that bits 15 to 0 of A name stands n higher modulo 2^32 (n from B, 0 meaning
1) and every other event of the context as it was. EVWAIT leaves the batch waiting in the word. EVENT_WAITER_RELEASE lets it go
where no acting lane's wait is unmet and leaves it where one is; a released batch of one group, in which nothing is in flight and
no trap waits, goes on past the word. A wait is met when count minus target, modulo 2^32, is below 2^31. EVWAIT_SUSPEND of a batch
whose one group has waited 4096 clocks writes a continuation that waits for the group's first unmet event where the group may
suspend, and changes nothing where it may not. That each group suspends by itself is log entry 157, EVSIG's scope log entry 161,
and how a word waits log entry 116. -/
def Obligations.EventWords : Prop :=
  (∀ f, Completes (.evsig f) (syncReady (.evsig f)) (nameBar (.evsig f) fun _ _ _ _ => false)
    (fun e _ g p => ∃ l c, acting (.evsig f) g p = laneBit l ∧ l < 32 ∧ e.context? g.ctx = some c)
    (fun e b g p t => t.groups = e.groups ∧ ∀ l, acting (.evsig f) g p = laneBit l → l < 32 →
      let name := (srcA e (srcCtx e b g) g l (.evsig f)).toNat % 2 ^ 16
      let n := (srcB e (srcCtx e b g) g l (.evsig f)).toNat % 2 ^ 32
      eventCount t g.ctx name = (eventCount e g.ctx name + (if n = 0 then 1 else n)) % 2 ^ 32
        ∧ ∀ k, k ≠ name → eventCount t g.ctx k = eventCount e g.ctx k))
  ∧ (∀ f, Completes (.evwait f) evwaitReady (nameBar (.evwait f) fun _ _ _ _ => false) (fun e b _ _ => e.batch? b.id = some b)
    (fun e b _ _ t => t.groups = e.groups ∧ t.mem = e.mem ∧ t.contexts = e.contexts
      ∧ ∃ b', t.batch? b.id = some b' ∧ b'.wait = some (.event false) ∧ b'.woff = b.woff))
  ∧ (∀ s batch b i, s.batch? batch = some b → b.wait = some (.event false) → (fetchInstr s b).2 = .ok i →
      (evUnmet i s b = [] → ∃ t, exec (.eventWaiterRelease batch) s = .next t ∧ t.batch? batch = some { b with wait := some (.event true) }
          ∧ t.groups = s.groups ∧ t.mem = s.mem)
      ∧ (evUnmet i s b ≠ [] → exec (.eventWaiterRelease batch) s = .next s))
  ∧ (∀ f s b g m, issuerBatch s = some b → s.batch? b.id = some b → b.wait = some (.event true) → b.members = [m] → m.gid = g.gid →
      m.present false ≠ 0 → (tickBatch s b).group? g.gid = some g → g.flights = [] → g.held = [] →
      fullVerdict (.evwait f) evwaitReady (nameBar (.evwait f) fun _ _ _ _ => false) (tickBatch s b) b g (m.present false) = .ok →
      ∃ t b', exec (.evwait f) s = .next t ∧ t.issue = none ∧ t.batch? b.id = some b' ∧ b'.wait = none
        ∧ (b.rep = none → b'.woff = b.woff + wordCount (.evwait f)))
  ∧ (∀ s ctx name target, eventMet s ctx name target = true ↔
      (((eventCount s ctx name : Nat) : Int) - ((target % 2 ^ 32 : Nat) : Int)) % (2 ^ 32 : Int) < 2 ^ 31)
  ∧ (∀ s batch b f g m n tgt rest, s.batch? batch = some b → b.wait = some (.event false) → b.members.map Member.gid = [g.gid] →
      longWait s b g.gid = some (.evwait f, g, m) → evUnmetIn (.evwait f) s b g m = (n, tgt) :: rest →
      (suspendRecord s g b.seg (succVal (.evwait f) s b g) = none → exec (.evwaitSuspend batch) s = .next s)
      ∧ (∀ s1, trySuspend s g b.seg (succVal (.evwait f) s b g) (waitEvent n tgt) = some s1 → waitMay s g.gid = true → n < 0xFFFF → tgt < 2 ^ 32 →
          ∃ (t : State) (k : Cont), exec (.evwaitSuspend batch) s = .next t ∧ t.conts = s.conts ++ [k] ∧ k.ctx = g.ctx ∧ k.lid = g.lid ∧ k.wait = .event n tgt))

/-- SUSPEND writes a continuation and ends its group, CONTINUATION_RESUME admits it anew; SPAWN and DCDEC keep the counters (R365,
R366, R367, R370, R375, R376). SUSPEND, when nothing holds it back and its record is free and can be written, answers a next state
with one continuation more, of the group's launch, with the wait its descriptor names; no fibre of the group lives.
CONTINUATION_RESUME of the record the dispatcher has come to, on a core at its carve-out where it has a home and its bytes can be
read, takes the record out of the pool and admits a block of one group at the record's segment. SUSPEND with the zero code in its
successor field only goes on. SPAWN with one acting lane and a count above 0 adds a dependence counter with that name, count and
task packet; with a count of 0 it launches the task at once, where its packet is valid, names no stage and the launch table has
room, and leaves no counter. DCDEC with one acting lane takes n (0 meaning 1) from a live counter that stands above n, fires one
that does not, and does nothing for a name that is not live. -/
def Obligations.TaskWords : Prop :=
  (∀ f, Completes (.suspend f) (suspendWordReady (.suspend f)) (suspendBar (.suspend f))
    (fun e b g _ => f.sb ≠ 0x0CA ∧ ∃ n s1, suspendRecord e g b.seg (suspendSucc (.suspend f) e b g) = some n ∧ suspendPage e g n = .ok ()
      ∧ suspendGroup e g.gid (suspendSucc (.suspend f) e b g) (suspendWait (.suspend f) e b g) n = some s1)
    (fun e b g _ t => ∀ w, contWait (srcA e (srcCtx e b g) g 0 (.suspend f)) = some w → (∃ k : Cont, t.conts = e.conts ++ [k] ∧ k.ctx = g.ctx ∧ k.lid = g.lid ∧ k.wait = w)
      ∧ ∀ g', t.group? g.gid = some g' → ∀ x ∈ g'.fibres, x.live = false))
  ∧ (∀ f, f.sb = 0x0CA → Completes (.suspend f) (suspendWordReady (.suspend f)) (suspendBar (.suspend f)) (fun e b _ _ => e.batch? b.id = some b)
    (fun e b _ _ t => t.groups = e.groups ∧ t.conts = e.conts ∧ t.mem = e.mem
      ∧ ∃ b', t.batch? b.id = some b' ∧ (b.rep = none → b'.woff = b.woff + wordCount (.suspend f))))
  ∧ (∀ s ctx record l core k c h runs s1 bs, decision s = some (l, .cont record, core) → l.ctx = ctx →
      ((s.core? core).getD default).carve = l.carve → (s.conts.find? fun k => k.ctx == ctx && k.record == record) = some k → s.context? ctx = some c →
      homes s core l.wg l.win 1 = some [h] → takeRuns c (l.priv * l.wg) 1 c.regions = some runs →
      parkRead s tscAgent 1 ctx (c.recordAddr record) 8192 = (s1, .ok bs) →
      ∃ t b, exec (.continuationResume ctx record) s = .next t ∧ t.conts = s.conts.filter (fun k => !(k.ctx == ctx && k.record == record))
        ∧ b ∈ t.blocks ∧ b.core = core ∧ b.lid = l.lid ∧ b.linear = byteField bs 16 4
        ∧ ∃ g ∈ t.groups, g.bid = b.bid ∧ g.core = core ∧ g.obj = byteField bs 0 8 ∧ ∀ y ∈ g.entries, y.seg = byteField bs 8 4 % 2 ^ 18 ∧ y.woff = 0)
  ∧ (∀ f, Completes (.spawn f) memReady (spawnBar (.spawn f))
    (fun e b g p => ∃ l, acting (.spawn f) g p = laneBit l ∧ l < 32 ∧ (srcA e (srcCtx e b g) g l (.spawn f)).toNat / 2 ^ 16 % 2 ^ 32 ≠ 0)
    (fun e b g p t => t.groups = e.groups ∧ t.mem = e.mem ∧ ∀ l, acting (.spawn f) g p = laneBit l → l < 32 →
      t.counters = e.counters ++ [⟨g.ctx, (srcA e (srcCtx e b g) g l (.spawn f)).toNat % 2 ^ 16,
        (srcA e (srcCtx e b g) g l (.spawn f)).toNat / 2 ^ 16 % 2 ^ 32,
        (List.range 8).flatMap fun j => toBytes (spanVal e (srcCtx e b g) g l f.sb.toNat j).toNat 8, none,
        (e.loaded? g.ctx (launchOf ((List.range 8).flatMap fun j => toBytes (spanVal e (srcCtx e b g) g l f.sb.toNat j).toNat 8)).code).isSome⟩]))
  ∧ (∀ f, Completes (.spawn f) memReady (spawnBar (.spawn f))
    (fun e b g p => e.launches.length < 1024 ∧ ∃ l, acting (.spawn f) g p = laneBit l ∧ l < 32 ∧ (srcA e (srcCtx e b g) g l (.spawn f)).toNat / 2 ^ 16 % 2 ^ 32 = 0
      ∧ (∀ c ∈ e.counters, c.ctx = g.ctx → c.name ≠ (srcA e (srcCtx e b g) g l (.spawn f)).toNat % 2 ^ 16)
      ∧ let bs := (List.range 8).flatMap fun j => toBytes (spanVal e (srcCtx e b g) g l f.sb.toNat j).toNat 8
        packetErr e g.ctx true bs = 0 ∧ packetErrFor (e.object? g.ctx) true bs = 0 ∧ (launchOf bs).stage = 0xFFFF)
    (fun e b g p t => t.groups = e.groups ∧ t.mem = e.mem ∧ t.counters = e.counters ∧ ∀ l, acting (.spawn f) g p = laneBit l → l < 32 →
      let x := launchOf ((List.range 8).flatMap fun j => toBytes (spanVal e (srcCtx e b g) g l f.sb.toNat j).toNat 8)
      ∃ k : Launch, t.launches = e.launches ++ [k] ∧ k.ctx = g.ctx ∧ k.queue = none ∧ k.accepted = e.clock ∧ k.task = true ∧ k.code = x.code ∧ k.args = x.args
        ∧ k.blocks = x.blocks ∧ k.gpb = x.gpb ∧ k.prio = x.prio))
  ∧ (∀ f, Completes (.dcdec f) (syncReady (.dcdec f)) (nameBar (.dcdec f) fun _ _ _ _ => false)
    (fun _ _ g p => ∃ l, acting (.dcdec f) g p = laneBit l ∧ l < 32)
    (fun e b g p t => ∀ l, acting (.dcdec f) g p = laneBit l → l < 32 →
      let name := (srcA e (srcCtx e b g) g l (.dcdec f)).toNat % 2 ^ 16
      let n := if (srcB e (srcCtx e b g) g l (.dcdec f)).toNat % 2 ^ 32 = 0 then 1 else (srcB e (srcCtx e b g) g l (.dcdec f)).toNat % 2 ^ 32
      (e.counter? g.ctx name = none → t.counters = e.counters)
      ∧ ∀ c, e.counter? g.ctx name = some c → (n < c.count → t.counter? g.ctx name = some { c with count := c.count - n })
          ∧ (c.count ≤ n → t.counter? g.ctx name = none)))

/-- TIME, SWRITE, DBGMB, PMCAP and PUBLISH do what their rows say; system registers refuse the accesses R32 bars (R32, R33, R35, R351,
R415, R431, R432, R457, R461, R463, R484). When nothing holds the word back: TIME puts GTS on its way to its destination; SWRITE
of STATUS gives each participating lane DRM (unless its code is 6 or 7), the sticky flags and the trap enables at once and p1 to
p15 after two words; of GPRIO it sets CPRIO to bits 6 to 0 of A, at most the launch's priority; of EBUDGET, TRAPBASE and TRAPFRAME
it sets the context's register to A in its writable fields. DBGMB writes each acting lane's A into its mailbox slot, sets the
slots' MASK bits and adds 1 to SEQ. PMCAP.START clears PRE and opens a capture, PMCAP.STOP closes it, and where TRACECTL's EN is
off for the group neither writes a byte. PUBLISH enters flight once for the lowest acting lane with A as its request; a request
with a bad field ends with LOAD_BAD_REQUEST in KD and in RES. In a group without privilege or debug mode a context-class register
is an ACCESS_FAULT; so is a debug-class register, or a write of a read-only one, anywhere; a number that names none is an
ILLEGAL_OPERAND. Which lane gives a group's or a context's value is log entry 125, the debug class log entry 124, and the request
codes log entry 170. -/
def Obligations.SystemWordsTakeTheirEffect : Prop :=
  (∀ f, Completes (.time f) alwaysReady noBar always (fun e b g p t => FixedPost (.time f) (fun _ => outW (BitVec.ofNat 64 e.gts)) e b g p t))
  ∧ (∀ f, Completes (.swrite f) (swriteReady f) (sysBar (.swrite f) true) (fun e _ g _ => (∃ c, e.context? g.ctx = some c) ∧ g.fibres.length ≤ 32)
    (fun e b g p t => ∀ l0, lowestLane (g.participants p f) = some l0 →
      let v (l : Nat) : Word := srcA e (srcCtx e b g) g l (.swrite f)
      (sysNumber f = 0 → OnlyGroup g.gid e t ∧ ∃ g' seq, t.group? g.gid = some g' ∧ ∀ l ∈ lanesOf (g.participants p f),
        (∀ n, (16 ≤ n ∧ n ≤ 20) ∨ (25 ≤ n ∧ n ≤ 29) → (g'.fibre l).status.getLsbD n = (v l).getLsbD n)
        ∧ field (g'.fibre l).status 21 3 = (if field (v l) 21 3 > 5 then field (g.fibre l).status 21 3 else field (v l) 21 3)
        ∧ (∀ n, n < 16 ∨ n = 24 → (g'.fibre l).status.getLsbD n = (g.fibre l).status.getLsbD n)
        ∧ ∀ n, 1 ≤ n → n < 16 → (⟨seq, .p n, if (v l).getLsbD n then 1 else 0, 2⟩ : Pend) ∈ (g'.fibre l).pend)
      ∧ (sysNumber f = 5 → ∃ g', t.group? g.gid = some g' ∧ g'.cprio = min ((v l0).toNat % 128) g.lprio ∧ g'.fibres = g.fibres)
      ∧ ∀ c, e.context? g.ctx = some c → ∃ c', t.context? g.ctx = some c'
          ∧ (sysNumber f = 8 → c' = { c with budget := (v l0).toNat % 2 ^ 32 })
          ∧ (sysNumber f = 0x10 → c' = { c with trapbase := v l0 &&& 0x8003FFFFFFFFFFFF#64 })
          ∧ (sysNumber f = 0x11 → c' = { c with trapframe := v l0 &&& 0x01FFFFFFFFFF0FFF#64 })))
  ∧ (∀ f, Completes (.dbgmb f) alwaysReady dbgmbBar (fun e _ g _ => e.mailbox.length = 32 ∧ ∃ c, e.context? g.ctx = some c)
    (fun e b g p t => t.group? g.gid = e.group? g.gid
      ∧ (∀ l < 32, nth t.mailbox l = if l ∈ lanesOf (g.actors p f) then srcA e (srcCtx e b g) g l (.dbgmb f) else nth e.mailbox l)
      ∧ ∀ c, e.context? g.ctx = some c → ∃ c', t.context? g.ctx = some c' ∧ field c'.dbgmbox 32 32 = field c.dbgmbox 32 32 ||| (g.actors p f).toNat
          ∧ field c'.dbgmbox 24 8 = (field c.dbgmbox 24 8 + 1) % 256 ∧ field c'.dbgmbox 0 24 = field c.dbgmbox 0 24))
  ∧ (∀ i f, (i = Instr.pmcapStart f ∨ i = .pmcapStop f) → Completes i alwaysReady noBar (fun e _ g p => g.actors p f ≠ 0 ∧ ∃ c, e.context? g.ctx = some c)
    (fun e _ g _ t => (trEN g = false → t.mem = e.mem ∧ t.hostMem = e.hostMem ∧ t.peerMem = e.peerMem) ∧ ∃ g', t.group? g.gid = some g'
      ∧ g'.fibres = g.fibres ∧ g'.k = g.k
      ∧ (i = .pmcapStart f → g'.pre = false ∧ g'.capOpen = true) ∧ (i = .pmcapStop f → g'.pre = g.pre ∧ g'.capOpen = false)))
  ∧ (∀ f, Completes (.publish f) (syncReady (.publish f)) (publishBar (.publish f)) always
    (fun e b g p t => ∀ l, lowestLane (g.actors p f) = some l → ∃ g' fl o, t.group? g.gid = some g' ∧ fl ∈ g'.flights ∧ fl.instr = .publish f
      ∧ fl.pending = laneBit l ∧ fl.ops = [o] ∧ o.lane = l ∧ o.ea = (srcA e (srcCtx e b g) g l (.publish f)).toNat))
  ∧ (∀ s g lanes op s1 s2 bs c, op.pubFail = 0 → op.pubReq = none → op.pubTurn ≠ 0 → op.tgt ≠ 3 → engineRead s g.core g.ctx op.ea 64 = (s1, .ok bs) → s.context? g.ctx = some c →
      requestBad bs = true → engineWrite (unsealAll s1 op.ownSeals) g.core g.ctx (op.ea + 48) (toBytes 1 4 ++ toBytes 0 4) = (s2, .ok ()) →
      (pubTry s g lanes op).1 = s2 ∧ (pubTry s g lanes op).2.2 = .done (BitVec.ofNat 64 (2 ^ 63 + 1)))
  ∧ (∀ (g : Group) n writes, (g.privileged = false → g.dbg = false → (n = 0x07 ∨ n = 0x08 ∨ n = 0x10 ∨ n = 0x11) → sysFail g n writes = some .accessFault)
      ∧ (0x20 ≤ n → n ≤ 0x23 → sysFail g n writes = some .accessFault)
      ∧ ((n = 1 ∨ n = 2 ∨ n = 3 ∨ n = 4 ∨ n = 6 ∨ n = 7) → sysFail g n true = some .accessFault)
      ∧ ((8 < n ∧ n < 0x10 ∨ 0x11 < n ∧ n < 0x20 ∨ 0x23 < n) → sysFail g n writes = some .illegalOperand)
      ∧ (n < 7 → sysFail g n false = none) ∧ (sysFail g 0 true = none ∧ sysFail g 5 true = none))

/-- BRK must carry S = 1; with an acting lane it starts a halt wave where trigger 0 is set, and traps BREAK otherwise (R464). BRK has
opcode 0xF6 and base word 0x3D80_0000_0000_0000, with imm[15:0] as the tag. A word of opcode 0xF6 whose S is 0, or whose
imm[17:16] is not zero, decodes to ILLEGAL_FIELD; with S = 1, any tag and any guard and every other field zero it decodes to BRK
with that tag and guard, and a non-zero DST, SA, TY, FI, FO, SAT or W field is an ILLEGAL_FIELD, as is RM = 6. When nothing holds
it back, BRK answers a next state: with no present, non-helper lane whose guard is true nothing but the batch's place has changed;
else, with bit 0 of the context's trigger mask set (and its job running, as it is where words issue), a local trigger of cause
0x0F is left, which HALT_TRIGGER, with no older one, turns into the wave: the job freezes with that record; with the bit clear the
group raises a precise BREAK trap with the acting lanes and the tag as DETAIL, after the batch has moved past the word, so that
its fibres resume at the next word. That BRK ignores RM but for 6 is log entry 90. -/
def Obligations.BrkStopsOrTraps : Prop :=
  (∀ w lit : Word, wordBits w 54 8 = 0xF6 → w.getLsbD 62 = false →
      (w.getLsbD 63 = false ∨ wordBits w 30 2 ≠ 0 ∨ wordBits w 32 22 ≠ 0 ∨ wordBits w 0 6 ≠ 0 ∨ wordBits w 6 3 = 6) → decode false w lit = .error .illegalField)
  ∧ (∀ (tag : BitVec 16) (g : BitVec 4) (gn : Bool) (lit : Word), ∃ f,
      decode false (0xBD80000000000000#64 ||| (tag.zeroExtend 64 <<< 14) ||| (g.zeroExtend 64 <<< 10) ||| ((BitVec.ofBool gn).zeroExtend 64 <<< 9)) lit
        = .ok (.brk f) ∧ imm16 f = tag.toNat ∧ f.g = g ∧ f.gn = gn ∧ f.safe = true)
  ∧ (∀ f, Completes (.brk f) alwaysReady noBar always (fun e b g p t =>
      (g.actors p f = 0 → OnlyGroup g.gid e t ∧ t.group? g.gid = e.group? g.gid ∧ t.trigs = e.trigs)
      ∧ (∀ c, g.actors p f ≠ 0 → e.context? g.ctx = some c → bitN c.trig 0 = true → jobRuns e g.ctx = true → OnlyGroup g.gid e t ∧ t.group? g.gid = e.group? g.gid
          ∧ ∃ r : TrigRec, t.trigs = e.trigs ++ [(g.ctx, r)] ∧ r.cause = 0x0F ∧ r.gts = e.gts ∧ r.word3.toNat = imm16 f
            ∧ (e.trigs = [] → ∃ u j, exec .haltTrigger t = .next u ∧ lookupBy Job.job c.jobKey u.jobs = some j ∧ j.state = .freezing ∧ j.record = some r
                ∧ (c.jobKey < 0x10000 → u.outbox = e.outbox ++ [.haltWave c.jobKey r (List.range 18)])))
      ∧ (∀ c, g.actors p f ≠ 0 → e.context? g.ctx = some c → bitN c.trig 0 = false → ∃ u tr, (∀ b', e.batch? b.id = some b' → b'.rep = none → ∃ x, u.batch? b.id = some x ∧ x.woff = b'.woff + 1)
          ∧ u.group? g.gid = e.group? g.gid ∧ u.mem = e.mem ∧ u.contexts = e.contexts
          ∧ tr.cause = .brk ∧ tr.flags = 1 ∧ tr.lanes = g.actors p f ∧ tr.detail = imm16 f ∧ t = (raiseTrap u g.gid tr p).unissue)))

/-- TRAP raises SOFT; TRAP_TAKE enters the handler with its frame, waits for one, or stops the context; RFT goes back (R427, R428,
R430, R431, R432, R434, R437, R438, R441, R442, R470). TRAP with an acting lane answers the state in which its group raises SOFT
with those lanes and the code, past the word; with none nothing but the batch's place has changed. A raised trap stops its group:
its lanes are in no batch and no entry, and while its job does not run the trap is held; a second cause waits behind the first.
TRAP_TAKE of a held trap that no halt trigger takes first, once everything due has completed and nothing must be seen out: with
the handler enabled and loaded, TRAPFRAME set, the group unprivileged, frame n free and writable and no register it saves
poisoned, the group holds frame n, is privileged, runs the handler's object, its first two handler registers hold the frame's
address and the cause, and a batch of its live lanes stands at word 0 of the handler's segment; the frame's first 64 bytes are the
header. With no frame free the group waits; with the handler off, or in privileged mode, the context stops, an error-log entry is
filed and vector 2 is raised. RFT notes its lanes and takes them out of the batch; with the last live lane the frame is read back:
the group leaves privileged mode for its own object and the frame is free. That a trap is taken in the step that raises it is log
entry 111; an error-log entry's form is log entry 74. -/
def Obligations.TrapsAreTakenAndLeft : Prop :=
  (∀ f, Completes (.trap f) alwaysReady noBar always (fun e b g p t =>
      (g.actors p f = 0 → OnlyGroup g.gid e t ∧ t.group? g.gid = e.group? g.gid)
      ∧ (g.actors p f ≠ 0 → ∃ u tr, (∀ b', e.batch? b.id = some b' → b'.rep = none → ∃ x, u.batch? b.id = some x ∧ x.woff = b'.woff + 1)
          ∧ u.group? g.gid = e.group? g.gid ∧ u.mem = e.mem ∧ u.contexts = e.contexts
          ∧ tr.cause = .soft ∧ tr.lanes = g.actors p f ∧ tr.detail = imm16 f ∧ t = (raiseTrap u g.gid tr p).unissue)))
  ∧ (∀ s gid tr p g, s.group? gid = some g →
      (g.trap = none → jobRuns s g.ctx = false → ∃ h, (raiseTrap s gid tr p).group? gid = some h ∧ h.trap = some tr ∧ h.stop = .trapping ∧ h.entries = []
        ∧ ∀ b ∈ (raiseTrap s gid tr p).batches, ∀ m ∈ b.members, m.gid ≠ gid)
      ∧ (g.trap ≠ none → ∃ h, (raiseTrap s gid tr p).group? gid = some h ∧ h.trap = g.trap ∧ h.held = g.held ++ [⟨s.nextId, tr, p⟩]))
  ∧ (∀ s gid g0 s1 g tr c, s.group? gid = some g0 → g0.trap = some tr → g0.stop = .trapping → jobRuns s g0.ctx = true → trigWaits s g0.ctx = false →
      armed s g0.ctx 3 = false → tr.flags < 512 → (tr.cause = .brk → armed s g0.ctx 0 = false) → settleStreams (sweepHeld s gid) gid = s1 → s1.group? gid = some g → g.trap = some tr → tr.cause ≠ .pageFault →
      s1.context? g.ctx = some c → c.run = .running → g.flights = [] →
      (∀ n s2 pa, c.tbEN = true → (s1.loaded? g.ctx c.tbHANDLE).isSome = true → c.tfBASE ≠ 0 → c.tfNFR ≠ 0 → g.privileged = false → c.freeFrame = some n → savesPoison g = false →
        portXl s1 g (c.frameAddr n) .write 65536 [] = (s2, .ok (.local pa)) →
        ∃ t h, exec (.trapTake gid) s = .next t ∧ t.group? gid = some h ∧ h.frame = some n ∧ h.frameVa = c.frameAddr n ∧ h.privileged = true ∧ h.trap = none ∧ h.stop = .running
          ∧ h.obj = c.tbHANDLE ∧ h.savedObj = g.obj ∧ h.saved = g.resume ∧ h.rft = 0
          ∧ (∃ b ∈ t.batches, b.members = [⟨gid, g.liveMask, []⟩] ∧ b.obj = c.tbHANDLE ∧ b.seg = c.tbSEG ∧ b.woff = 0 ∧ b.wait = none)
          ∧ (∃ c', t.context? g.ctx = some c' ∧ c'.frames = n :: c.frames)
          ∧ (∀ l < g.fibres.length, (g.fibre l).live = true → (g.fibre l).v.length = g.win → 2 ≤ g.hCount →
              nth (h.fibre l).v (g.win - g.hCount) = ⟨BitVec.ofNat 64 (c.frameAddr n), true, false⟩
              ∧ nth (h.fibre l).v (g.win - g.hCount + 1) = ⟨BitVec.ofNat 64 tr.cause.code, true, false⟩ ∧ (h.fibre l).pend = [])
          ∧ (Memory.wf s2.mem = true → traced s2 g = false → Memory.read t.mem pa 64 = frameHeader s2 g tr 0))
      ∧ (c.tbEN = true → (s1.loaded? g.ctx c.tbHANDLE).isSome = true → c.tfBASE ≠ 0 → c.tfNFR ≠ 0 → g.privileged = false → c.freeFrame = none →
          exec (.trapTake gid) s = .next s1)
      ∧ (c.tbEN = false ∨ g.privileged = true → ∃ t h c', exec (.trapTake gid) s = .next t ∧ t.group? gid = some h ∧ h.stop = .stopped ∧ h.frame = g.frame
          ∧ t.context? g.ctx = some c' ∧ c'.run = .stopping ∧ t.errlog = s1.errlog ++ [⟨1, g.ctx, tr.cause.code, tr.obj, 0⟩] ∧ t.msix = s1.msix ++ [2]))
  ∧ (∀ f, Completes (.rft f) rftReady rftBar always (fun e _ g p t =>
      (g.liveMask &&& ~~~(g.rft ||| p) ≠ 0 → ∃ g', t.group? g.gid = some g' ∧ g'.rft = g.rft ||| p ∧ g'.frame = g.frame ∧ g'.obj = g.obj
          ∧ ∀ b ∈ t.batches, ∀ m ∈ b.members, m.gid = g.gid → m.lanes &&& p = 0)
      ∧ (g.liveMask &&& ~~~(g.rft ||| p) = 0 → ∃ u h, u.group? g.gid = some h ∧ h.rft = g.rft ||| p ∧ h.frame = g.frame ∧ h.savedObj = g.savedObj
          ∧ u.contexts = e.contexts ∧ t.groups = (returnFromTrap u g.gid).groups ∧ t.contexts = (returnFromTrap u g.gid).contexts)))
  ∧ (∀ s gid g n c s1 c1 fr, s.group? gid = some g → g.frame = some n → s.context? g.ctx = some c → g.held = [] → g.flights = [] →
      engineRead ((lanesOf g.liveMask).foldl (fun s l => acquireAt (releaseAt s g.core g.ctx gid l .device) g.core g.ctx gid l .device) s)
        g.core g.ctx g.frameVa 0xD600 = (s1, .ok fr) → s1.group? gid = some g → s1.context? g.ctx = some c1 → g.rqn = 0 →
      ∃ h c', (returnFromTrap s gid).group? gid = some h ∧ h.frame = none ∧ h.privileged = false ∧ h.obj = g.savedObj ∧ h.stop = .running ∧ h.rft = 0
        ∧ (returnFromTrap s gid).context? g.ctx = some c' ∧ n ∉ c'.frames
        ∧ ∀ l < g.fibres.length, (g.fibre l).live = true → (h.fibre l).safeord = byteField fr (0x100 + 128 * l + 12) 4
            ∧ ∀ j < 8, nth (h.fibre l).o j = BitVec.ofNat 64 (byteField fr (0x1100 + 256 * j + 8 * l) 8))

/-- A packet becomes a launch, blocks are admitted with their groups at the start, and launches, rounds and stages end (R109, R115,
R332, R335, R336, R342, R343, R348, R357, R363). LAUNCH_ACCEPT of a published packet of a launch queue whose context and job run:
an accepted packet adds its launch, of that queue and index, accepted at the clock; a packet with an error ends with that ERR.
BLOCK_ADMIT of a new block on a core that stands at its carve-out adds the block, its scratchpad zero, and one group for each of
its indices with its fibres, k registers and entries at the launch's start, all ready together, and changes no byte of memory.
CARVE_OUT_CHANGE gives a core without groups the setting its next block needs and an empty L1. LAUNCH_COMPLETE of a finished
launch whose status can be written takes it off, raises its context's vector and, with flag bit 2, adds 1 to its event.
BALANCING_ROUND_END counts the round once its 65,536 clocks since reset have passed and sets the reservation rates and the round's
charges, and does nothing before. STAGE_END of a stage that may end marks it; with the last the pipeline is gone. The count of
fibres in a rate is log entry 154, and that a stage ends only after its launch was accepted log entry 153. -/
def Obligations.LaunchesRunTheirBlocks : Prop :=
  (∀ s ctx header q c s1 bs s2, s.queue? ctx header = some q → q.cls = 1 → q.closing = false → s.launches.length < 1024 →
      s.context? ctx = some c → c.run = .running → jobRuns s ctx = true → nextPacket s q = (s1, some bs) → canEnd s1 q q.next = (s2, true) →
      (∀ s3 lid, acceptPacket s2 ctx (some (header, q.next)) true bs s2.clock none = (s3, some (.ok lid)) →
        ∃ t l, exec (.launchAccept ctx header) s = .next t ∧ l ∈ t.launches ∧ l.lid = lid ∧ l.ctx = ctx ∧ l.queue = some (header, q.next) ∧ l.accepted = s2.clock)
      ∧ (packetErr s2 ctx true bs ≠ 0 → ∃ t, exec (.launchAccept ctx header) s = .next t ∧ t.launches = s2.launches
          ∧ t = endPacket (takeIndex s2 q) ctx header q.next 4 (packetErr s2 ctx true bs) 0))
  ∧ (∀ s l id core hs c o runs, decision (updateReserved s) = some (l, .fresh id, core) → (((updateReserved s).core? core).getD default).carve = l.carve →
      homes (updateReserved s) core l.wg l.win l.gpb = some hs → (updateReserved s).context? l.ctx = some c → (updateReserved s).object? l.ctx l.code = some o →
      takeRuns c (l.priv * l.wg) l.gpb c.regions = some runs →
      ∃ (t : State) (b : Block) (gs : List Group), exec .blockAdmit s = .next t ∧ t.mem = (updateReserved s).mem ∧ t.blocks = (updateReserved s).blocks ++ [b] ∧ b.linear = id ∧ b.core = core
        ∧ b.lid = l.lid ∧ b.carve = l.carve ∧ b.scr = l.scr ∧ b.scratch = [] ∧ b.bars = List.replicate 16 ⟨0, none, false, 0⟩
        ∧ t.groups = (updateReserved s).groups ++ gs ∧ gs.length = l.gpb
        ∧ ∀ n < l.gpb, ∃ g, gs[n]? = some g ∧ g.index = n ∧ g.bid = b.bid ∧ g.core = core ∧ g.obj = l.code ∧ g.cprio = l.prio ∧ g.frame = none
            ∧ g.fibres = List.replicate l.wg (startFibre l.win (nth o.segs l.entry).safeord) ∧ g.k = startK l o
            ∧ g.entries = startEntries (maskOf (List.range l.wg)) l.entry s.clock)
  ∧ (∀ s core l cand c, decision s = some (l, cand, core) → s.core? core = some c → c.carve ≠ l.carve → (∀ g ∈ s.groups, g.core ≠ core) →
      ∃ t c', exec (.carveOutChange core) s = .next t ∧ t.core? core = some c' ∧ c'.carve = l.carve ∧ c'.l1 = [] ∧ t.groups = s.groups ∧ t.mem = s.mem)
  ∧ (∀ s lid l c, s.launch? lid = some l → launchDone s l = true → engineRuns s l.ctx .issue = true → s.context? l.ctx = some c →
      (∀ x ∈ s.counters, x.fired = none) → (∀ h i q, l.queue = some (h, i) → s.queue? l.ctx h = some q → (canEnd s q i).2 = true) →
      ∃ t, exec (.launchComplete lid) s = .next t ∧ (∀ x ∈ t.launches, x.lid ≠ lid) ∧ c.vec ∈ t.msix
        ∧ (bitN l.flags 2 = true → eventCount t l.ctx l.evt = (eventCount s l.ctx l.evt + 1) % 2 ^ 32))
  ∧ (∀ s, ((s.clock - s.resetClock) / 65536 ≤ s.rounds → exec .balancingRoundEnd s = .next s)
      ∧ (s.rounds < (s.clock - s.resetClock) / 65536 → ∃ t, exec .balancingRoundEnd s = .next t ∧ t.rounds = s.rounds + 1 ∧ t.groups = s.groups
          ∧ t.launches.map Launch.rho = s.launches.map (nextRho s) ∧ ∀ b ∈ t.blocks, b.chargeRound = 0))
  ∧ (∀ s pid n p st, s.pipe? pid = some p → p.stages[n]? = some st → st.ended = false → engineRuns s p.ctx .issue = true → stageMayEnd s p st = true →
      (∀ g ∈ s.groups, some g.lid = st.lid → g.flights = []) → (∀ x ∈ s.counters, x.fired = none) →
      ∃ t, exec (.stageEnd pid n) s = .next t ∧ t.groups = s.groups
        ∧ ((∀ x ∈ p.stages, x.index ≠ n → x.ended = true) → t.pipe? pid = none)
        ∧ ∀ p', t.pipe? pid = some p' → ∀ x ∈ p'.stages, x.index = n → x.ended = true)

/-- Host reads, writes and AtomicOps reach local GDDR byte for byte; the control window's registers and commands act as R400 says
(R351, R395, R399, R400, R401). On a part that is ready: a BAR2 write stores its bytes in every frame that is not sealed and
changes no other byte, and one inside a sealed frame files an error record of kind 3 with vector 2; a read returns the bytes and
changes none; an AtomicOp of a size the completer takes, naturally aligned and outside sealed frames, returns the old value and
leaves the sum, the swap, or the compare-and-swap's value. An access beyond the 192 GiB names no frame and stops. A part that is
not ready answers none of them. HSTAT_READ returns the four bits and clears OVERRUN. A write to CMD with no command under way sets
BUSY and takes the arguments; while one runs, a write to CMD or an argument only sets OVERRUN; CTXT is written only while no
context is live, and IDENT, HSTAT and RESULT take nothing. COMMAND_DONE writes RESULT, clears BUSY and raises vector 1, with
RESULT 1 for a code of no command. SET_BUDGET sets the chip's budget. What a write over sealed and unsealed frames stores is log
entry 66, CTXT's lock log entry 65, sizes log entry 67, the stop log entry 69, and where read bytes stand log entry 14. -/
def Obligations.HostAccessesAndTheControlWindow : Prop :=
  (∀ s pa bytes, pa + bytes.length ≤ gddrSize → s.host.ready = true → Memory.wf s.mem = true →
      ∃ t, exec (.hostBar2Write pa bytes) s = .next t ∧ t.groups = s.groups ∧ t.sealed = s.sealed
        ∧ ∀ a, Memory.get t.mem a = if pa ≤ a ∧ a < pa + bytes.length ∧ s.isSealed a = false then nth bytes (a - pa) else Memory.get s.mem a)
  ∧ (∀ s pa bytes, bytes ≠ [] → pa % 65536 + bytes.length ≤ 65536 → pa + bytes.length ≤ gddrSize → s.host.ready = true → s.isSealed pa = true →
      ∃ t, exec (.hostBar2Write pa bytes) s = .next t ∧ t.mem = s.mem ∧ t.msix = s.msix ++ [2] ∧ ∃ e : ErrLog, t.errlog = s.errlog ++ [e] ∧ e.kind = 3)
  ∧ (∀ s pa n, pa + n ≤ gddrSize → s.host.ready = true → ∃ t, exec (.hostBar2Read pa n) s = .next t ∧ t.mem = s.mem ∧ t.groups = s.groups
      ∧ t.hostData.length = n ∧ ∀ j < n, nth t.hostData j = Memory.get s.mem (pa + j))
  ∧ (∀ s op pa size a b, pa + size ≤ gddrSize → s.host.ready = true → (size = 4 ∨ size = 8 ∨ size = 16 ∧ op = .cas) → pa % size = 0 → s.isSealed pa = false →
      Memory.wf s.mem = true → ∃ t, exec (.hostAtomicop op pa size a b) s = .next t ∧ t.groups = s.groups ∧ t.hostData = Memory.read s.mem pa size
        ∧ (op = .fetchAdd → Memory.readN t.mem pa size = (Memory.readN s.mem pa size + a) % 2 ^ (8 * size))
        ∧ (op = .swap → Memory.readN t.mem pa size = a % 2 ^ (8 * size))
        ∧ (op = .cas → Memory.readN t.mem pa size = if Memory.readN s.mem pa size = a % 2 ^ (8 * size) then b % 2 ^ (8 * size) else Memory.readN s.mem pa size)
        ∧ ∀ x, x < pa ∨ pa + size ≤ x → Memory.get t.mem x = Memory.get s.mem x)
  ∧ (∀ s pa bytes n op size a b, (gddrSize < pa + bytes.length → exec (.hostBar2Write pa bytes) s = .fault (.noSuchFrame pa))
      ∧ (gddrSize < pa + n → exec (.hostBar2Read pa n) s = .fault (.noSuchFrame pa))
      ∧ (gddrSize < pa + size → exec (.hostAtomicop op pa size a b) s = .fault (.noSuchFrame pa))
      ∧ (s.host.ready = false → pa + bytes.length ≤ gddrSize → exec (.hostBar2Write pa bytes) s = .next s))
  ∧ (∀ s, ∃ t, exec .hstatRead s = .next t ∧ t.host = { s.host with overrun := false } ∧ t.mem = s.mem ∧ t.hostData.length = 8
      ∧ ofBytes t.hostData = s.host.ready.toNat + 2 * s.host.busy.toNat + 4 * s.host.overrun.toNat + 8 * s.host.therm.toNat)
  ∧ (∀ s off v, s.host.ready = true → ∃ t, exec (.hostRegisterWrite off v) s = .next t ∧ t.mem = s.mem ∧ t.groups = s.groups ∧ t.contexts = s.contexts
      ∧ ((off = 0 ∨ off = 8 ∨ off = 0x128) → t = s)
      ∧ (s.host.busy = true → off % 8 = 0 → 0x100 ≤ off → off ≤ 0x120 → t.host = { s.host with overrun := true } ∧ t.hostCmd = s.hostCmd)
      ∧ (s.host.busy = false → off = 0x100 → t.host = { s.host with cmd := v.toNat % 256, busy := true }
          ∧ t.hostCmd = some ⟨v.toNat % 256, s.host.arg0, s.host.arg1, s.host.arg2, s.host.arg3, none⟩)
      ∧ (s.host.busy = false → off = 0x110 → t.host = { s.host with arg1 := v })
      ∧ (off = 0x10 → s.contexts ≠ [] → t = s) ∧ (off = 0x10 → s.contexts = [] → t.host.ctxt % 128 = 0 ∧ t.host.ctxt = v.toNat / 128 * 128 % 2 ^ 52)
      ∧ (off = 0x20 → t.host.frlog = v.toNat % 32 ∧ t.host.frhead = v.toNat / 65536 % 65536 ∧ t.host.frtail = s.host.frtail))
  ∧ (∀ s c, s.hostCmd = some c → (∀ r, c.result = some r ∨ c.result = none ∧ knownCommand c.code = false ∧ r = 1 →
      ∃ t, exec .commandDone s = .next t ∧ t.host = { s.host with result := BitVec.ofNat 64 r, busy := false } ∧ t.hostCmd = none ∧ t.msix = s.msix ++ [1]))
  ∧ (∀ s k, cmdNow s 0x0B = some k → (k.a0.toNat < 2 ^ 32 → ∃ t, exec .setBudget s = .next t ∧ t.chipBudget = k.a0.toNat ∧ t.hostCmd.bind HostCmd.result = some 0)
      ∧ (2 ^ 32 ≤ k.a0.toNat → ∃ t, exec .setBudget s = .next t ∧ t.chipBudget = s.chipBudget ∧ t.hostCmd.bind HostCmd.result = some 2))

/-- A walk that finds no page files its fault; records reach the ring, close by command, and let their words go; frames are sealed
(R392, R394, R395, R396, R398, R402, R473). PAGE_WALK leaves what translation leaves; the fault of a page that is not present
opens a record of agent 0 with the access's kind (a fetch reads), or counts one in the page's open record. FAULT_RECORD_FLUSH
writes the oldest held record into the ring's slot at FRTAIL, moves FRTAIL on and raises vector 0; a full ring keeps it back.
FAULT_RESUME, with no request of a peer or table write parked, closes the record of its slot, and no word of the context is held
by that page any more; FAULT_FAIL, with no peer's request and no word of the context in flight, closes it and marks the engines'
jobs parked there as failed, and a word parked there is held by an access fault instead; a slot with no record gives RESULT 2. A
peer's read in a running job is answered with the bytes at its home; a request to a job that does not run goes back, but a step's
to a frozen one; one of no job here ends as an access fault. TLB_INVAL of a whole context leaves no translation of it. SEAL seals
the frames it names, UNSEAL releases them, and an address that is not a frame of local GDDR gives RESULT 2. PAGE_WALK as a step
and its agent are log entries 70 and 194, and which record a slot names log entry 229. -/
def Obligations.WalksFaultsAndPeerRequests : Prop :=
  (∀ s ctx va acc c s1, s.context? ctx = some c → (∀ tgt, translate s 578 c va acc 0 [] = (s1, .ok tgt) → exec (.pageWalk ctx va acc) s = .next s1)
      ∧ (translate s 578 c va acc 0 [] = (s1, .error .access) → exec (.pageWalk ctx va acc) s = .next s1)
      ∧ (∀ np, translate s 578 c va acc 0 [] = (s1, .error (.page np)) → let kind := if acc = .read ∨ acc = .fetch then 1 else if acc = .atomic then 4 else 2
          ((∀ r ∈ s1.faults, ¬ (r.ctx = ctx ∧ r.vpage = va / 65536)) → ∃ t, exec (.pageWalk ctx va acc) s = .next t
              ∧ ∃ r ∈ t.faults, r.ctx = ctx ∧ r.vpage = va / 65536 ∧ r.count = 1 ∧ r.agent = 0 ∧ r.kinds = kind ∧ r.np = np ∧ r.time = s1.gts)
          ∧ (∀ r, (s1.faults.find? fun r => r.ctx == ctx && r.vpage == va / 65536) = some r → ∃ t, exec (.pageWalk ctx va acc) s = .next t
              ∧ ∃ x ∈ t.faults, x.ctx = ctx ∧ x.vpage = va / 65536 ∧ x.count = min (r.count + 1) 0xFFFFFFFF ∧ x.kinds = r.kinds ||| kind ∧ x.slot = r.slot
                ∧ x.agent = r.agent ∧ x.np = r.np)))
  ∧ (∀ s r, (s.faults.find? fun r => r.slot.isNone) = some r → ringUsable s.host = true →
      (ringFull s.host = true → exec .faultRecordFlush s = .next s)
      ∧ (ringFull s.host = false → ∃ t, exec .faultRecordFlush s = .next t ∧ t.msix = s.msix ++ [0]
          ∧ t.host = { s.host with frtail := (s.host.frtail % 2 ^ s.host.frlog + 1) % 2 ^ s.host.frlog }
          ∧ (let n := s.host.frtail % 2 ^ s.host.frlog
             (s.isSealed (s.host.frbase + 32 * n) = false → t.mem = Memory.write s.mem (s.host.frbase + 32 * n) (faultBytes { r with slot := some n } n))
             ∧ ∀ x ∈ t.faults, x.ctx = r.ctx → x.vpage = r.vpage → x.slot = some n)))
  ∧ (∀ s k r, cmdNow s 0x07 = some k → recordAt s k.a0.toNat = some r → s.heldPeers = [] → (∀ p ∈ s.parks, p.agent ≠ 580) → (∀ x ∈ s.counters, x.fired = none) →
      ∃ t, exec .faultResume s = .next t ∧ t.hostCmd.bind HostCmd.result = some 0 ∧ t.mem = s.mem ∧ (∀ x ∈ t.faults, ¬ (x.ctx = r.ctx ∧ x.vpage = r.vpage))
        ∧ ∀ g ∈ t.groups, g.ctx = r.ctx → ∀ fl ∈ g.flights, ∀ h ∈ fl.held, ¬ (h.2.1 = .pageFault ∧ h.2.2 / 65536 = r.vpage))
  ∧ (∀ s k r, cmdNow s 0x08 = some k → recordAt s k.a0.toNat = some r → s.heldPeers = [] → (∀ x ∈ s.counters, x.fired = none) →
      (∀ g ∈ s.groups, g.ctx = r.ctx → g.flights = []) →
      ∃ t, exec .faultFail s = .next t ∧ t.hostCmd.bind HostCmd.result = some 0 ∧ t.mem = s.mem ∧ (∀ x ∈ t.faults, ¬ (x.ctx = r.ctx ∧ x.vpage = r.vpage))
        ∧ (∀ c ∈ t.cores, ∀ j ∈ c.rays, j.ctx = r.ctx → ∀ va, j.fault = some va → va / 65536 = r.vpage → j.failed = true)
        ∧ ∀ j ∈ t.rasters, j.ctx = r.ctx → ∀ va, j.fault = some va → va / 65536 = r.vpage → j.failed = true)
  ∧ (∀ page (fl : Flight) h, h ∈ fl.held → h.2.1 = .pageFault → h.2.2 / 65536 = page → (h.1, .accessFault, h.2.2) ∈ (releaseHeld page true fl).held)
  ∧ (∀ s k, (cmdNow s 0x07 = some k → recordAt s k.a0.toNat = none → ∃ t, exec .faultResume s = .next t ∧ t.hostCmd.bind HostCmd.result = some 2 ∧ t.faults = s.faults)
      ∧ (cmdNow s 0x08 = some k → recordAt s k.a0.toNat = none → ∃ t, exec .faultFail s = .next t ∧ t.hostCmd.bind HostCmd.result = some 2 ∧ t.faults = s.faults))
  ∧ (∀ s r, s.host.ready = true →
      (∀ c s1 parts, s.jobContext? r.job = some c → s.jobState c.jobKey = .running → r.access = .read → portParts s 579 c.ctx r.va r.size .read r.data = (s1, .ok parts) →
        s1.jobState r.job = .running →
        ∃ t, exec (.peerRequest r) s = .next t ∧ t.mem = s1.mem ∧ t.outbox = s1.outbox ++ [.response r.tag true (homeBytes s1 parts).2 (homeBytes s1 parts).1])
      ∧ (∀ c, s.jobContext? r.job = some c → s.jobState c.jobKey ≠ .running → (r.step = false ∨ s.jobState c.jobKey ≠ .frozen) → exec (.peerRequest r) s = .next { s with outbox := s.outbox ++ [.returned r.tag] })
      ∧ (s.jobContext? r.job = none → s.jobState r.job = .running →
          exec (.peerRequest r) s = .next { s with outbox := s.outbox ++ [.response r.tag false false []] }))
  ∧ (∀ s k, cmdNow s 0x06 = some k → (s.context? k.a0.toNat).isSome = true → k.a2 = 0 → (∀ e ∈ s.tlb, e.base * 2 ^ e.bits < 2 ^ 57) →
      ∃ t, exec .tlbInval s = .next t ∧ t.hostCmd.bind HostCmd.result = some 0 ∧ ∀ e ∈ t.tlb, e.ctx ≠ k.a0.toNat)
  ∧ (∀ s k, cmdNow s 0x09 = some k → (k.a0.toNat % 65536 = 0 → k.a0.toNat + 65536 * k.a1.toNat ≤ gddrSize →
        ∃ t, exec .sealFrames s = .next t ∧ t.hostCmd.bind HostCmd.result = some 0 ∧ ∀ i < k.a1.toNat, t.isSealed (k.a0.toNat + 65536 * i) = true)
      ∧ ((k.a0.toNat % 65536 ≠ 0 ∨ gddrSize < k.a0.toNat + 65536 * k.a1.toNat) →
          ∃ t, exec .sealFrames s = .next t ∧ t.hostCmd.bind HostCmd.result = some 2 ∧ t.sealed = s.sealed))
  ∧ (∀ s k, cmdNow s 0x0A = some k → k.a0.toNat % 65536 = 0 → k.a0.toNat + 65536 * k.a1.toNat ≤ gddrSize →
      ∃ t, exec .unsealFrames s = .next t ∧ t.hostCmd.bind HostCmd.result = some 0 ∧ t.mem = s.mem
        ∧ (∀ i < k.a1.toNat, t.isSealed (k.a0.toNat + 65536 * i) = false)
        ∧ ∀ pa, pa < k.a0.toNat ∨ k.a0.toNat + 65536 * k.a1.toNat ≤ pa → t.isSealed pa = s.isSealed pa)

/-- Context and queue commands register and take away; a stop saves a context whole and a start brings it back (R164, R169, R385,
R401, R430, R445, R446, R449). CTX_CREATE with a valid descriptor adds the context with its loader; CTX_DESTROY leaves no group,
block, queue, launch or translation of it; on a live or absent context they give RESULT 3. QUEUE_REG adds a queue whose header
obeys R164 and gives RESULT 2 otherwise; QUEUE_BIND notes the bound launch index; QUEUE_UNREG takes the queue off once no packet
is in hand, and closes it until then. CTX_SETREG sets EBUDGET, TRAPBASE or TRAPFRAME and gives RESULT 2 for another. CTX_STOP of a
running context with a valid area makes it stopping; ENGINE_STOP_ACK of an engine that stands at its unit notes it;
GROUP_STOP_TIMEOUT stops a group that has had its clocks, and none before; CONTEXT_STOPPED, once all seven engines stand, makes it
stopped. A save into an area large enough leaves nothing of the context on the cores; one too small gives RESULT 2 and the size in
ARG3. CTX_START with the image in place starts the context, which runs once every saved block is back; without it RESULT is 2.
RESULT 3 is log entry 64, the queue a header names log entry 55, the image's size log entry 54 and place log entry 62, and when a
start ends log entries 58 and 59. -/
def Obligations.ContextsAreMadeStoppedAndSaved : Prop :=
  (∀ s k, cmdNow s 0x01 = some k → (∀ c, s.context? k.a0.toNat = some c → k.a0.toNat < 4096 → s.host.ctxt + 128 * k.a0.toNat + 128 ≤ gddrSize →
        ∃ t, exec .ctxCreate s = .next t ∧ t.contexts = s.contexts ∧ t.hostCmd.bind HostCmd.result = some 3)
      ∧ (s.context? k.a0.toNat = none → k.a0.toNat < 4096 → s.host.ctxt + 128 * k.a0.toNat + 128 ≤ gddrSize → s.poisoned (s.host.ctxt + 128 * k.a0.toNat) 128 = false →
          descriptorOk s (s.readPa (s.host.ctxt + 128 * k.a0.toNat) 128) = true →
          ∃ t, exec .ctxCreate s = .next t ∧ t.hostCmd.bind HostCmd.result = some 0
            ∧ t.context? k.a0.toNat = some (contextOf k.a0.toNat (s.readPa (s.host.ctxt + 128 * k.a0.toNat) 128)) ∧ loaderObj k.a0.toNat ∈ t.objects))
  ∧ (∀ s k, cmdNow s 0x02 = some k → (s.context? k.a0.toNat = none → ∃ t, exec .ctxDestroy s = .next t ∧ t.contexts = s.contexts ∧ t.hostCmd.bind HostCmd.result = some 3)
      ∧ (∀ c, s.context? k.a0.toNat = some c → (∀ x ∈ s.counters, x.fired = none) → ∃ t, exec .ctxDestroy s = .next t ∧ t.hostCmd.bind HostCmd.result = some 0
          ∧ t.context? k.a0.toNat = none ∧ (∀ g ∈ t.groups, g.ctx ≠ k.a0.toNat) ∧ (∀ b ∈ t.blocks, b.ctx ≠ k.a0.toNat) ∧ (∀ q ∈ t.queues, q.ctx ≠ k.a0.toNat)
          ∧ (∀ l ∈ t.launches, l.ctx ≠ k.a0.toNat) ∧ (∀ e ∈ t.tlb, e.ctx ≠ k.a0.toNat) ∧ ∀ r ∈ t.faults, r.ctx ≠ k.a0.toNat))
  ∧ (∀ s k c s1 bs, cmdNow s 0x03 = some k → s.context? k.a0.toNat = some c → k.a1.toNat % 128 = 0 → s.queues.length < 8192 → s.queue? k.a0.toNat k.a1.toNat = none →
      engineRead s tscAgent k.a0.toNat k.a1.toNat 192 = (s1, .ok bs) → s1.hostCmd = some k →
      ∃ t, exec .queueReg s = .next t ∧ (headerOk bs = true → t.queues = s1.queues ++ [queueOf k.a0.toNat k.a1.toNat bs] ∧ t.hostCmd.bind HostCmd.result = some 0)
        ∧ (headerOk bs = false → t.queues = s1.queues ∧ t.hostCmd.bind HostCmd.result = some 2))
  ∧ (∀ s k q l, cmdNow s 0x04 = some k → (s.queues.find? fun q => q.header == k.a0.toNat && q.cls == 0) = some q → s.queue? q.ctx k.a1.toNat = some l → l.cls = 1 →
      ∃ t q', exec .queueBind s = .next t ∧ t.hostCmd.bind HostCmd.result = some 0 ∧ t.queue? q.ctx q.header = some q' ∧ q'.bound = some (k.a1.toNat, k.a2.toNat))
  ∧ (∀ s k q, cmdNow s 0x05 = some k → (s.queues.find? fun q => q.header == k.a0.toNat) = some q → ∃ t, exec .queueUnreg s = .next t
      ∧ (q.openIdx = [] → t.hostCmd.bind HostCmd.result = some 0 ∧ ∀ x ∈ t.queues, ¬ (x.ctx = q.ctx ∧ x.header = q.header))
      ∧ (q.openIdx ≠ [] → t.hostCmd = s.hostCmd ∧ ∀ x ∈ t.queues, x.ctx = q.ctx → x.header = q.header → x.closing = true))
  ∧ (∀ s k c, cmdNow s 0x12 = some k → s.context? k.a0.toNat = some c → ∃ t c', exec .ctxSetreg s = .next t ∧ t.context? k.a0.toNat = some c'
      ∧ (k.a1 = 0x08 → c' = { c with budget := k.a2.toNat % 2 ^ 32 }) ∧ (k.a1 = 0x10 → c' = { c with trapbase := k.a2 &&& 0x8003FFFFFFFFFFFF#64 })
      ∧ (k.a1 = 0x11 → c' = { c with trapframe := k.a2 &&& 0x01FFFFFFFFFF0FFF#64 })
      ∧ t.hostCmd.bind HostCmd.result = some (if k.a1 = 0x08 ∨ k.a1 = 0x10 ∨ k.a1 = 0x11 then 0 else 2))
  ∧ (∀ s k c, cmdNow s 0x10 = some k → s.context? k.a0.toNat = some c → c.stopArg = none → c.run = .running → jobRuns s k.a0.toNat = true →
      (k.a1.toNat % 65536 = 0 → k.a1.toNat + k.a2.toNat ≤ gddrSize → ∃ t c', exec .ctxStop s = .next t ∧ t.context? k.a0.toNat = some c' ∧ c'.run = .stopping
          ∧ c'.acks = [] ∧ c'.stopArg = some (k.a1.toNat, k.a2.toNat) ∧ t.hostCmd = s.hostCmd ∧ t.groups = s.groups)
      ∧ (k.a1.toNat % 65536 ≠ 0 → ∃ t, exec .ctxStop s = .next t ∧ t.contexts = s.contexts ∧ t.hostCmd.bind HostCmd.result = some 2))
  ∧ (∀ s ctx e c, s.context? ctx = some c → c.run = .stopping → e ∉ c.acks → engineQuiet s ctx e = true →
      ∃ t c', exec (.engineStopAck ctx e) s = .next t ∧ t.context? ctx = some c' ∧ e ∈ c'.acks ∧ (e ≠ .issue → c'.acks = e :: c.acks))
  ∧ (∀ s gid g c, s.group? gid = some g → s.context? g.ctx = some c → c.run = .stopping → EngineId.issue ∉ c.acks → issueOf s g.ctx = false → debugBusy s g.ctx = false →
      g.stop = .running → (s.clock < c.stopAt + 65536 → exec (.groupStopTimeout gid) s = .next s)
      ∧ (c.stopAt + 65536 ≤ s.clock → ∀ g1, (raiseHeld (qputSweep (settleStreams (sweepHeld s gid) gid) gid) gid).group? gid = some g1 → g1.stop = .running →
          ∃ t h, exec (.groupStopTimeout gid) s = .next t ∧ t.group? gid = some h ∧ h.stop = .stopped ∧ h.entries = []))
  ∧ (∀ s ctx c, s.context? ctx = some c → c.run = .stopping → (∀ e : EngineId, e ∈ c.acks) → c.stopArg = none →
      ∃ t c', exec (.contextStopped ctx) s = .next t ∧ t.context? ctx = some c' ∧ c'.run = .stopped ∧ ∀ g ∈ t.groups, g.ctx = ctx → g.capOpen = true → g.pre = true)
  ∧ (∀ s ctx a n k c, s.hostCmd = some k → s.context? ctx = some c → let t := saveContext s ctx a n
      (n < Config.imageSize s.free → t.hostCmd.bind HostCmd.result = some 2 ∧ t.groups = s.groups ∧ t.host.arg3 = BitVec.ofNat 64 (Config.imageSize s.free))
      ∧ (Config.imageSize s.free ≤ n → (∀ b ∈ s.blocks, b.ctx = ctx → discardable s b = false) → t.hostCmd.bind HostCmd.result = some 0
          ∧ (∀ g ∈ t.groups, g.ctx ≠ ctx) ∧ (∀ b ∈ t.blocks, b.ctx ≠ ctx) ∧ (∀ x ∈ t.cores, ∀ j ∈ x.rays, j.ctx ≠ ctx) ∧ ∃ c', t.context? ctx = some c' ∧ c'.run = .saved))
  ∧ (∀ s k c, cmdNow s 0x11 = some k → s.context? k.a0.toNat = some c → jobRuns s k.a0.toNat = true → c.run = .saved →
      (imageAt s k.a0.toNat k.a1.toNat = none → ∃ t, exec .ctxStart s = .next t ∧ t.contexts = s.contexts ∧ t.hostCmd.bind HostCmd.result = some 2)
      ∧ (∀ im x, imageAt s k.a0.toNat k.a1.toNat = some im → (s.images.find? fun im => im.ctx == k.a0.toNat) = some x → x.blocks ≠ [] →
          ∃ t c', exec .ctxStart s = .next t ∧ t.context? k.a0.toNat = some c' ∧ c'.run = .starting ∧ t.hostCmd.bind HostCmd.result = some 0))
  ∧ (∀ s ctx im c, (s.images.find? fun im => im.ctx == ctx) = some im → s.context? ctx = some c → c.run = .starting → im.blocks = [] → imageFits s im = true →
      ∃ c', (startFinish s ctx).context? ctx = some c' ∧ c'.run = .running)

/-- Boot clears the chip and decides READY; heat takes the budget away; errors are counted, poison, and are reported (R349, R403,
R404, R452, R454, R455). PERST_DEASSERT leaves the chip's arrays clear and local GDDR as it was, and READY set exactly when the
firmware image passes and the links have trained. THERMAL_HIGH sets THERM and raises vector 3 where it was not set; the budget as
admission sees it is then 0 until THERMAL_RECOVER clears THERM. THERMAL_TRIP loses every context, group and byte of local GDDR.
ECC_CORRECTED of a structure adds 1 to its corrected count, up to 2^64 - 1, and changes nothing else. ECC_UNCORRECTABLE of another
structure than 7 adds 1 to the uncorrectable count, files an error-log entry with the structure and the context, raises vector 2
and poisons the named place: a sector of memory, or a register whose value stays; no byte of memory changes; structure 7 counts as
corrected, and the cache or translation line named is dropped. LINK_DOWN of a port that was up is counted, filed and raised once.
BACKGROUND_SCRUB has no effect. That GDDR outlives PERST is log entry 72, LINK_DOWN's effect log entry 73, and an error-log
entry's form log entry 74. -/
def Obligations.PartEventsBootHeatAndErrors : Prop :=
  (∀ s image trained, ∃ t, exec (.perstDeassert image trained) s = .next t ∧ t.contexts = [] ∧ t.groups = [] ∧ t.blocks = [] ∧ t.batches = [] ∧ t.launches = []
      ∧ t.queues = [] ∧ t.sealed = [] ∧ t.tlb = [] ∧ t.mem = s.mem ∧ t.hostMem = s.hostMem ∧ t.peerMem = s.peerMem
      ∧ (t.host.ready = true ↔ firmwareOk image = true ∧ trained = true) ∧ t.host.busy = false ∧ t.host.ctxt = 0)
  ∧ (∀ s, ∃ t, exec .thermalHigh s = .next t ∧ t.host = { s.host with therm := true } ∧ t.groups = s.groups ∧ t.mem = s.mem
      ∧ t.msix = (if s.host.therm then s.msix else s.msix ++ [3]) ∧ chipLimit t = 0)
  ∧ (∀ s, ∃ t, exec .thermalRecover s = .next t ∧ t.host = { s.host with therm := false } ∧ t.groups = s.groups ∧ t.mem = s.mem ∧ chipLimit t = s.chipBudget * 1000)
  ∧ (∀ s, ∃ t, exec .thermalTrip s = .next t ∧ t.thermTrip = true ∧ t.contexts = [] ∧ t.groups = [] ∧ t.mem = [] ∧ t.host.ready = false)
  ∧ (∀ s code, 1 ≤ code → code ≤ 9 → code < s.secnt.length → ∃ t, exec (.eccCorrected code) s = .next t ∧ t.mem = s.mem ∧ t.groups = s.groups ∧ t.poison = s.poison
      ∧ t.errlog = s.errlog ∧ t.msix = s.msix ∧ nth t.secnt code = (min ((nth s.secnt code).1 + 1) (2 ^ 64 - 1), (nth s.secnt code).2)
      ∧ ∀ n, n ≠ code → nth t.secnt n = nth s.secnt n)
  ∧ (∀ s code ctx place, 1 ≤ code → code ≤ 9 → code ≠ 7 → code < s.secnt.length → ∃ t, exec (.eccUncorrectable code ctx place) s = .next t ∧ t.mem = s.mem
      ∧ t.msix = s.msix ++ [2] ∧ (∃ e : ErrLog, t.errlog = s.errlog ++ [e] ∧ e.kind = 4 ∧ e.ctx = ctx ∧ e.code = code)
      ∧ nth t.secnt code = ((nth s.secnt code).1, min ((nth s.secnt code).2 + 1) (2 ^ 64 - 1))
      ∧ (∀ pa, place = .memory pa → pa < gddrSize → t.poisoned pa 1 = true ∧ t.groups = s.groups)
      ∧ (∀ gid lane n g, place = .vreg gid lane n → s.group? gid = some g → lane < g.fibres.length → n < (g.fibre lane).v.length →
          ∃ g', t.group? gid = some g' ∧ nth (g'.fibre lane).v n = { nth (g.fibre lane).v n with poison := true } ∧ g'.k = g.k)
      ∧ (∀ gid n g, place = .kreg gid n → s.group? gid = some g → n < g.k.length →
          ∃ g', t.group? gid = some g' ∧ nth g'.k n = { nth g.k n with poison := true } ∧ g'.fibres = g.fibres))
  ∧ (∀ s ctx place, 7 < s.secnt.length → ∃ t, exec (.eccUncorrectable 7 ctx place) s = .next t ∧ t.mem = s.mem ∧ t.groups = s.groups ∧ t.errlog = s.errlog ∧ t.msix = s.msix
      ∧ nth t.secnt 7 = (min ((nth s.secnt 7).1 + 1) (2 ^ 64 - 1), (nth s.secnt 7).2)
      ∧ (∀ core k line c, place = .icache core k line → t.core? core = some c → (k, line) ∉ c.icache)
      ∧ (∀ core k line sec c, place = .grinder core k line sec → t.core? core = some c → ∀ l ∈ c.grinder, ¬ (l.ctx = k ∧ l.line = line))
      ∧ ∀ n k base bits, place = .tlb n k base bits → ∀ e ∈ t.tlb, ¬ (e.tlb = n ∧ e.ctx = k ∧ e.base = base ∧ e.bits = bits))
  ∧ (∀ s port, port < 18 → 8 < s.secnt.length → ∃ t, exec (.linkDown port) s = .next t ∧ port ∈ t.linksDown
      ∧ (port ∉ s.linksDown → (∃ e : ErrLog, t.errlog = s.errlog ++ [e] ∧ e.kind = 5) ∧ t.msix = s.msix ++ [2]
          ∧ (nth t.secnt 8).2 = min ((nth s.secnt 8).2 + 1) (2 ^ 64 - 1))
      ∧ (port ∈ s.linksDown → t = s))
  ∧ (∀ s, exec .backgroundScrub s = .next s)

/-- Debug commands set their registers; halt waves freeze a job and resume waves release it at T; SYNCs and tags fall due (R458, R461,
R462, R466, R467, R470, R471, R473, R476, R477, R481, R483). HALT_ARM sets the trigger mask (RESULT 2 beyond 31); HALT_NOW leaves
a trigger of cause 0x13; HALT_RESUME of a frozen job takes T at least 4 µs on, and gives RESULT 2 for an earlier one. DBG_STUFF of
a group that may be stuffed puts it in debug mode with its words at issue; DBG_STEP of a group of a frozen job begins a step,
gives RESULT 3 where the job is not frozen, and ends once everything has stood still. BP_SET and WP_SET set or clear their entry
and refuse a bad one; DBG_READ answers the selected value in ARG2 and ARG3, or its RESULT; DBG_WRITE of DBGMBOX clears MASK alone.
HALT_TRIGGER takes a running job to freezing with its record and sends the wave; HALT_WAVE_RECEIVE does so for a job here that
runs, and passes a wave that the chip has not seen on on the other ports. JOB_FROZEN comes 2 µs after the trigger, with the
engines at their units, and not before. RESUME_WAVE_RECEIVE passes a wave on once and makes a frozen job releasing, or after T
logs it and leaves the job frozen; HALT_RELEASE at T sends the held responses and lets the job run, with the next safe point of
its groups a SYNC. TRACE_SYNC writes a SYNC that is due. A word that issues in a traced group counts the spacing down and is
tagged once it has run out; PROF_TAG with the tagged word's end steps the LFSR and sets a spacing of 2^PIV to 2^(PIV+1) - 1 words.
The end of a step is log entry 84, a wave missed log entry 86, waves of no job here log entry 89, and tags log entry 91. -/
def Obligations.DebugCommandsWavesAndTraces : Prop :=
  (∀ s k c, cmdNow s 0x13 = some k → s.context? k.a0.toNat = some c → jobRuns s k.a0.toNat = true → ∃ t c', exec .haltArm s = .next t
      ∧ t.context? k.a0.toNat = some c' ∧ (k.a1.toNat < 32 → c' = { c with trig := k.a1.toNat } ∧ t.hostCmd.bind HostCmd.result = some 0)
      ∧ (32 ≤ k.a1.toNat → c' = c ∧ t.hostCmd.bind HostCmd.result = some 2))
  ∧ (∀ s k c, cmdNow s 0x14 = some k → s.context? k.a0.toNat = some c → jobRuns s k.a0.toNat = true → ∃ t r, exec .haltNow s = .next t
      ∧ t.trigs = s.trigs ++ [(k.a0.toNat, r)] ∧ r.cause = 0x13 ∧ r.gts = s.gts ∧ t.hostCmd.bind HostCmd.result = some 0)
  ∧ (∀ s k c j, cmdNow s 0x15 = some k → s.context? k.a0.toNat = some c → lookupBy Job.job c.jobKey s.jobs = some j → j.state = .frozen →
      (k.a1.toNat < s.gts + 4000 → ∃ t, exec .haltResume s = .next t ∧ t.jobs = s.jobs ∧ t.hostCmd.bind HostCmd.result = some 2)
      ∧ (s.gts + 4000 ≤ k.a1.toNat → ∃ t, exec .haltResume s = .next t ∧ t.jobState c.jobKey = .releasing ∧ t.hostCmd.bind HostCmd.result = some 0
          ∧ ∃ j', lookupBy Job.job c.jobKey t.jobs = some j' ∧ j'.release = k.a1.toNat))
  ∧ (∀ s k c g, cmdNow s 0x16 = some k → s.stuff = none → s.issue = none → s.context? k.a0.toNat = some c →
      debugGroup s k.a0.toNat k.a1.toNat (k.a2.toNat % 32) = some g → 1 ≤ field k.a2 8 5 → field k.a2 8 5 ≤ 16 → k.a2.toNat = k.a2.toNat % 32 + field k.a2 8 5 * 256 →
      stuffable s c g = true → (s.group? g.gid).isSome = true →
      ∃ t h c', exec .dbgStuff s = .next t ∧ t.issue = some (.stuff g.gid) ∧ t.group? g.gid = some h ∧ h.dbg = true ∧ t.hostCmd = s.hostCmd
        ∧ t.context? k.a0.toNat = some c' ∧ field c'.dbgmbox 0 2 = 1 ∧ field c'.dbgmbox 24 40 = field c.dbgmbox 24 40)
  ∧ (∀ s k c, cmdNow s 0x17 = some k → s.stepping = none → s.context? k.a0.toNat = some c →
      (s.jobState c.jobKey ≠ .frozen → ∃ t, exec .dbgStep s = .next t ∧ t.stepping = none ∧ t.hostCmd.bind HostCmd.result = some 3)
      ∧ (∀ g, s.jobState c.jobKey = .frozen → debugGroup s k.a0.toNat k.a1.toNat k.a2.toNat = some g → (s.group? g.gid).isSome = true →
          ∃ t st, exec .dbgStep s = .next t ∧ t.stepping = some st ∧ st.ctx = k.a0.toNat ∧ st.gid = g.gid ∧ t.hostCmd = s.hostCmd))
  ∧ (∀ s k st n, cmdNow s 0x17 = some k → s.stepping = some st → stepStill s st = true → issueOf s st.ctx = false → st.calm = some n → n < s.clock →
      ∃ t, exec .dbgStep s = .next t ∧ t.stepping = none ∧ t.hostCmd.bind HostCmd.result = some 0)
  ∧ (∀ s k, cmdNow s 0x18 = some k → s.bps.length = 16 → ∃ t, exec .bpSet s = .next t
      ∧ (k.a0.toNat < 16 → field k.a1 12 20 = 0 → (k.a3 = 0 ∨ k.a3 = 1) → t.hostCmd.bind HostCmd.result = some 0
          ∧ nth t.bps k.a0.toNat = (if k.a3 = 1 then some ⟨k.a1.toNat % 4096, k.a1.toNat / 2 ^ 32, k.a2.toNat⟩ else none)
          ∧ ∀ n, n ≠ k.a0.toNat → nth t.bps n = nth s.bps n)
      ∧ ((16 ≤ k.a0.toNat ∨ field k.a1 12 20 ≠ 0 ∨ 2 ≤ k.a3.toNat) → t.bps = s.bps ∧ t.hostCmd.bind HostCmd.result = some 2))
  ∧ (∀ s k, cmdNow s 0x19 = some k → s.wps.length = 8 → ∃ t, exec .wpSet s = .next t
      ∧ (k.a0.toNat < 8 → k.a3 = 0 → nth t.wps k.a0.toNat = none ∧ t.hostCmd.bind HostCmd.result = some 0)
      ∧ (k.a0.toNat < 8 → k.a3 ≠ 0 → field k.a1 26 38 = 0 → field k.a1 12 2 ≠ 3 → field k.a1 14 2 ≠ 0 →
          nth t.wps k.a0.toNat = some ⟨k.a1.toNat % 4096, k.a1.toNat, k.a2.toNat, k.a3.toNat⟩ ∧ t.hostCmd.bind HostCmd.result = some 0)
      ∧ (8 ≤ k.a0.toNat → t.wps = s.wps ∧ t.hostCmd.bind HostCmd.result = some 2))
  ∧ (∀ s k c, cmdNow s 0x1A = some k → s.context? k.a0.toNat = some c → ∃ t, exec .dbgRead s = .next t ∧ t.mem = s.mem ∧ t.groups = s.groups
      ∧ (∀ r, debugValue s c k.a1.toNat k.a2.toNat = .error r → t.host = s.host ∧ t.hostCmd.bind HostCmd.result = some r)
      ∧ (k.a1 = 0 → k.a2 = 0x20 → t.host = { s.host with arg2 := c.dbgmbox, arg3 := 0 } ∧ t.hostCmd.bind HostCmd.result = some 0)
      ∧ (k.a1 = 0 → k.a2 = 0x22 → t.host = { s.host with arg2 := c.tracectl, arg3 := 0 } ∧ t.hostCmd.bind HostCmd.result = some 0))
  ∧ (∀ s k c, cmdNow s 0x1B = some k → s.context? k.a0.toNat = some c → ∃ t c', exec .dbgWrite s = .next t ∧ t.context? k.a0.toNat = some c'
      ∧ (k.a1 = 0x20 → field c'.dbgmbox 32 32 = 0 ∧ field c'.dbgmbox 0 32 = field c.dbgmbox 0 32 ∧ c'.tracectl = c.tracectl)
      ∧ (k.a1 = 0x22 → c' = { c with tracectl := k.a2 &&& 0xFF00003FFFFFFFFF#64 }) ∧ (k.a1 = 0x23 → c' = { c with pmctl := k.a2 &&& 0xFFFFFFFFFF#64 })
      ∧ (k.a1 = 0x21 → c' = c ∧ t.hostCmd.bind HostCmd.result = some 2))
  ∧ (∀ s ctx r rest c, s.trigs = (ctx, r) :: rest → s.context? ctx = some c → jobRuns s ctx = true → ∃ t j, exec .haltTrigger s = .next t ∧ t.trigs = rest
      ∧ lookupBy Job.job c.jobKey t.jobs = some j ∧ j.state = .freezing ∧ j.record = some r ∧ j.local_ = true
      ∧ (c.jobKey < 0x10000 → t.outbox = s.outbox ++ [.haltWave c.jobKey r (List.range 18)]) ∧ (0x10000 ≤ c.jobKey → t.outbox = s.outbox))
  ∧ (∀ s job r port, s.host.ready = true → job < 0xFFFF → ∃ t, exec (.haltWaveReceive job r port) s = .next t
      ∧ (jobHere s job = false → t = { s with outbox := s.outbox ++ [.haltWave job r (otherPorts port)] })
      ∧ (jobHere s job = true → (jobOr s job).waves.contains (haltKey r) = true → t = s)
      ∧ (jobHere s job = true → (jobOr s job).waves.contains (haltKey r) = false → t.outbox = s.outbox ++ [.haltWave job r (otherPorts port)]
          ∧ (jobOr t job).waves.contains (haltKey r) = true ∧ t.groups = s.groups ∧ t.mem = s.mem
          ∧ (s.jobState job = .running → t.jobState job = .freezing ∧ (jobOr t job).record = some r ∧ (jobOr t job).local_ = false)
          ∧ (s.jobState job = .frozen → t.jobState job = .frozen ∧ (jobOr t job).record = (jobOr s job).record)))
  ∧ (∀ s key j r, lookupBy Job.job key s.jobs = some j → j.record = some r → j.state = .freezing → (s.gts < r.gts + 2000 → exec (.jobFrozen key) s = .next s)
      ∧ (r.gts + 2000 ≤ s.gts → jobQuiet s key = true → (∀ x ∈ jobContexts s key, matrixQuiet s x.ctx = true ∧ rastersQuiet s x.ctx = true) →
          ∃ t, exec (.jobFrozen key) s = .next t ∧ t.jobState key = .frozen))
  ∧ (∀ s job release port j, s.host.ready = true → job < 0xFFFF → jobHere s job = true → lookupBy Job.job job s.jobs = some j →
      ∃ t, exec (.resumeWaveReceive job release port) s = .next t ∧ (j.waves.contains (release, 0) = true → t = s)
        ∧ (j.waves.contains (release, 0) = false → t.outbox = s.outbox ++ [.resumeWave job release (otherPorts port)]
          ∧ (jobOr t job).waves.contains (release, 0) = true
          ∧ (j.state = .frozen → s.gts ≤ release → t.jobState job = .releasing ∧ (jobOr t job).release = release)
          ∧ (j.state = .frozen → release < s.gts → t.jobState job = .frozen ∧ t.msix = s.msix ++ [2] ∧ ∃ e : ErrLog, t.errlog = s.errlog ++ [e] ∧ e.kind = 6)
          ∧ (j.state ≠ .frozen → t.jobState job = j.state ∧ t.msix = s.msix ∧ t.errlog = s.errlog)))
  ∧ (∀ s key j, lookupBy Job.job key s.jobs = some j → j.state = .releasing → (s.gts < j.release → exec (.haltRelease key) s = .next s)
      ∧ (j.release ≤ s.gts → ∃ t, exec (.haltRelease key) s = .next t ∧ t.jobState key = .running ∧ t.outbox = s.outbox ++ j.held
          ∧ ∀ c ∈ s.contexts, c.jobKey = key → ∀ g ∈ t.groups, g.ctx = c.ctx → g.sync = 0))
  ∧ (∀ s gid g, s.group? gid = some g → (g.syncDue = none → exec (.traceSync gid) s = .next s)
      ∧ (∀ bs, g.syncDue = some bs → ∃ t h, exec (.traceSync gid) s = .next t ∧ t.group? gid = some h ∧ h.syncDue = none ∧ h.fibres = g.fibres))
  ∧ (∀ s core sched p, (s.prof.find? fun p => p.sched == 4 * core + sched) = some p →
      (p.tag = none → exec (.profTag core sched) s = .next s)
      ∧ (∀ b i oks g lanes c, b.core = core → b.sched = sched → p.tag = none → p.ctx = g.ctx → profGroup s i oks = some (g, lanes, c) →
          (1 < p.left → { p with left := p.left - 1 } ∈ (profCount s b i oks).prof)
          ∧ (p.left ≤ 1 → ∃ q ∈ (profCount s b i oks).prof, q.sched = p.sched ∧ q.ctx = p.ctx ∧ q.lfsr = p.lfsr ∧ ∃ tg, q.tag = some tg ∧ tg.gid = g.gid
              ∧ tg.batch = b.id ∧ tg.woff = b.woff))
      ∧ (∀ tg g c, p.tag = some tg → s.group? tg.gid = some g → s.context? p.ctx = some c → g.flights = [] → s.issue = none →
          ∃ t p', exec (.profTag core sched) s = .next t ∧ p' ∈ t.prof ∧ p'.sched = 4 * core + sched ∧ p'.tag = none ∧ p'.lfsr = lfsrStep p.lfsr
            ∧ 2 ^ profPiv c ≤ p'.left ∧ p'.left < 2 ^ (profPiv c + 1)))

/-- What the integer words compute: exact values per element, wrapped or saturated (R188, R211, R212, R213, R214, R215, R216, R223,
R224, R235). For every operand, type and SAT bit. IADD, ISUB, IMUL, IMULH, IMAD, IABS, IMIN, IMAX, IDIV and IREM give, in every
element of the type, the pattern of the exact value over the numbers that the sources' elements stand for (a sum, difference,
product, floor of the product over 2^w, product plus c, magnitude, smaller, larger; the quotient toward zero, or all ones for a
divisor of zero; a - q x b), modulo 2^w or brought to the nearer bound under SAT where the row admits it; bits above the elements
are zero. IADDC's two registers make the exact sum with the carry bit. IMADW's 64 bits are the 32-bit product plus the whole c.
ICMP's predicate is its relation of element 0. SEL picks bits under b64 and elements otherwise. ISAD adds the absolute differences
and IDOT the products of all elements to c (to D under x8). PACK clamps or cuts the source's numbers into the destination's
elements, A's first; UNPACK extends those of the half that b's bit 0 names. LREDUCE and LSCAN combine a set's elements into the
exact sum (fitted), the least, the greatest, or the bits that all, some or an odd number hold; the identity of R235 for an empty
set. -/
def Obligations.IntegerResultValues : Prop :=
  (∀ f x w n sg, IntShape f w n sg →
    EachInt w n sg f.sat x (resIadd f x) (fun a b _ => a + b)
    ∧ EachInt w n sg f.sat x (resIsub f x) (fun a b _ => a - b)
    ∧ EachInt w n sg f.sat x (resImul f x) (fun a b _ => a * b)
    ∧ EachInt w n sg false x (resImulh f x) (fun a b _ => a * b / 2 ^ w)
    ∧ EachInt w n sg f.sat x (resImad f x) (fun a b c => a * b + c)
    ∧ EachInt w n sg f.sat x (resIabs f x) (fun a _ _ => if a < 0 then -a else a)
    ∧ EachInt w n sg false x (resImin f x) (fun a b _ => min a b)
    ∧ EachInt w n sg false x (resImax f x) (fun a b _ => max a b)
    ∧ EachInt w n sg f.sat x (resIdiv f x) (fun a b _ => if b = 0 then (if sg then -1 else 2 ^ w - 1) else a.tdiv b)
    ∧ EachInt w n sg false x (resIrem f x) (fun a b _ => if b = 0 then a else a - a.tdiv b * b)
    ∧ (f.ty ≠ 0 → EachInt w n sg false x (resSel f x) (fun a b c => if c ≠ 0 then a else b))
    ∧ (∃ q, resIcmp f x = ⟨[], some q, 0⟩ ∧ ∀ a b, Stands sg w (elem w 0 x.a) a → Stands sg w (elem w 0 x.b) b →
        (f.sc.toNat % 16 = 0 → (q = true ↔ a = b)) ∧ (f.sc.toNat % 16 = 1 → (q = true ↔ a ≠ b)) ∧ (f.sc.toNat % 16 = 2 → (q = true ↔ a < b))
        ∧ (f.sc.toNat % 16 = 3 → (q = true ↔ a ≤ b)) ∧ (f.sc.toNat % 16 = 4 → (q = true ↔ a > b)) ∧ (f.sc.toNat % 16 = 5 → (q = true ↔ a ≥ b)))
    ∧ (∀ a b : Nat → Int, (∀ i < n, Stands sg w (elem w i x.a) (a i) ∧ Stands sg w (elem w i x.b) (b i)) →
        let acc := if f.ty = 14 then x.d else x.c
        (∃ r : Word, resIsad f x = ⟨[r], none, 0⟩ ∧ (r.toNat : Int) = (acc.toNat + ((List.range n).map fun i => |a i - b i|).sum) % 2 ^ 64)
        ∧ ∀ c, Stands sg 64 acc.toNat c →
            ∃ r : Word, resIdot f x = ⟨[r], none, 0⟩ ∧ (r.toNat : Int) = fitInt sg f.sat 64 (c + ((List.range n).map fun i => a i * b i).sum)))
  ∧ (∀ f x, f.ty = 0 → ∃ r, resSel f x = ⟨[r], none, 0⟩ ∧ ∀ j < 64, r.getLsbD j = if x.c.getLsbD j then x.a.getLsbD j else x.b.getLsbD j)
  ∧ (∀ (f : Fields) x w, (f.ty = 2 ∧ w = 64 ∨ f.ty = 5 ∧ w = 32) → ∃ s c : Word, resIaddc f x = ⟨[s, c], none, 0⟩
      ∧ s.toNat < 2 ^ w ∧ s.toNat + 2 ^ w * c.toNat = x.a.toNat % 2 ^ w + x.b.toNat % 2 ^ w + x.c.toNat % 2)
  ∧ (∀ (f : Fields) x sg, (f.ty = 4 ∧ sg = true ∨ f.ty = 5 ∧ sg = false) → ∀ a b c, Stands sg 32 (x.a.toNat % 2 ^ 32) a →
      Stands sg 32 (x.b.toNat % 2 ^ 32) b → Stands sg 64 x.c.toNat c →
      ∃ r : Word, resImadw f x = ⟨[r], none, 0⟩ ∧ (r.toNat : Int) = fitInt sg f.sat 64 (a * b + c))
  ∧ (∀ (f : Fields) x wd sd ws ss, (f.ty.toNat, wd, sd) ∈ [(7, 32, true), (8, 32, false), (12, 16, true), (13, 16, false)] →
      (f.sc.toNat, ws, ss) ∈ [(1, 64, true), (2, 64, false), (7, 32, true), (8, 32, false)] → ws = 2 * wd →
      ∃ r, resPack f x = ⟨[r], none, 0⟩ ∧ ∀ j < 64 / wd, ∀ v,
        Stands ss ws (elem ws (j % (64 / ws)) (if j < 64 / ws then x.a else x.b)) v → (elem wd j r : Int) = fitInt sd f.sat wd v)
  ∧ (∀ (f : Fields) x wd ws ss, (f.ty.toNat, wd) ∈ [(1, 64), (2, 64), (7, 32), (8, 32)] →
      (f.sc.toNat, ws, ss) ∈ [(7, 32, true), (8, 32, false), (12, 16, true), (13, 16, false)] → wd = 2 * ws →
      ∃ r, resUnpack f x = ⟨[r], none, 0⟩ ∧ ∀ j < 64 / wd, ∀ v,
        Stands ss ws (elem ws (64 / wd * (x.b.toNat % 2) + j) x.a) v → (elem wd j r : Int) = v % 2 ^ wd)
  ∧ (∀ w n sg, w ∈ [16, 32, 64] → ∀ sat (xs : List ℕ) (v : ℕ → ℤ), (∀ k < xs.length, nth xs k < 2 ^ w ∧ Stands sg w (nth xs k) (v k)) →
      (combineInt ⟨w, n, sg⟩ sat 0 xs : ℤ) = fitInt sg sat w (((List.range xs.length).map v).sum)
      ∧ (xs ≠ [] → ∃ i < xs.length, ∃ j < xs.length, combineInt ⟨w, n, sg⟩ sat 1 xs = nth xs i ∧ combineInt ⟨w, n, sg⟩ sat 2 xs = nth xs j
          ∧ ∀ k < xs.length, v i ≤ v k ∧ v k ≤ v j)
      ∧ (xs = [] → Stands sg w (combineInt ⟨w, n, sg⟩ sat 1 xs) (if sg then 2 ^ (w - 1) - 1 else 2 ^ w - 1)
          ∧ Stands sg w (combineInt ⟨w, n, sg⟩ sat 2 xs) (if sg then -(2 ^ (w - 1)) else 0))
      ∧ ∀ b, ((combineInt ⟨w, n, sg⟩ sat 3 xs).testBit b = true ↔ b < w ∧ ∀ k < xs.length, (nth xs k).testBit b = true)
          ∧ ((combineInt ⟨w, n, sg⟩ sat 4 xs).testBit b = true ↔ ∃ k < xs.length, (nth xs k).testBit b = true)
          ∧ ((combineInt ⟨w, n, sg⟩ sat 5 xs).testBit b = decide (((List.range xs.length).filter fun k => (nth xs k).testBit b).length % 2 = 1)))

/-- What the bit, shift, field, move and address words compute, bit by bit (R211, R217, R218, R219, R220, R221, R222, R225, R226,
R227, R228, R237). For every operand and type. AND, OR, XOR and ANDN combine A's and B's bits, and the 32-bit types leave zero
above bit 31; TERN's bit i is the bit of its table that the three source bits number. SHL, SHR, SAR and ROT take in each element
the bit n places below or above (zero, or the top bit, where there is none; round the element); FUNNEL the bits of a then b, moved
down by c mod w; BFE the field of c bits at b, extended by its sign under an i type; BFI puts b's low bits into a. BREV turns an
element round; POPC counts its set bits; CLZ and CTZ count the zero bits above the highest and below the lowest. BPERM and SUBSWZ
place the byte or element that each selector names. MOV copies, and zeroes [63:32] under a 32-bit type; MOVI sign-extends 27 bits;
LEA is the effective address; HRAND is its hash, with the vectors of R228. -/
def Obligations.BitAndMoveResultValues : Prop :=
  (∀ f x w n sg, IntShape f w n sg →
    EachBit w n x (resShl f x) (fun a b _ j => decide (b ≤ j) && a.testBit (j - b))
    ∧ EachBit w n x (resShr f x) (fun a b _ j => a.testBit (j + b))
    ∧ EachBit w n x (resSar f x) (fun a b _ j => a.testBit (min (j + b) (w - 1)))
    ∧ EachBit w n x (resRot f x) (fun a b _ j => a.testBit ((j + (w - b % w)) % w))
    ∧ EachBit w n x (resFunnel f x) (fun a b c j => if j + c % w < w then b.testBit (j + c % w) else a.testBit (j + c % w - w))
    ∧ EachBit w n x (resBfe f x) (fun a b c j =>
        if c = 0 ∨ w ≤ b then false else if j < min c (w - b) then a.testBit (b + j) else sg && a.testBit (b + min c (w - b) - 1))
    ∧ EachBit w n x (resBfi f x) (fun a b c j =>
        if c % 256 ≤ j ∧ j < c % 256 + c / 256 % 256 then b.testBit (j - c % 256) else a.testBit j)
    ∧ EachBit w n x (resBrev f x) (fun a _ _ j => a.testBit (w - 1 - j))
    ∧ EachNat w n x (resPopc f x) (fun a r => r = ((List.range w).filter fun j => a.testBit j).length)
    ∧ EachNat w n x (resClz f x) (fun a r => (a = 0 ∧ r = w) ∨ (r < w ∧ a.testBit (w - 1 - r) = true ∧ ∀ j < w, w - 1 - r < j → a.testBit j = false))
    ∧ EachNat w n x (resCtz f x) (fun a r => (a = 0 ∧ r = w) ∨ (r < w ∧ a.testBit r = true ∧ ∀ j < r, a.testBit j = false)))
  ∧ (∀ f x, ∃ ra ro rx rn rm rt : Word, resAnd f x = ⟨[ra], none, 0⟩ ∧ resOr f x = ⟨[ro], none, 0⟩ ∧ resXor f x = ⟨[rx], none, 0⟩
      ∧ resAndn f x = ⟨[rn], none, 0⟩ ∧ resMov f x = ⟨[rm], none, 0⟩ ∧ resTern f x = ⟨[rt], none, 0⟩
      ∧ ∀ j < 64, let keep := decide (j < 32) || (f.ty ≠ 4 && f.ty ≠ 5 && f.ty ≠ 6)
          ra.getLsbD j = (keep && (x.a.getLsbD j && x.b.getLsbD j)) ∧ ro.getLsbD j = (keep && (x.a.getLsbD j || x.b.getLsbD j))
          ∧ rx.getLsbD j = (keep && (x.a.getLsbD j != x.b.getLsbD j)) ∧ rn.getLsbD j = (keep && (x.a.getLsbD j && !x.b.getLsbD j))
          ∧ rm.getLsbD j = (keep && x.a.getLsbD j)
          ∧ rt.getLsbD j = (f.ty ++ f.rm ++ BitVec.ofBool f.fi).getLsbD
              (4 * (x.a.getLsbD j).toNat + 2 * (x.b.getLsbD j).toNat + (x.c.getLsbD j).toNat))
  ∧ (∀ x, ∃ r, resBperm x = ⟨[r], none, 0⟩ ∧ ∀ j < 8,
      elem 8 j r = (if (x.c.toNat / 16 ^ j) % 16 < 8 then elem 8 ((x.c.toNat / 16 ^ j) % 16) x.a else elem 8 ((x.c.toNat / 16 ^ j) % 16 - 8) x.b))
  ∧ (∀ (f : Fields) x w, (f.ty.toNat, w) ∈ [(7, 32), (8, 32), (9, 32), (10, 16), (11, 16), (12, 16), (13, 16), (14, 8)] →
      ∃ r, resSubswz f x = ⟨[r], none, 0⟩ ∧ ∀ j < 64 / w,
        elem w j r = (if (x.b.toNat / 16 ^ j) % 16 ≥ 8 then 0 else elem w ((x.b.toNat / 16 ^ j) % 16 % (64 / w)) x.a))
  ∧ (∀ f x, ∃ r : Word, resMovi f x = ⟨[r], none, 0⟩ ∧ r.toInt = (f.sa ++ f.sb ++ f.sc : BitVec 27).toInt)
  ∧ (∀ f x, ∃ r : Word, resLea f x = ⟨[r], none, 0⟩
      ∧ (r.toNat : Int) = (x.a.toNat + x.b.toNat + f.sc.toInt * (sizeBytes f.ty.toNat : Int)) % 2 ^ 64)
  ∧ (∀ x, ∃ y z : Word, y = (let h : Word := x.a ^^^ x.b.rotateLeft 24 ^^^ x.c.rotateLeft 44; h ^^^ (h >>> 32)) * 0x9E3779B97F4A7C15#64
      ∧ z = y ^^^ (y >>> 28) ∧ resHrand x = ⟨[z ^^^ z.rotateLeft 16 ^^^ z.rotateLeft 40], none, 0⟩)
  ∧ hrandW 0 0 0 = 0 ∧ hrandW 1 0 0 = 0xDA6067134CC6C929 ∧ hrandW 0 0 1 = 0xF786FFE521A2C544

/-- What each pattern of a float format stands for, and how an exact value is rounded to it once (R189, R190, R191, R192, R193, R195,
R196, R197, R198, R199, R200, R201). Every pattern of FP64, FP32, FP16 and BF16 and of the 28 binary8 formats decodes to the sign,
value, infinity or NaN that its fields give; a pattern that is not a NaN encodes back to itself and every NaN is written
canonical. Rounding a non-zero exact value once gives, in every mode, the grid value that the mode names (at most, at least, no
larger in magnitude, nearest with the tie to the even encoding or to the larger magnitude; under RS the upper neighbour exactly if
the 24 random bits lie below the scaled distance from the lower), keeping the sign; a grid value beyond the largest finite one
gives the infinity or the largest value that R196 tabulates, the largest under SAT, and NaN where the format has no such infinity;
FO makes a subnormal result zero. NX, UF and OF are raised as R200 says (between the largest value that is surely tiny and the
smallest normal one UF is left out). A negative value whose magnitude does not round to zero gives, in an unsigned format, NaN or
zero under SAT, with NV. That RS's negative overflow goes to the neighbour of larger magnitude is the model's reading of R196's
'likewise' (log entry 230). The largest finite values are those of R190 and R193. -/
def Obligations.FormatsAndRounding : Prop :=
  (∀ f : Fmt, f.exists → ∀ (c : RCtx) (neg : Bool) (m : ℕ) (e : ℤ), m ≠ 0 → (f.signed = true ∨ neg = false) →
    f.rounds c ((if neg then -(m : ℝ) else (m : ℝ)) * 2 ^ e) (f.roundMag c neg m e))
  ∧ (∀ f : Fmt, f.exists → f.signed = false → ∀ (c : RCtx) (m : ℕ) (e : ℤ), m ≠ 0 → ∃ y : ℝ, c.picks f.onGrid f.evenAt (-(m : ℝ) * 2 ^ e) y
      ∧ f.roundMag c true m e = if y = 0 then (.fin true 0 0, fUF ||| fNX) else (if c.sat then .fin false 0 0 else .nan false, fNV))
  ∧ (∀ (f : Fmt) (w ew t bias : ℕ), (f, w, ew, t, bias) ∈ [(fp64, 64, 11, 52, 1023), (fp32, 32, 8, 23, 127), (fp16, 16, 5, 10, 15), (bf16, 16, 8, 7, 127)] →
      ∀ s E T : ℕ, s < 2 → E < 2 ^ ew → T < 2 ^ t → f.decode (s * 2 ^ (w - 1) + E * 2 ^ t + T) =
        if E = 2 ^ ew - 1 then (if T = 0 then .inf (s == 1) else .nan (decide (T < 2 ^ (t - 1))))
        else if E = 0 then .fin (s == 1) T (1 - (bias : ℤ) - (t : ℤ)) else .fin (s == 1) (2 ^ t + T) ((E : ℤ) - (bias : ℤ) - (t : ℤ)))
  ∧ (∀ k, 2 ≤ k → k < 16 → ∀ s E T : ℕ, s < 2 → E < 2 ^ (8 - k / 2) → T < 2 ^ (k / 2 - 1) →
      let p := s * 128 + E * 2 ^ (k / 2 - 1) + T
      let q : ℤ := -(2 ^ (8 - k / 2 - 1) : ℤ) - ((k / 2 - 1 : ℕ) : ℤ)
      (fmtOfX8 k).decode p = if p = 0x80 then .nan false else if k % 2 = 0 ∧ p % 128 = 0x7F then .inf (s == 1)
        else if E = 0 then .fin (s == 1) T (1 + q) else .fin (s == 1) (2 ^ (k / 2 - 1) + T) ((E : ℤ) + q))
  ∧ (∀ k, 16 ≤ k → k < 30 → ∀ E T : ℕ, E < 2 ^ (16 - k / 2) → T < 2 ^ (k / 2 - 8) →
      let p := E * 2 ^ (k / 2 - 8) + T
      let q : ℤ := -(2 ^ (16 - k / 2 - 1) : ℤ) - ((k / 2 - 8 : ℕ) : ℤ)
      (fmtOfX8 k).decode p = if p = 0xFF then .nan false else if k % 2 = 0 ∧ p = 0xFE then .inf false
        else if E = 0 then .fin false T (1 + q) else .fin false (2 ^ (k / 2 - 8) + T) ((E : ℤ) + q))
  ∧ (∀ f : Fmt, f.exists → ∀ p < 2 ^ f.width, (f.decode p).isNaN = false → f.encode (f.decode p) = p)
  ∧ (∀ s, fp64.encode (.nan s) = 0x7FF8000000000000 ∧ fp32.encode (.nan s) = 0x7FC00000 ∧ fp16.encode (.nan s) = 0x7E00
      ∧ bf16.encode (.nan s) = 0x7FC0 ∧ ∀ k, 2 ≤ k → k < 30 → (fmtOfX8 k).encode (.nan s) = if k < 16 then 0x80 else 0xFF)
  ∧ fp64.maxVal = (2 - 1 / 2 ^ 52) * 2 ^ 1023 ∧ fp32.maxVal = (2 - 1 / 2 ^ 23) * 2 ^ 127 ∧ fp16.maxVal = 65504 ∧ bf16.maxVal = (2 - 1 / 2 ^ 7) * 2 ^ 127
  ∧ ((List.range 28).map fun k => (fmtOfX8 (k + 2)).maxVal) = [2 ^ 62, 2 ^ 63, 2 ^ 31, 3 / 2 * 2 ^ 31, 49152, 57344, 224, 240, 15, 31 / 2, 31 / 8,
      63 / 16, 63 / 32, 127 / 64, 2 ^ 125, 2 ^ 126, 3 / 2 * 2 ^ 62, 2 ^ 63, 5 / 4 * 2 ^ 31, 3 / 2 * 2 ^ 31, 53248, 57344, 232, 240, 61 / 4, 31 / 2,
      125 / 32, 63 / 16]

/-- What the float add, multiply, choose, compare, classify and sign words compute (R34, R197, R199, R202, R239, R235, R240, R241,
R242, R243, R244, R245). For every operand, float type and modifier, element by element (FI reads a subnormal as zero of its sign;
the mode is RM, or STATUS.DRM under RM = 7; RS draws R197's bits): FADD, FSUB, FMUL and FMA give the exact sum, difference (a sum
with b's sign inverted), product or product plus c, rounded once, with NaN and NV for the invalid cases, infinities kept, and
R202's signs of an exact zero; FMIN and FMAX the smaller and larger datum with -0 below +0 and a number before a NaN, FMINN and
FMAXN NaN where either is one, written unchanged but under FO; FCMP the relation its condition names, with NV for a signalling NaN
or, under lt, le, gt and ge, any NaN; FCLASS the one bit of the datum's class; FNEG and FABS, without FI and FO, the pattern with
its sign bit inverted or cleared. A word raises the flags of all its elements. LREDUCE and LSCAN combine the values of a set one
after the other by FADD, FMIN or FMAX (stated without FI and FO), a lone value with a NaN made canonical, and give +0 and the
infinities for an empty set. -/
def Obligations.FloatArithmeticValues : Prop :=
  (∀ f x w n m, FloatShape f w n m →
    let a (j : Nat) := m.flushIn f.fi (m.decode (elem w j x.a))
    let b (j : Nat) := m.flushIn f.fi (m.decode (elem w j x.b))
    let d (j : Nat) := m.flushIn f.fi (m.decode (elem w j x.c))
    let c (j : Nat) := rctx f x f.sat j
    EachFloat w n (resFadd f x) (fun j q => SumOf m (c j) (a j) (b j) q)
    ∧ EachFloat w n (resFsub f x) (fun j q => SumOf m (c j) (a j) (b j).negate q)
    ∧ EachFloat w n (resFmul f x) (fun j q => ProductOf m (c j) (a j) (b j) q)
    ∧ EachFloat w n (resFma f x) (fun j q => FmaOf m (c j) (a j) (b j) (d j) q)
    ∧ (∀ fn up first, (fn, up, first) ∈ [(resFmin, false, true), (resFmax, true, true), (resFminn, false, false), (resFmaxn, true, false)] →
        EachFloat w n (fn f x) (fun j q => ChosenOf m f.fo up first (a j) (b j) q))
    ∧ EachFloat w n (resFclass f x) (fun j q => q.2 = fNone ∧ (∃ i < 10, q.1 = 2 ^ i)
        ∧ ((a j) = .nan true → q.1 = 1) ∧ ((a j) = .nan false → q.1 = 2) ∧ ((a j) = .inf true → q.1 = 4) ∧ ((a j) = .inf false → q.1 = 0x200)
        ∧ ((a j).isFin → ((a j).val = 0 → q.1 = if (a j).isNeg then 0x20 else 0x40)
            ∧ ((a j).val ≠ 0 → |(a j).val| < 2 ^ m.emin → q.1 = if (a j).isNeg then 0x10 else 0x80)
            ∧ (2 ^ m.emin ≤ |(a j).val| → q.1 = if (a j).isNeg then 8 else 0x100)))
    ∧ (f.fi = false → f.fo = false → EachFloat w n (resFneg f x) (fun j q => q = (Nat.xor (elem w j x.a) (2 ^ (w - 1)), fNone))
        ∧ EachFloat w n (resFabs f x) (fun j q => q = (elem w j x.a % 2 ^ (w - 1), fNone)))
    ∧ (∃ q fl, resFcmp f x = ⟨[], some q, fl⟩ ∧
        let un := (a 0).isNaN = true ∨ (b 0).isNaN = true
        let k := f.sc.toNat % 16
        (k = 0 → (q = true ↔ ¬un ∧ ¬(a 0).below (b 0) ∧ ¬(b 0).below (a 0))) ∧ (k = 1 → (q = true ↔ un ∨ (a 0).below (b 0) ∨ (b 0).below (a 0)))
        ∧ (k = 2 → (q = true ↔ ¬un ∧ (a 0).below (b 0))) ∧ (k = 3 → (q = true ↔ ¬un ∧ ¬(b 0).below (a 0)))
        ∧ (k = 4 → (q = true ↔ ¬un ∧ (b 0).below (a 0))) ∧ (k = 5 → (q = true ↔ ¬un ∧ ¬(a 0).below (b 0)))
        ∧ (k = 6 → (q = true ↔ un)) ∧ (k = 7 → (q = true ↔ ¬un))
        ∧ ((a 0).isSNaN = true ∨ (b 0).isSNaN = true ∨ (un ∧ 2 ≤ k ∧ k ≤ 5) → fl = fNV)
        ∧ ((a 0).isSNaN = false → (b 0).isSNaN = false → (¬un ∨ k < 2 ∨ 5 < k) → fl = fNone)))
  ∧ (∀ m c, m ∈ [fp64, fp32, fp16, bf16] → (∀ fi fo, combineFloat m fi fo c 0 [] = (m.encode (.fin false 0 0), fNone)
        ∧ combineFloat m fi fo c 1 [] = (m.encode (.inf false), fNone) ∧ combineFloat m fi fo c 2 [] = (m.encode (.inf true), fNone))
      ∧ (∀ op p, p < 2 ^ m.width → combineFloat m false false c op [p]
          = if (m.decode p).isNaN then (m.canonNaN, if (m.decode p).isSNaN then fNV else fNone) else (p, fNone))
      ∧ ∀ op xs p, xs ≠ [] → p < 2 ^ m.width → ∃ fl : Flags,
          let q := combineFloat m false false c op xs
          let r := combineFloat m false false c op (xs ++ [p])
          (op = 0 → SumOf m { c with sat := false, fo := false } (m.decode q.1) (m.decode p) (r.1, fl))
          ∧ (op = 1 → ChosenOf m false false true (m.decode q.1) (m.decode p) (r.1, fl))
          ∧ (op = 2 → ChosenOf m false true true (m.decode q.1) (m.decode p) (r.1, fl))
          ∧ (op < 3 → r.2 = q.2 ||| fl))
  ∧ (∀ m : Fmt, m.exists → ∀ fi v, (fi = true → v.isFin → v.val ≠ 0 → |v.val| < 2 ^ m.emin → m.flushIn fi v = .fin (v.isNeg && m.wide) 0 0)
      ∧ (fi = false ∨ ¬v.isFin ∨ v.val = 0 ∨ 2 ^ m.emin ≤ |v.val| → m.flushIn fi v = v))
  ∧ (∀ f x sat j, (rctx f x sat j).sat = sat ∧ (rctx f x sat j).fo = f.fo
      ∧ (let k := if f.rm = 7 then x.status.toNat / 2 ^ 21 % 8 else f.rm.toNat
        ∀ md, (k, md) ∈ [(0, RMode.rne), (1, .rz), (2, .ru), (3, .rd), (4, .rna), (5, .rs)] → (rctx f x sat j).mode = md)
      ∧ (rctx f x sat j).rnd = (hrandW (w64 (x.fibre * 8 + j)) x.rnd.seed
          (w64 (x.rnd.index * 2 ^ 32 + x.rnd.rep * 2 ^ 24 + x.rnd.loop % 2 ^ 24))).toNat % 2 ^ 24)

/-- What the integral-part, scaling, division, root and function words compute (R195, R197, R200, R239, R240, R246, R247, R248, R249).
For every operand, float type and modifier, element by element. FRINT gives the integer that the mode names with the sign of a,
raising NX where it changes; FFRACT a - floor(a) rounded down (+0 for an integer is the model's reading, log entry 231); FLDEXP a
x 2^n rounded once; FFREXP the significand of magnitude from 1/2 to below 1 and the exponent of a. FDIV, FRCP and FSQRT are the
exact quotient and root, correctly rounded in every mode. All of R249's special inputs give the results tabulated, with their
flags. FEXP2 of an integer and FLOG2 of a power of two are exact; beyond 2^20 FSIN and FCOS give some value from -1 to 1; and at
FP32 points FRSQ(2), FEXP2(1/2), FLOG2(3) are one of the two neighbours of the exact value, FSIN(1) and FCOS(1) within two units
in the last place. (A shift beyond 20000 and an exponent beyond 4000 act as those bounds do.) -/
def Obligations.FloatFunctionValues : Prop :=
  (∀ f x w n m, FloatShape f w n m →
    let a (j : Nat) := m.flushIn f.fi (m.decode (elem w j x.a))
    let b (j : Nat) := m.flushIn f.fi (m.decode (elem w j x.b))
    let c (j : Nat) := rctx f x f.sat j
    EachFloat w n (resFrint f x) (fun j q =>
        ((a j).isNaN = true → q = nanOut m (a j)) ∧ ((a j).isInf = true ∨ (a j).isZero = true → q = (m.encode (a j), fNone))
        ∧ ((a j).isFin → (a j).val ≠ 0 → ∃ i : ℤ, (rctx f x false j).picksInt ((a j).val : ℝ) i
            ∧ q = (m.encode (.fin (a j).isNeg i.natAbs 0), if (i : ℚ) = (a j).val then fNone else fNX)))
    ∧ EachFloat w n (resFfract f x) (fun j q =>
        ((a j).isNaN = true → q = nanOut m (a j)) ∧ ((a j).isInf = true → q = (m.canonNaN, fNV))
        ∧ ((a j).isFin → (Int.fract (a j).val = 0 → q = (m.encode (.fin false 0 0), fNone))
            ∧ (Int.fract (a j).val ≠ 0 → m.writes ⟨.rd, 0, false, f.fo⟩ ((Int.fract (a j).val : ℚ) : ℝ) q)))
    ∧ EachFloat w n (resFldexp f x) (fun j q =>
        ((a j).isNaN = true → q = nanOut m (a j)) ∧ ((a j).isInf = true ∨ (a j).isZero = true → q = (m.encode (a j), fNone))
        ∧ ((a j).isFin → (a j).val ≠ 0 → ∀ k, Stands true w (elem w j x.b) k →
            m.writes (c j) (((a j).val : ℝ) * 2 ^ (max (-20000) (min 20000 k))) q))
    ∧ (∃ r1 r2 fl, resFfrexp f x = ⟨[r1, r2], none, fl⟩ ∧ r1.toNat < 2 ^ (w * n) ∧ r2.toNat < 2 ^ (w * n) ∧ ∀ j < n,
        (¬(a j).isFin ∨ (a j).val = 0 → elem w j r1 = m.encode (a j) ∧ elem w j r2 = 0)
        ∧ ((a j).isFin → (a j).val ≠ 0 → ∃ v e, Stands true w (elem w j r2) e ∧ (a j).val = v.val * 2 ^ e ∧ v.isNeg = (a j).isNeg
            ∧ 1 / 2 ≤ |v.val| ∧ |v.val| < 1 ∧ ∃ f2, m.passes f.fo v (elem w j r1, f2)))
    ∧ EachFloat w n (resFdiv f x) (fun j q => QuotientOf m (c j) (a j) (b j) q)
    ∧ EachFloat w n (resFrcp f x) (fun j q => QuotientOf m (c j) (.fin false 1 0) (a j) q)
    ∧ EachFloat w n (resFsqrt f x) (fun j q =>
        ((a j).isNaN = true → q = nanOut m (a j)) ∧ ((a j).isZero = true ∨ a j = .inf false → q = (m.encode (a j), fNone))
        ∧ (a j = .inf true ∨ ((a j).isFin ∧ (a j).val < 0) → q = (m.canonNaN, fNV))
        ∧ ((a j).isFin → 0 < (a j).val → m.writes (rctx f x false j) (Real.sqrt ((a j).val : ℝ)) q))
    ∧ EachFloat w n (resFrsq f x) (fun j q =>
        ((a j).isNaN = true → q = nanOut m (a j)) ∧ (a j = .inf true ∨ ((a j).isFin ∧ (a j).val < 0) → q = (m.canonNaN, fNV))
        ∧ ((a j).isZero = true → q = (m.encode (.inf (a j).isNeg), fDZ)) ∧ (a j = .inf false → q = (m.encode (.fin false 0 0), fNone)))
    ∧ (f.ty ≠ 3 → EachFloat w n (resFexp2 f x) (fun j q =>
          ((a j).isNaN = true → q = nanOut m (a j)) ∧ (a j = .inf true → q = (m.encode (.fin false 0 0), fNone))
          ∧ ((a j).isZero = true → q = (m.encode (.fin false 1 0), fNone)) ∧ (a j = .inf false → q = (m.encode (.inf false), fNone))
          ∧ ((a j).isFin → ∀ k : ℤ, (a j).val = k → m.writes ⟨.rne, 0, f.sat, f.fo⟩ ((2 : ℝ) ^ (max (-4000) (min 4000 k))) q))
        ∧ EachFloat w n (resFlog2 f x) (fun j q =>
          ((a j).isNaN = true → q = nanOut m (a j)) ∧ (a j = .inf true ∨ ((a j).isFin ∧ (a j).val < 0) → q = (m.canonNaN, fNV))
          ∧ ((a j).isZero = true → q = (m.encode (.inf true), fDZ)) ∧ (a j = .inf false → q = (m.encode (.inf false), fNone))
          ∧ ((a j).isFin → ∀ k : ℤ, (a j).val = 2 ^ k → (k = 0 → q = (m.encode (.fin false 0 0), fNone))
              ∧ (k ≠ 0 → m.writes ⟨.rne, 0, false, f.fo⟩ (k : ℝ) q)))
        ∧ ∀ fn cosine, (fn, cosine) ∈ [(resFsin, false), (resFcos, true)] → EachFloat w n (fn f x) (fun j q =>
          ((a j).isNaN = true → q = nanOut m (a j)) ∧ ((a j).isInf = true → q = (m.canonNaN, fNV))
          ∧ ((a j).isZero = true → q = (if cosine then m.encode (.fin false 1 0) else m.encode (.fin (a j).isNeg 0 0), fNone))
          ∧ ((a j).isFin → (2 : ℚ) ^ 20 < |(a j).val| → (m.decode q.1).isFin ∧ |(m.decode q.1).val| ≤ 1))))
  ∧ (∀ (f : Fields) (x : LaneIn), f.ty = 6 → f.fi = false → f.fo = false → f.sat = false →
      (x.a = 0x40000000 → resFrsq f x ∈ [0x3F3504F3, 0x3F3504F4].map fun r => ⟨[r], none, fNX⟩)
      ∧ (x.a = 0x3F000000 → resFexp2 f x ∈ [0x3FB504F3, 0x3FB504F4].map fun r => ⟨[r], none, fNX⟩)
      ∧ (x.a = 0x40400000 → resFlog2 f x ∈ [0x3FCAE00D, 0x3FCAE00E].map fun r => ⟨[r], none, fNX⟩)
      ∧ (x.a = 0x3F800000 → (∃ r ∈ [0x3F576AA3, 0x3F576AA4, 0x3F576AA5, 0x3F576AA6], resFsin f x = ⟨[r], none, fNX⟩)
          ∧ ∃ r ∈ [0x3F0A513F, 0x3F0A5140, 0x3F0A5141, 0x3F0A5142], resFcos f x = ⟨[r], none, fNX⟩))

/-- What CVT, CVT8, FDOT2 and SCACC compute (R198, R199, R207, R239, R250, R251, R252, R253, R254). For every operand and modifier.
CVT takes each element from the register and half that R250's counts name; to a float type it rounds the number or datum once (NaN
canonical, infinity kept), to an integer type it rounds to an integral value by the mode, gives the nearer bound with NV outside
the range, 0 with NV for a NaN, and NX where it changed. CVT8 toward binary8 writes the part's bytes and keeps D's others, by R198
(an infinity or a negative value the format cannot stand for gives NaN or the bound under SAT, with NV) and the same rounding,
toward i8 and n8 by the integer rule; from binary8 it widens the part's bytes, rounding once. FDOT2 adds c (D under x8) and its
two (four) products exactly and rounds once; SCACC adds D and both scales times the element; NaN, 0 x infinity and infinities of
both signs are NaN, NV as R253 and R254 say; an infinite term alone is the result. -/
def Obligations.ConversionAndDotValues : Prop :=
  (∀ f x w n m ws ns ms, FloatShape f w n m → FloatShape { f with ty := BitVec.ofNat 4 f.sb.toNat } ws ns ms →
    EachFloat w n (resCvt f x) (fun j q =>
      let p := if n = ns then elem ws j x.a else if ns < n then (if j < ns then elem ws j x.a else elem ws (j - ns) x.c)
        else elem ws (n * (x.c.toNat % 2) + j) x.a
      ConvertedTo m (rctx f x f.sat j) (ms.flushIn f.fi (ms.decode p)) q))
  ∧ (∀ f x w n m ws ns sg, FloatShape f w n m → f.sb.toNat % 16 ≠ 14 → IntShape { f with ty := BitVec.ofNat 4 f.sb.toNat } ws ns sg →
      EachFloat w n (resCvt f x) (fun j q =>
        let p := if n = ns then elem ws j x.a else if ns < n then (if j < ns then elem ws j x.a else elem ws (j - ns) x.c)
          else elem ws (n * (x.c.toNat % 2) + j) x.a
        ∀ i : ℤ, Stands sg ws p i → (i = 0 → q = (m.encode (.fin false 0 0), fNone)) ∧ (i ≠ 0 → m.writes (rctx f x f.sat j) (i : ℝ) q)))
  ∧ (∀ f x w n sg ws ns ms, f.ty.toNat ≠ 14 → IntShape f w n sg → FloatShape { f with ty := BitVec.ofNat 4 f.sb.toNat } ws ns ms →
      EachFloat w n (resCvt f x) (fun j q =>
        let p := if n = ns then elem ws j x.a else if ns < n then (if j < ns then elem ws j x.a else elem ws (j - ns) x.c)
          else elem ws (n * (x.c.toNat % 2) + j) x.a
        let v := ms.flushIn f.fi (ms.decode p)
        let lo : ℤ := if sg then -(2 ^ (w - 1)) else 0
        let hi : ℤ := if sg then 2 ^ (w - 1) - 1 else 2 ^ w - 1
        (v.isNaN = true → q = (0, fNV)) ∧ (∀ s, v = .inf s → (q.1 : ℤ) = (if s then lo else hi) % 2 ^ w ∧ q.2 = fNV)
        ∧ (v.isFin → ∃ i : ℤ, (rctx f x f.sat j).picksInt (v.val : ℝ) i ∧ (i < lo → (q.1 : ℤ) = lo % 2 ^ w ∧ q.2 = fNV)
            ∧ (hi < i → (q.1 : ℤ) = hi % 2 ^ w ∧ q.2 = fNV)
            ∧ (lo ≤ i → i ≤ hi → (q.1 : ℤ) = i % 2 ^ w ∧ q.2 = if (i : ℚ) = v.val then fNone else fNX))))
  ∧ (∀ f x w n m, FloatShape f w n m → f.ty ≠ 3 → ∀ k part, f.sb.toNat % 32 = k → k < 30 → f.sb.toNat / 64 = part → part * n + n ≤ 8 →
      (f.sb.getLsbD 5 = false → EachFloat 8 8 (resCvt8 f x) (fun j q =>
          (j < part * n ∨ part * n + n ≤ j → q = (elem 8 j x.d, fNone))
          ∧ ∀ i < n, j = part * n + i →
            let v := m.flushIn f.fi (m.decode (elem w i x.a))
            let c := rctx f x f.sat j
            (2 ≤ k → ConvertedTo (fmtOfX8 k) c v q)
            ∧ (k < 2 → let lo : ℤ := if k = 0 then -128 else 0
              let hi : ℤ := if k = 0 then 127 else 255
              (v.isNaN = true → q = (0, fNV)) ∧ (∀ s, v = .inf s → (q.1 : ℤ) = (if s then lo else hi) % 256 ∧ q.2 = fNV)
              ∧ (v.isFin → ∃ r : ℤ, c.picksInt (v.val : ℝ) r ∧ (r < lo → (q.1 : ℤ) = lo % 256 ∧ q.2 = fNV) ∧ (hi < r → (q.1 : ℤ) = hi ∧ q.2 = fNV)
                  ∧ (lo ≤ r → r ≤ hi → (q.1 : ℤ) = r % 256 ∧ q.2 = if (r : ℚ) = v.val then fNone else fNX)))))
      ∧ (f.sb.getLsbD 5 = true → EachFloat w n (resCvt8 f x) (fun j q =>
          let p := elem 8 (part * n + j) x.a
          (2 ≤ k → ConvertedTo m (rctx f x f.sat j) ((fmtOfX8 k).flushIn f.fi ((fmtOfX8 k).decode p)) q)
          ∧ (k < 2 → ∀ i : ℤ, Stands (k == 0) 8 p i → (i = 0 → q = (m.encode (.fin false 0 0), fNone))
              ∧ (i ≠ 0 → m.writes (rctx f x f.sat j) (i : ℝ) q)))))
  ∧ (∀ f x m cnt, (f.ty.toNat, m, cnt) = (10, fp16, 2) ∨ (f.ty.toNat, m, cnt) = (11, bf16, 2)
        ∨ (∃ k, 2 ≤ k ∧ k < 30 ∧ f.sc.toNat % 32 = k ∧ (f.ty.toNat, m, cnt) = (14, fmtOfX8 k, 4)) →
      EachFloat 32 2 (resFdot2 f x) (fun j q =>
        let acc := fp32.flushIn f.fi (fp32.decode (elem 32 j (if f.ty = 14 then x.d else x.c)))
        let a (i : ℕ) := m.flushIn f.fi (m.decode (elem m.width (cnt * j + i) x.a))
        let b (i : ℕ) := m.flushIn f.fi (m.decode (elem m.width (cnt * j + i) x.b))
        let bad (i : ℕ) := ((a i).isZero && (b i).isInf) || ((a i).isInf && (b i).isZero)
        let nan := acc.isNaN = true ∨ ∃ i < cnt, (a i).isNaN = true ∨ (b i).isNaN = true ∨ bad i = true
        let infs (s : Bool) := acc = .inf s ∨ ∃ i < cnt, ((a i).isInf = true ∨ (b i).isInf = true) ∧ ((a i).isNeg != (b i).isNeg) = s
        (nan → q.1 = fp32.canonNaN ∧ (q.2 = fNV ∨ q.2 = fNone)
            ∧ (q.2 = fNV ↔ acc.isSNaN = true ∨ ∃ i < cnt, (a i).isSNaN = true ∨ (b i).isSNaN = true ∨ bad i = true))
        ∧ (¬nan → (infs true ∧ infs false → q = (fp32.canonNaN, fNV)) ∧ (∀ s, infs s → ¬infs (!s) → q = (fp32.encode (.inf s), fNone))
            ∧ (¬infs true → ¬infs false →
                let v := acc.val + ((List.range cnt).map fun i => (a i).val * (b i).val).sum
                (v ≠ 0 → fp32.writes (rctx f x f.sat j) (v : ℝ) q) ∧ (v = 0 → ∃ s, q = (fp32.encode (.fin s 0 0), fNone)
                  ∧ (acc.isNeg = false → (rctx f x f.sat j).mode ≠ .rd → s = false))))))
  ∧ (∀ f x k, f.sc.toNat % 32 = k → 2 ≤ k → k < 30 → EachFloat 32 2 (resScacc f x) (fun j q =>
        let m := fmtOfX8 k
        let sa := m.flushIn f.fi (m.decode (elem 8 j x.b))
        let sb := m.flushIn f.fi (m.decode (elem 8 (4 + j) x.b))
        let v := fp32.flushIn f.fi (fp32.decode (elem 32 j x.a))
        let d := fp32.flushIn f.fi (fp32.decode (elem 32 j x.d))
        let nan := sa.isNaN = true ∨ sb.isNaN = true ∨ v.isNaN = true ∨ d.isNaN = true
        let zero := sa.isZero || sb.isZero || v.isZero
        let inf := sa.isInf || sb.isInf || v.isInf
        let neg := (sa.isNeg != sb.isNeg) != v.isNeg
        (nan → q = (fp32.canonNaN, if v.isSNaN || d.isSNaN then fNV else fNone))
        ∧ (¬nan → zero = true → inf = true → q = (fp32.canonNaN, fNV))
        ∧ (¬nan → zero = false → inf = true → q = if d = .inf (!neg) then (fp32.canonNaN, fNV) else (fp32.encode (.inf neg), fNone))
        ∧ (¬nan → inf = false → ∀ s, d = .inf s → q = (fp32.encode (.inf s), fNone))
        ∧ (¬nan → inf = false → d.isFin →
            (d.val + sa.val * sb.val * v.val ≠ 0 → fp32.writes (rctx f x f.sat j) ((d.val + sa.val * sb.val * v.val : ℚ) : ℝ) q)
            ∧ (d.val + sa.val * sb.val * v.val = 0 →
                q = (fp32.encode (.fin (if zero && d.isZero && d.isNeg == neg then neg else (rctx f x f.sat j).mode == .rd) 0 0), fNone)))))

/-- What the interval words compute (R203, R204, R239, R256, R257, R258, R259, R260). A register reads as NaI with a NaN in either
half, as empty with lo above hi, else as the two bounds. IVADD, IVSUB, IVMUL, IVDIV (by an interval without zero), IVSQR, IVSQRT,
IVMIN, IVMAX, IVABS and IVHULL of intervals with finite bounds give the tightest FP32 interval that holds the operation's value
over all members; with infinite bounds too the result holds the value over all real members. A divisor that contains zero gives
[0, 0] for the dividend [0, 0] and else the entire line; the root of an interval below zero is empty; sums and quotients that pair
infinities undefined give the entire line. A NaI operand gives NaI and an empty one empty, but IVHULL ignores an empty operand.
IVMAKE orders two FP32 values; IVMID gives R259's point; IVSPLIT gives [al, m] and [m, ah]; IVTEST's predicate is its selector's
test. No interval word raises a flag; a zero bound is written +0. -/
def Obligations.IntervalResultValues : Prop :=
  (∀ w : Word, let lo := fp32.decode (elem 32 0 w)
      let hi := fp32.decode (elem 32 1 w)
      (ivRead w = .nai ↔ lo.isNaN = true ∨ hi.isNaN = true)
      ∧ (ivRead w = .empty ↔ lo.isNaN = false ∧ hi.isNaN = false ∧ hi.below lo)
      ∧ (lo.isNaN = false → hi.isNaN = false → ¬hi.below lo → ∃ l h, ivRead w = .mk l h
          ∧ (lo.isFin → ∃ d, l = .fin d ∧ d.val = lo.val) ∧ (hi.isFin → ∃ d, h = .fin d ∧ d.val = hi.val)
          ∧ (∀ s, lo = .inf s → l = if s then .ninf else .pinf) ∧ (∀ s, hi = .inf s → h = if s then .ninf else .pinf)))
  ∧ (∀ x : LaneIn, let a := ivRead x.a
      let b := ivRead x.b
      (a.bounded → b.bounded →
        HullOf (resIvadd x) (fun z => ∃ u v, a.has u ∧ b.has v ∧ z = u + v) ∧ HullOf (resIvsub x) (fun z => ∃ u v, a.has u ∧ b.has v ∧ z = u - v)
        ∧ HullOf (resIvmul x) (fun z => ∃ u v, a.has u ∧ b.has v ∧ z = u * v)
        ∧ (¬b.has 0 → HullOf (resIvdiv x) (fun z => ∃ u v, a.has u ∧ b.has v ∧ z = u / v))
        ∧ HullOf (resIvmin x) (fun z => ∃ u v, a.has u ∧ b.has v ∧ z = min u v) ∧ HullOf (resIvmax x) (fun z => ∃ u v, a.has u ∧ b.has v ∧ z = max u v)
        ∧ HullOf (resIvhull x) (fun z => a.has z ∨ b.has z))
      ∧ (a.bounded → HullOf (resIvsqr x) (fun z => ∃ u, a.has u ∧ z = u * u) ∧ HullOf (resIvabs x) (fun z => ∃ u, a.has u ∧ z = |u|)
        ∧ ((∃ u, a.has u ∧ 0 ≤ u) → HullOf (resIvsqrt x) (fun z => ∃ u, a.has u ∧ 0 ≤ u ∧ z = Real.sqrt u)))
      ∧ HoldsAll (resIvadd x) (fun z => ∃ u v, a.has u ∧ b.has v ∧ z = u + v) ∧ HoldsAll (resIvsub x) (fun z => ∃ u v, a.has u ∧ b.has v ∧ z = u - v)
      ∧ HoldsAll (resIvmul x) (fun z => ∃ u v, a.has u ∧ b.has v ∧ z = u * v)
      ∧ HoldsAll (resIvdiv x) (fun z => ∃ u v, a.has u ∧ b.has v ∧ v ≠ 0 ∧ z = u / v)
      ∧ HoldsAll (resIvmin x) (fun z => ∃ u v, a.has u ∧ b.has v ∧ z = min u v) ∧ HoldsAll (resIvmax x) (fun z => ∃ u v, a.has u ∧ b.has v ∧ z = max u v)
      ∧ HoldsAll (resIvsqr x) (fun z => ∃ u, a.has u ∧ z = u * u) ∧ HoldsAll (resIvabs x) (fun z => ∃ u, a.has u ∧ z = |u|)
      ∧ HoldsAll (resIvsqrt x) (fun z => ∃ u, a.has u ∧ 0 ≤ u ∧ z = Real.sqrt u)
      ∧ (a ≠ .nai → b ≠ .nai → HoldsAll (resIvhull x) (fun z => a.has z ∨ b.has z))
      ∧ (b.has 0 → a ≠ .nai → a ≠ .empty → resIvdiv x = if elem 32 0 x.a % 2 ^ 31 = 0 ∧ elem 32 1 x.a % 2 ^ 31 = 0 then ⟨[0], none, 0⟩
          else ⟨[0x7F800000FF800000], none, 0⟩)
      ∧ (∀ l h, a = .mk l h → (∀ u, a.has u → u < 0) → h ≠ .pinf → resIvsqrt x = ⟨[0xFF8000007F800000], none, 0⟩)
      ∧ (∀ al ah bl bh, a = .mk al ah → b = .mk bl bh →
          ((ah = .pinf ∧ bl = .ninf) ∨ (al = .ninf ∧ bh = .pinf) → resIvadd x = ⟨[0x7F800000FF800000], none, 0⟩)
          ∧ ((ah = .pinf ∧ bh = .pinf) ∨ (al = .ninf ∧ bl = .ninf) → resIvsub x = ⟨[0x7F800000FF800000], none, 0⟩)
          ∧ ((al = .ninf ∨ ah = .pinf) → (bl = .ninf ∨ bh = .pinf) → resIvdiv x = ⟨[0x7F800000FF800000], none, 0⟩))
      ∧ (∀ fn ∈ [resIvadd, resIvsub, resIvmul, resIvdiv, resIvmin, resIvmax, resIvhull], (a = .nai ∨ b = .nai → fn x = ⟨[0x7FC000007FC00000], none, 0⟩))
      ∧ (∀ fn ∈ [resIvadd, resIvsub, resIvmul, resIvdiv, resIvmin, resIvmax], a ≠ .nai → b ≠ .nai → (a = .empty ∨ b = .empty) →
          fn x = ⟨[0xFF8000007F800000], none, 0⟩)
      ∧ (∀ fn ∈ [resIvsqr, resIvsqrt, resIvabs], (a = .nai → fn x = ⟨[0x7FC000007FC00000], none, 0⟩) ∧ (a = .empty → fn x = ⟨[0xFF8000007F800000], none, 0⟩))
      ∧ (a = .empty → b = .empty → resIvhull x = ⟨[0xFF8000007F800000], none, 0⟩)
      ∧ (a = .empty → ∀ l h, b = .mk l h → ∃ r, resIvhull x = ⟨[r], none, 0⟩ ∧ ∀ j < 2, elem 32 j r = plusZero (elem 32 j x.b))
      ∧ (b = .empty → ∀ l h, a = .mk l h → ∃ r, resIvhull x = ⟨[r], none, 0⟩ ∧ ∀ j < 2, elem 32 j r = plusZero (elem 32 j x.a)))
  ∧ (∀ x : LaneIn, let a := fp32.decode (elem 32 0 x.a)
      let b := fp32.decode (elem 32 0 x.b)
      (a.isNaN = true ∨ b.isNaN = true → resIvmake x = ⟨[0x7FC000007FC00000], none, 0⟩)
      ∧ (a.isNaN = false → b.isNaN = false → ∃ r, resIvmake x = ⟨[r], none, 0⟩
          ∧ (¬b.below a → elem 32 0 r = plusZero (elem 32 0 x.a) ∧ elem 32 1 r = plusZero (elem 32 0 x.b))
          ∧ (b.below a → elem 32 0 r = plusZero (elem 32 0 x.b) ∧ elem 32 1 r = plusZero (elem 32 0 x.a))))
  ∧ (∀ x : LaneIn, let a := ivRead x.a
      ∃ p : Word, resIvmid x = ⟨[p], none, 0⟩
        ∧ (a = .nai ∨ a = .empty → p = 0x7FC00000)
        ∧ (a = .mk .ninf .pinf → p = 0) ∧ (∀ d, a = .mk .ninf (.fin d) → p = 0xFF7FFFFF) ∧ (∀ d, a = .mk (.fin d) .pinf → p = 0x7F7FFFFF)
        ∧ (a = .mk .ninf .ninf → p = 0xFF800000) ∧ (a = .mk .pinf .pinf → p = 0x7F800000)
        ∧ (∀ l h : Dy, a = .mk (.fin l) (.fin h) → p.toNat < 2 ^ 32 ∧ (fp32.decode p.toNat).isFin
            ∧ ctxRNE.picks fp32.onGrid fp32.evenAt (((l.val + h.val) / 2 : ℚ) : ℝ) ((fp32.decode p.toNat).val : ℝ))
        ∧ ∃ r1 r2, resIvsplit x = ⟨[r1, r2], none, 0⟩
          ∧ (a = .nai → r1 = 0x7FC000007FC00000 ∧ r2 = r1) ∧ (a = .empty → r1 = 0xFF8000007F800000 ∧ r2 = r1)
          ∧ ∀ l h, a = .mk l h → elem 32 0 r1 = plusZero (elem 32 0 x.a) ∧ elem 32 1 r1 = plusZero p.toNat
              ∧ elem 32 0 r2 = plusZero p.toNat ∧ elem 32 1 r2 = plusZero (elem 32 1 x.a))
  ∧ (∀ f x, ∃ q, resIvtest f x = ⟨[], some q, 0⟩ ∧ let a := ivRead x.a
      (f.sb.toNat % 8 = 0 → (q = true ↔ a.has 0))
      ∧ (f.sb.toNat % 8 = 1 → (q = true ↔ ∃ l h, a = .mk l h ∧ (l = .pinf ∨ ∃ d, l = .fin d ∧ 0 < d.val)))
      ∧ (f.sb.toNat % 8 = 2 → (q = true ↔ ∃ l h, a = .mk l h ∧ (h = .ninf ∨ ∃ d, h = .fin d ∧ d.val < 0)))
      ∧ (f.sb.toNat % 8 = 3 → (q = true ↔ a = .empty)) ∧ (f.sb.toNat % 8 = 4 → (q = true ↔ a = .nai)))

/-- What an atomic leaves in memory, and what MMUL and MSTORE make of one accumulator entry (R123, R202, R206, R207, R208, R209, R279,
R286). op(old, x) of an atomic: modulo 2^w for an integer add, the smaller or larger by the type's signedness, the bits of and, or
and xor, x for an exchange; for f32 and f64 the sum rounded once by RNE, and the smaller or larger with a number before a NaN and
-0 below +0. An entry after MMUL in the integer formats is the old value plus the exact sum of the products of the numbers that
the bytes stand for, modulo 2^32, over the whole K. In the float formats one K-group of 32 leaves what R207 says: NaN for a NaN,
for infinity x zero or for infinities of both signs; the infinity; else the sum of the products of both sides truncated to their
windows (8, 4 or 16 by the side's format) plus the old value, both truncated to 28 bits, rounded once by RNE with a zero written
+0; and longer rows take their groups in order. MSTORE writes an integer entry's low byte, clamped under SAT; a float entry
converted by RNE to the binary8 code, FP16 or BF16, with SAT; or its four bytes unchanged. -/
def Obligations.AtomicAndMatrixEntryValues : Prop :=
  (∀ t w sg, (t, w, sg) ∈ [(Ty.b64, 64, false), (.i64, 64, true), (.n64, 64, false), (.i32, 32, true), (.n32, 32, false)] →
    ∀ old x, old < 2 ^ w → x < 2 ^ w → atomOp t 0 old x = (old + x) % 2 ^ w
      ∧ (∀ u v, Stands sg w old u → Stands sg w x v → (atomOp t 1 old x = if v < u then x else old) ∧ (atomOp t 2 old x = if u < v then x else old))
      ∧ (∀ j, (atomOp t 3 old x).testBit j = (old.testBit j && x.testBit j) ∧ (atomOp t 4 old x).testBit j = (old.testBit j || x.testBit j)
          ∧ (atomOp t 5 old x).testBit j = (old.testBit j != x.testBit j))
      ∧ atomOp t 6 old x = x)
  ∧ (∀ t w m, (t, w, m) ∈ [(Ty.f32, 32, fp32), (.f64, 64, fp64)] → ∀ old x, old < 2 ^ w → x < 2 ^ w →
      (∃ fl, SumOf m ctxRNE (m.decode old) (m.decode x) (atomOp t 0 old x, fl))
      ∧ (∃ fl, ChosenOf m false false true (m.decode old) (m.decode x) (atomOp t 1 old x, fl))
      ∧ ∃ fl, ChosenOf m false true true (m.decode old) (m.decode x) (atomOp t 2 old x, fl))
  ∧ (∀ a b as bs acc, a < 2 → b < 2 → as.length = bs.length → (∀ p ∈ as, p < 256) → (∀ p ∈ bs, p < 256) → ∀ u v : ℕ → ℤ,
      (∀ k < as.length, Stands (a == 0) 8 (nth as k) (u k) ∧ Stands (b == 0) 8 (nth bs k) (v k)) →
      ((mulEntry a b as bs acc).toNat : ℤ) = (acc.toNat + ((List.range as.length).map fun k => u k * v k).sum) % 2 ^ 32)
  ∧ (∀ a b wa wb as bs acc, 2 ≤ a → a < 32 → 2 ≤ b → b < 32 → as.length = 32 → bs.length = 32 →
      ((a < 16 ∧ wa = if 4 ≤ a / 2 then 8 else 4) ∨ (16 ≤ a ∧ a < 30 ∧ wa = if 4 ≤ a / 2 - 7 then 8 else 4) ∨ (30 ≤ a ∧ wa = 16)) →
      ((b < 16 ∧ wb = if 4 ≤ b / 2 then 8 else 4) ∨ (16 ≤ b ∧ b < 30 ∧ wb = if 4 ≤ b / 2 - 7 then 8 else 4) ∨ (30 ≤ b ∧ wb = 16)) →
      GroupOf wa wb (fun k => (matFmt a).decode (nth as k)) (fun k => (matFmt b).decode (nth bs k)) (fp32.decode acc.toNat) (mulEntry a b as bs acc).toNat)
  ∧ (∀ a b as bs as' bs' acc, 2 ≤ a → as.length = 32 → bs.length = 32 → as'.length = bs'.length → as'.length % 32 = 0 → as'.length ≤ 480 →
      mulEntry a b (as ++ as') (bs ++ bs') acc = mulEntry a b as' bs' (mulEntry a b as bs acc))
  ∧ (∀ sat (w : BitVec 32), (∀ k, 2 ≤ k → k < 30 → matFmt k = fmtOfX8 k) ∧ matFmt 30 = fp16 ∧ matFmt 31 = bf16
      ∧ (∀ k < 2, ∀ v, Stands true 32 w.toNat v → ∃ q : Byte, storeEntry k sat w = [q] ∧ (q.toNat : ℤ) = fitInt (k == 0) sat 8 v)
      ∧ (∀ k, 2 ≤ k → k < 30 → ∃ (q : Byte) (fl : Flags), storeEntry k sat w = [q]
          ∧ ConvertedTo (fmtOfX8 k) ⟨.rne, 0, sat, false⟩ (fp32.decode w.toNat) (q.toNat, fl))
      ∧ (∃ b0 b1 b2 b3 : Byte, storeEntry 32 sat w = [b0, b1, b2, b3] ∧ w = b3 ++ b2 ++ b1 ++ b0)
      ∧ ∀ k g, (k, g) ∈ [(33, fp16), (34, bf16)] → ∃ (q0 q1 : Byte) (fl : Flags), storeEntry k sat w = [q0, q1]
          ∧ ConvertedTo g ⟨.rne, 0, sat, false⟩ (fp32.decode w.toNat) (q0.toNat + 256 * q1.toNat, fl))
end

