-- ==== Sys2Proof/Laws/State.lean ====
section
/-! SUPPORT. What each update of State leaves in each field. -/

namespace Sys2Proof.Machine

variable (s : State)

section
variable (k : Nat) (f : Group → Group)

@[simp] theorem modGroup_agenda : (s.modGroup k f).agenda = s.agenda := rfl
@[simp] theorem modGroup_issue : (s.modGroup k f).issue = s.issue := rfl
@[simp] theorem modGroup_free : (s.modGroup k f).free = s.free := rfl
@[simp] theorem modGroup_nextId : (s.modGroup k f).nextId = s.nextId := rfl
@[simp] theorem modGroup_clock : (s.modGroup k f).clock = s.clock := rfl
@[simp] theorem modGroup_issued : (s.modGroup k f).issued = s.issued := rfl
@[simp] theorem modGroup_tried : (s.modGroup k f).tried = s.tried := rfl
@[simp] theorem modGroup_admitted : (s.modGroup k f).admitted = s.admitted := rfl
@[simp] theorem modGroup_gtsBase : (s.modGroup k f).gtsBase = s.gtsBase := rfl
@[simp] theorem modGroup_mem : (s.modGroup k f).mem = s.mem := rfl
@[simp] theorem modGroup_hostMem : (s.modGroup k f).hostMem = s.hostMem := rfl
@[simp] theorem modGroup_peerMem : (s.modGroup k f).peerMem = s.peerMem := rfl
@[simp] theorem modGroup_peerBad : (s.modGroup k f).peerBad = s.peerBad := rfl
@[simp] theorem modGroup_peerSays : (s.modGroup k f).peerSays = s.peerSays := rfl
@[simp] theorem modGroup_peerNews : (s.modGroup k f).peerNews = s.peerNews := rfl
@[simp] theorem modGroup_peerAsked : (s.modGroup k f).peerAsked = s.peerAsked := rfl
@[simp] theorem modGroup_llc : (s.modGroup k f).llc = s.llc := rfl
@[simp] theorem modGroup_pins : (s.modGroup k f).pins = s.pins := rfl
@[simp] theorem modGroup_poison : (s.modGroup k f).poison = s.poison := rfl
@[simp] theorem modGroup_poisonCode : (s.modGroup k f).poisonCode = s.poisonCode := rfl
@[simp] theorem modGroup_sealed : (s.modGroup k f).sealed = s.sealed := rfl
@[simp] theorem modGroup_tlb : (s.modGroup k f).tlb = s.tlb := rfl
@[simp] theorem modGroup_cores : (s.modGroup k f).cores = s.cores := rfl
@[simp] theorem modGroup_groups : (s.modGroup k f).groups = updateBy Group.gid k f s.groups := rfl
@[simp] theorem modGroup_blocks : (s.modGroup k f).blocks = s.blocks := rfl
@[simp] theorem modGroup_batches : (s.modGroup k f).batches = s.batches := rfl
@[simp] theorem modGroup_contexts : (s.modGroup k f).contexts = s.contexts := rfl
@[simp] theorem modGroup_objects : (s.modGroup k f).objects = s.objects := rfl
@[simp] theorem modGroup_slotCounts : (s.modGroup k f).slotCounts = s.slotCounts := rfl
@[simp] theorem modGroup_queues : (s.modGroup k f).queues = s.queues := rfl
@[simp] theorem modGroup_channels : (s.modGroup k f).channels = s.channels := rfl
@[simp] theorem modGroup_launches : (s.modGroup k f).launches = s.launches := rfl
@[simp] theorem modGroup_rasters : (s.modGroup k f).rasters = s.rasters := rfl
@[simp] theorem modGroup_pipes : (s.modGroup k f).pipes = s.pipes := rfl
@[simp] theorem modGroup_conts : (s.modGroup k f).conts = s.conts := rfl
@[simp] theorem modGroup_counters : (s.modGroup k f).counters = s.counters := rfl
@[simp] theorem modGroup_faults : (s.modGroup k f).faults = s.faults := rfl
@[simp] theorem modGroup_heldPeers : (s.modGroup k f).heldPeers = s.heldPeers := rfl
@[simp] theorem modGroup_parks : (s.modGroup k f).parks = s.parks := rfl
@[simp] theorem modGroup_images : (s.modGroup k f).images = s.images := rfl
@[simp] theorem modGroup_jobs : (s.modGroup k f).jobs = s.jobs := rfl
@[simp] theorem modGroup_host : (s.modGroup k f).host = s.host := rfl
@[simp] theorem modGroup_hostCmd : (s.modGroup k f).hostCmd = s.hostCmd := rfl
@[simp] theorem modGroup_msix : (s.modGroup k f).msix = s.msix := rfl
@[simp] theorem modGroup_errlog : (s.modGroup k f).errlog = s.errlog := rfl
@[simp] theorem modGroup_secnt : (s.modGroup k f).secnt = s.secnt := rfl
@[simp] theorem modGroup_outbox : (s.modGroup k f).outbox = s.outbox := rfl
@[simp] theorem modGroup_hostData : (s.modGroup k f).hostData = s.hostData := rfl
@[simp] theorem modGroup_trigs : (s.modGroup k f).trigs = s.trigs := rfl
@[simp] theorem modGroup_linksDown : (s.modGroup k f).linksDown = s.linksDown := rfl
@[simp] theorem modGroup_chipBudget : (s.modGroup k f).chipBudget = s.chipBudget := rfl
@[simp] theorem modGroup_rounds : (s.modGroup k f).rounds = s.rounds := rfl
@[simp] theorem modGroup_resetClock : (s.modGroup k f).resetClock = s.resetClock := rfl
@[simp] theorem modGroup_bps : (s.modGroup k f).bps = s.bps := rfl
@[simp] theorem modGroup_wps : (s.modGroup k f).wps = s.wps := rfl
@[simp] theorem modGroup_progBuf : (s.modGroup k f).progBuf = s.progBuf := rfl
@[simp] theorem modGroup_mailbox : (s.modGroup k f).mailbox = s.mailbox := rfl
@[simp] theorem modGroup_stuff : (s.modGroup k f).stuff = s.stuff := rfl
@[simp] theorem modGroup_stepping : (s.modGroup k f).stepping = s.stepping := rfl
@[simp] theorem modGroup_prof : (s.modGroup k f).prof = s.prof := rfl
@[simp] theorem modGroup_thermTrip : (s.modGroup k f).thermTrip = s.thermTrip := rfl
@[simp] theorem modGroup_firmware : (s.modGroup k f).firmware = s.firmware := rfl
end

section
variable (k : Nat) (f : Block → Block)

@[simp] theorem modBlock_agenda : (s.modBlock k f).agenda = s.agenda := rfl
@[simp] theorem modBlock_issue : (s.modBlock k f).issue = s.issue := rfl
@[simp] theorem modBlock_free : (s.modBlock k f).free = s.free := rfl
@[simp] theorem modBlock_nextId : (s.modBlock k f).nextId = s.nextId := rfl
@[simp] theorem modBlock_clock : (s.modBlock k f).clock = s.clock := rfl
@[simp] theorem modBlock_issued : (s.modBlock k f).issued = s.issued := rfl
@[simp] theorem modBlock_tried : (s.modBlock k f).tried = s.tried := rfl
@[simp] theorem modBlock_admitted : (s.modBlock k f).admitted = s.admitted := rfl
@[simp] theorem modBlock_gtsBase : (s.modBlock k f).gtsBase = s.gtsBase := rfl
@[simp] theorem modBlock_mem : (s.modBlock k f).mem = s.mem := rfl
@[simp] theorem modBlock_hostMem : (s.modBlock k f).hostMem = s.hostMem := rfl
@[simp] theorem modBlock_peerMem : (s.modBlock k f).peerMem = s.peerMem := rfl
@[simp] theorem modBlock_peerBad : (s.modBlock k f).peerBad = s.peerBad := rfl
@[simp] theorem modBlock_peerSays : (s.modBlock k f).peerSays = s.peerSays := rfl
@[simp] theorem modBlock_peerNews : (s.modBlock k f).peerNews = s.peerNews := rfl
@[simp] theorem modBlock_peerAsked : (s.modBlock k f).peerAsked = s.peerAsked := rfl
@[simp] theorem modBlock_llc : (s.modBlock k f).llc = s.llc := rfl
@[simp] theorem modBlock_pins : (s.modBlock k f).pins = s.pins := rfl
@[simp] theorem modBlock_poison : (s.modBlock k f).poison = s.poison := rfl
@[simp] theorem modBlock_poisonCode : (s.modBlock k f).poisonCode = s.poisonCode := rfl
@[simp] theorem modBlock_sealed : (s.modBlock k f).sealed = s.sealed := rfl
@[simp] theorem modBlock_tlb : (s.modBlock k f).tlb = s.tlb := rfl
@[simp] theorem modBlock_cores : (s.modBlock k f).cores = s.cores := rfl
@[simp] theorem modBlock_groups : (s.modBlock k f).groups = s.groups := rfl
@[simp] theorem modBlock_blocks : (s.modBlock k f).blocks = updateBy Block.bid k f s.blocks := rfl
@[simp] theorem modBlock_batches : (s.modBlock k f).batches = s.batches := rfl
@[simp] theorem modBlock_contexts : (s.modBlock k f).contexts = s.contexts := rfl
@[simp] theorem modBlock_objects : (s.modBlock k f).objects = s.objects := rfl
@[simp] theorem modBlock_slotCounts : (s.modBlock k f).slotCounts = s.slotCounts := rfl
@[simp] theorem modBlock_queues : (s.modBlock k f).queues = s.queues := rfl
@[simp] theorem modBlock_channels : (s.modBlock k f).channels = s.channels := rfl
@[simp] theorem modBlock_launches : (s.modBlock k f).launches = s.launches := rfl
@[simp] theorem modBlock_rasters : (s.modBlock k f).rasters = s.rasters := rfl
@[simp] theorem modBlock_pipes : (s.modBlock k f).pipes = s.pipes := rfl
@[simp] theorem modBlock_conts : (s.modBlock k f).conts = s.conts := rfl
@[simp] theorem modBlock_counters : (s.modBlock k f).counters = s.counters := rfl
@[simp] theorem modBlock_faults : (s.modBlock k f).faults = s.faults := rfl
@[simp] theorem modBlock_heldPeers : (s.modBlock k f).heldPeers = s.heldPeers := rfl
@[simp] theorem modBlock_parks : (s.modBlock k f).parks = s.parks := rfl
@[simp] theorem modBlock_images : (s.modBlock k f).images = s.images := rfl
@[simp] theorem modBlock_jobs : (s.modBlock k f).jobs = s.jobs := rfl
@[simp] theorem modBlock_host : (s.modBlock k f).host = s.host := rfl
@[simp] theorem modBlock_hostCmd : (s.modBlock k f).hostCmd = s.hostCmd := rfl
@[simp] theorem modBlock_msix : (s.modBlock k f).msix = s.msix := rfl
@[simp] theorem modBlock_errlog : (s.modBlock k f).errlog = s.errlog := rfl
@[simp] theorem modBlock_secnt : (s.modBlock k f).secnt = s.secnt := rfl
@[simp] theorem modBlock_outbox : (s.modBlock k f).outbox = s.outbox := rfl
@[simp] theorem modBlock_hostData : (s.modBlock k f).hostData = s.hostData := rfl
@[simp] theorem modBlock_trigs : (s.modBlock k f).trigs = s.trigs := rfl
@[simp] theorem modBlock_linksDown : (s.modBlock k f).linksDown = s.linksDown := rfl
@[simp] theorem modBlock_chipBudget : (s.modBlock k f).chipBudget = s.chipBudget := rfl
@[simp] theorem modBlock_rounds : (s.modBlock k f).rounds = s.rounds := rfl
@[simp] theorem modBlock_resetClock : (s.modBlock k f).resetClock = s.resetClock := rfl
@[simp] theorem modBlock_bps : (s.modBlock k f).bps = s.bps := rfl
@[simp] theorem modBlock_wps : (s.modBlock k f).wps = s.wps := rfl
@[simp] theorem modBlock_progBuf : (s.modBlock k f).progBuf = s.progBuf := rfl
@[simp] theorem modBlock_mailbox : (s.modBlock k f).mailbox = s.mailbox := rfl
@[simp] theorem modBlock_stuff : (s.modBlock k f).stuff = s.stuff := rfl
@[simp] theorem modBlock_stepping : (s.modBlock k f).stepping = s.stepping := rfl
@[simp] theorem modBlock_prof : (s.modBlock k f).prof = s.prof := rfl
@[simp] theorem modBlock_thermTrip : (s.modBlock k f).thermTrip = s.thermTrip := rfl
@[simp] theorem modBlock_firmware : (s.modBlock k f).firmware = s.firmware := rfl
end

section
variable (k : Nat) (f : Core → Core)

@[simp] theorem modCore_agenda : (s.modCore k f).agenda = s.agenda := rfl
@[simp] theorem modCore_issue : (s.modCore k f).issue = s.issue := rfl
@[simp] theorem modCore_free : (s.modCore k f).free = s.free := rfl
@[simp] theorem modCore_nextId : (s.modCore k f).nextId = s.nextId := rfl
@[simp] theorem modCore_clock : (s.modCore k f).clock = s.clock := rfl
@[simp] theorem modCore_issued : (s.modCore k f).issued = s.issued := rfl
@[simp] theorem modCore_tried : (s.modCore k f).tried = s.tried := rfl
@[simp] theorem modCore_admitted : (s.modCore k f).admitted = s.admitted := rfl
@[simp] theorem modCore_gtsBase : (s.modCore k f).gtsBase = s.gtsBase := rfl
@[simp] theorem modCore_mem : (s.modCore k f).mem = s.mem := rfl
@[simp] theorem modCore_hostMem : (s.modCore k f).hostMem = s.hostMem := rfl
@[simp] theorem modCore_peerMem : (s.modCore k f).peerMem = s.peerMem := rfl
@[simp] theorem modCore_peerBad : (s.modCore k f).peerBad = s.peerBad := rfl
@[simp] theorem modCore_peerSays : (s.modCore k f).peerSays = s.peerSays := rfl
@[simp] theorem modCore_peerNews : (s.modCore k f).peerNews = s.peerNews := rfl
@[simp] theorem modCore_peerAsked : (s.modCore k f).peerAsked = s.peerAsked := rfl
@[simp] theorem modCore_llc : (s.modCore k f).llc = s.llc := rfl
@[simp] theorem modCore_pins : (s.modCore k f).pins = s.pins := rfl
@[simp] theorem modCore_poison : (s.modCore k f).poison = s.poison := rfl
@[simp] theorem modCore_poisonCode : (s.modCore k f).poisonCode = s.poisonCode := rfl
@[simp] theorem modCore_sealed : (s.modCore k f).sealed = s.sealed := rfl
@[simp] theorem modCore_tlb : (s.modCore k f).tlb = s.tlb := rfl
@[simp] theorem modCore_cores : (s.modCore k f).cores = updateBy Core.core k f s.cores := rfl
@[simp] theorem modCore_groups : (s.modCore k f).groups = s.groups := rfl
@[simp] theorem modCore_blocks : (s.modCore k f).blocks = s.blocks := rfl
@[simp] theorem modCore_batches : (s.modCore k f).batches = s.batches := rfl
@[simp] theorem modCore_contexts : (s.modCore k f).contexts = s.contexts := rfl
@[simp] theorem modCore_objects : (s.modCore k f).objects = s.objects := rfl
@[simp] theorem modCore_slotCounts : (s.modCore k f).slotCounts = s.slotCounts := rfl
@[simp] theorem modCore_queues : (s.modCore k f).queues = s.queues := rfl
@[simp] theorem modCore_channels : (s.modCore k f).channels = s.channels := rfl
@[simp] theorem modCore_launches : (s.modCore k f).launches = s.launches := rfl
@[simp] theorem modCore_rasters : (s.modCore k f).rasters = s.rasters := rfl
@[simp] theorem modCore_pipes : (s.modCore k f).pipes = s.pipes := rfl
@[simp] theorem modCore_conts : (s.modCore k f).conts = s.conts := rfl
@[simp] theorem modCore_counters : (s.modCore k f).counters = s.counters := rfl
@[simp] theorem modCore_faults : (s.modCore k f).faults = s.faults := rfl
@[simp] theorem modCore_heldPeers : (s.modCore k f).heldPeers = s.heldPeers := rfl
@[simp] theorem modCore_parks : (s.modCore k f).parks = s.parks := rfl
@[simp] theorem modCore_images : (s.modCore k f).images = s.images := rfl
@[simp] theorem modCore_jobs : (s.modCore k f).jobs = s.jobs := rfl
@[simp] theorem modCore_host : (s.modCore k f).host = s.host := rfl
@[simp] theorem modCore_hostCmd : (s.modCore k f).hostCmd = s.hostCmd := rfl
@[simp] theorem modCore_msix : (s.modCore k f).msix = s.msix := rfl
@[simp] theorem modCore_errlog : (s.modCore k f).errlog = s.errlog := rfl
@[simp] theorem modCore_secnt : (s.modCore k f).secnt = s.secnt := rfl
@[simp] theorem modCore_outbox : (s.modCore k f).outbox = s.outbox := rfl
@[simp] theorem modCore_hostData : (s.modCore k f).hostData = s.hostData := rfl
@[simp] theorem modCore_trigs : (s.modCore k f).trigs = s.trigs := rfl
@[simp] theorem modCore_linksDown : (s.modCore k f).linksDown = s.linksDown := rfl
@[simp] theorem modCore_chipBudget : (s.modCore k f).chipBudget = s.chipBudget := rfl
@[simp] theorem modCore_rounds : (s.modCore k f).rounds = s.rounds := rfl
@[simp] theorem modCore_resetClock : (s.modCore k f).resetClock = s.resetClock := rfl
@[simp] theorem modCore_bps : (s.modCore k f).bps = s.bps := rfl
@[simp] theorem modCore_wps : (s.modCore k f).wps = s.wps := rfl
@[simp] theorem modCore_progBuf : (s.modCore k f).progBuf = s.progBuf := rfl
@[simp] theorem modCore_mailbox : (s.modCore k f).mailbox = s.mailbox := rfl
@[simp] theorem modCore_stuff : (s.modCore k f).stuff = s.stuff := rfl
@[simp] theorem modCore_stepping : (s.modCore k f).stepping = s.stepping := rfl
@[simp] theorem modCore_prof : (s.modCore k f).prof = s.prof := rfl
@[simp] theorem modCore_thermTrip : (s.modCore k f).thermTrip = s.thermTrip := rfl
@[simp] theorem modCore_firmware : (s.modCore k f).firmware = s.firmware := rfl
end

section
variable (k : Nat) (f : Batch → Batch)

@[simp] theorem modBatch_agenda : (s.modBatch k f).agenda = s.agenda := rfl
@[simp] theorem modBatch_issue : (s.modBatch k f).issue = s.issue := rfl
@[simp] theorem modBatch_free : (s.modBatch k f).free = s.free := rfl
@[simp] theorem modBatch_nextId : (s.modBatch k f).nextId = s.nextId := rfl
@[simp] theorem modBatch_clock : (s.modBatch k f).clock = s.clock := rfl
@[simp] theorem modBatch_issued : (s.modBatch k f).issued = s.issued := rfl
@[simp] theorem modBatch_tried : (s.modBatch k f).tried = s.tried := rfl
@[simp] theorem modBatch_admitted : (s.modBatch k f).admitted = s.admitted := rfl
@[simp] theorem modBatch_gtsBase : (s.modBatch k f).gtsBase = s.gtsBase := rfl
@[simp] theorem modBatch_mem : (s.modBatch k f).mem = s.mem := rfl
@[simp] theorem modBatch_hostMem : (s.modBatch k f).hostMem = s.hostMem := rfl
@[simp] theorem modBatch_peerMem : (s.modBatch k f).peerMem = s.peerMem := rfl
@[simp] theorem modBatch_peerBad : (s.modBatch k f).peerBad = s.peerBad := rfl
@[simp] theorem modBatch_peerSays : (s.modBatch k f).peerSays = s.peerSays := rfl
@[simp] theorem modBatch_peerNews : (s.modBatch k f).peerNews = s.peerNews := rfl
@[simp] theorem modBatch_peerAsked : (s.modBatch k f).peerAsked = s.peerAsked := rfl
@[simp] theorem modBatch_llc : (s.modBatch k f).llc = s.llc := rfl
@[simp] theorem modBatch_pins : (s.modBatch k f).pins = s.pins := rfl
@[simp] theorem modBatch_poison : (s.modBatch k f).poison = s.poison := rfl
@[simp] theorem modBatch_poisonCode : (s.modBatch k f).poisonCode = s.poisonCode := rfl
@[simp] theorem modBatch_sealed : (s.modBatch k f).sealed = s.sealed := rfl
@[simp] theorem modBatch_tlb : (s.modBatch k f).tlb = s.tlb := rfl
@[simp] theorem modBatch_cores : (s.modBatch k f).cores = s.cores := rfl
@[simp] theorem modBatch_groups : (s.modBatch k f).groups = s.groups := rfl
@[simp] theorem modBatch_blocks : (s.modBatch k f).blocks = s.blocks := rfl
@[simp] theorem modBatch_batches : (s.modBatch k f).batches = updateBy Batch.id k f s.batches := rfl
@[simp] theorem modBatch_contexts : (s.modBatch k f).contexts = s.contexts := rfl
@[simp] theorem modBatch_objects : (s.modBatch k f).objects = s.objects := rfl
@[simp] theorem modBatch_slotCounts : (s.modBatch k f).slotCounts = s.slotCounts := rfl
@[simp] theorem modBatch_queues : (s.modBatch k f).queues = s.queues := rfl
@[simp] theorem modBatch_channels : (s.modBatch k f).channels = s.channels := rfl
@[simp] theorem modBatch_launches : (s.modBatch k f).launches = s.launches := rfl
@[simp] theorem modBatch_rasters : (s.modBatch k f).rasters = s.rasters := rfl
@[simp] theorem modBatch_pipes : (s.modBatch k f).pipes = s.pipes := rfl
@[simp] theorem modBatch_conts : (s.modBatch k f).conts = s.conts := rfl
@[simp] theorem modBatch_counters : (s.modBatch k f).counters = s.counters := rfl
@[simp] theorem modBatch_faults : (s.modBatch k f).faults = s.faults := rfl
@[simp] theorem modBatch_heldPeers : (s.modBatch k f).heldPeers = s.heldPeers := rfl
@[simp] theorem modBatch_parks : (s.modBatch k f).parks = s.parks := rfl
@[simp] theorem modBatch_images : (s.modBatch k f).images = s.images := rfl
@[simp] theorem modBatch_jobs : (s.modBatch k f).jobs = s.jobs := rfl
@[simp] theorem modBatch_host : (s.modBatch k f).host = s.host := rfl
@[simp] theorem modBatch_hostCmd : (s.modBatch k f).hostCmd = s.hostCmd := rfl
@[simp] theorem modBatch_msix : (s.modBatch k f).msix = s.msix := rfl
@[simp] theorem modBatch_errlog : (s.modBatch k f).errlog = s.errlog := rfl
@[simp] theorem modBatch_secnt : (s.modBatch k f).secnt = s.secnt := rfl
@[simp] theorem modBatch_outbox : (s.modBatch k f).outbox = s.outbox := rfl
@[simp] theorem modBatch_hostData : (s.modBatch k f).hostData = s.hostData := rfl
@[simp] theorem modBatch_trigs : (s.modBatch k f).trigs = s.trigs := rfl
@[simp] theorem modBatch_linksDown : (s.modBatch k f).linksDown = s.linksDown := rfl
@[simp] theorem modBatch_chipBudget : (s.modBatch k f).chipBudget = s.chipBudget := rfl
@[simp] theorem modBatch_rounds : (s.modBatch k f).rounds = s.rounds := rfl
@[simp] theorem modBatch_resetClock : (s.modBatch k f).resetClock = s.resetClock := rfl
@[simp] theorem modBatch_bps : (s.modBatch k f).bps = s.bps := rfl
@[simp] theorem modBatch_wps : (s.modBatch k f).wps = s.wps := rfl
@[simp] theorem modBatch_progBuf : (s.modBatch k f).progBuf = s.progBuf := rfl
@[simp] theorem modBatch_mailbox : (s.modBatch k f).mailbox = s.mailbox := rfl
@[simp] theorem modBatch_stuff : (s.modBatch k f).stuff = s.stuff := rfl
@[simp] theorem modBatch_stepping : (s.modBatch k f).stepping = s.stepping := rfl
@[simp] theorem modBatch_prof : (s.modBatch k f).prof = s.prof := rfl
@[simp] theorem modBatch_thermTrip : (s.modBatch k f).thermTrip = s.thermTrip := rfl
@[simp] theorem modBatch_firmware : (s.modBatch k f).firmware = s.firmware := rfl
end

section
variable (k : Nat) (f : Context → Context)

@[simp] theorem modContext_agenda : (s.modContext k f).agenda = s.agenda := rfl
@[simp] theorem modContext_issue : (s.modContext k f).issue = s.issue := rfl
@[simp] theorem modContext_free : (s.modContext k f).free = s.free := rfl
@[simp] theorem modContext_nextId : (s.modContext k f).nextId = s.nextId := rfl
@[simp] theorem modContext_clock : (s.modContext k f).clock = s.clock := rfl
@[simp] theorem modContext_issued : (s.modContext k f).issued = s.issued := rfl
@[simp] theorem modContext_tried : (s.modContext k f).tried = s.tried := rfl
@[simp] theorem modContext_admitted : (s.modContext k f).admitted = s.admitted := rfl
@[simp] theorem modContext_gtsBase : (s.modContext k f).gtsBase = s.gtsBase := rfl
@[simp] theorem modContext_mem : (s.modContext k f).mem = s.mem := rfl
@[simp] theorem modContext_hostMem : (s.modContext k f).hostMem = s.hostMem := rfl
@[simp] theorem modContext_peerMem : (s.modContext k f).peerMem = s.peerMem := rfl
@[simp] theorem modContext_peerBad : (s.modContext k f).peerBad = s.peerBad := rfl
@[simp] theorem modContext_peerSays : (s.modContext k f).peerSays = s.peerSays := rfl
@[simp] theorem modContext_peerNews : (s.modContext k f).peerNews = s.peerNews := rfl
@[simp] theorem modContext_peerAsked : (s.modContext k f).peerAsked = s.peerAsked := rfl
@[simp] theorem modContext_llc : (s.modContext k f).llc = s.llc := rfl
@[simp] theorem modContext_pins : (s.modContext k f).pins = s.pins := rfl
@[simp] theorem modContext_poison : (s.modContext k f).poison = s.poison := rfl
@[simp] theorem modContext_poisonCode : (s.modContext k f).poisonCode = s.poisonCode := rfl
@[simp] theorem modContext_sealed : (s.modContext k f).sealed = s.sealed := rfl
@[simp] theorem modContext_tlb : (s.modContext k f).tlb = s.tlb := rfl
@[simp] theorem modContext_cores : (s.modContext k f).cores = s.cores := rfl
@[simp] theorem modContext_groups : (s.modContext k f).groups = s.groups := rfl
@[simp] theorem modContext_blocks : (s.modContext k f).blocks = s.blocks := rfl
@[simp] theorem modContext_batches : (s.modContext k f).batches = s.batches := rfl
@[simp] theorem modContext_contexts : (s.modContext k f).contexts = updateBy Context.ctx k f s.contexts := rfl
@[simp] theorem modContext_objects : (s.modContext k f).objects = s.objects := rfl
@[simp] theorem modContext_slotCounts : (s.modContext k f).slotCounts = s.slotCounts := rfl
@[simp] theorem modContext_queues : (s.modContext k f).queues = s.queues := rfl
@[simp] theorem modContext_channels : (s.modContext k f).channels = s.channels := rfl
@[simp] theorem modContext_launches : (s.modContext k f).launches = s.launches := rfl
@[simp] theorem modContext_rasters : (s.modContext k f).rasters = s.rasters := rfl
@[simp] theorem modContext_pipes : (s.modContext k f).pipes = s.pipes := rfl
@[simp] theorem modContext_conts : (s.modContext k f).conts = s.conts := rfl
@[simp] theorem modContext_counters : (s.modContext k f).counters = s.counters := rfl
@[simp] theorem modContext_faults : (s.modContext k f).faults = s.faults := rfl
@[simp] theorem modContext_heldPeers : (s.modContext k f).heldPeers = s.heldPeers := rfl
@[simp] theorem modContext_parks : (s.modContext k f).parks = s.parks := rfl
@[simp] theorem modContext_images : (s.modContext k f).images = s.images := rfl
@[simp] theorem modContext_jobs : (s.modContext k f).jobs = s.jobs := rfl
@[simp] theorem modContext_host : (s.modContext k f).host = s.host := rfl
@[simp] theorem modContext_hostCmd : (s.modContext k f).hostCmd = s.hostCmd := rfl
@[simp] theorem modContext_msix : (s.modContext k f).msix = s.msix := rfl
@[simp] theorem modContext_errlog : (s.modContext k f).errlog = s.errlog := rfl
@[simp] theorem modContext_secnt : (s.modContext k f).secnt = s.secnt := rfl
@[simp] theorem modContext_outbox : (s.modContext k f).outbox = s.outbox := rfl
@[simp] theorem modContext_hostData : (s.modContext k f).hostData = s.hostData := rfl
@[simp] theorem modContext_trigs : (s.modContext k f).trigs = s.trigs := rfl
@[simp] theorem modContext_linksDown : (s.modContext k f).linksDown = s.linksDown := rfl
@[simp] theorem modContext_chipBudget : (s.modContext k f).chipBudget = s.chipBudget := rfl
@[simp] theorem modContext_rounds : (s.modContext k f).rounds = s.rounds := rfl
@[simp] theorem modContext_resetClock : (s.modContext k f).resetClock = s.resetClock := rfl
@[simp] theorem modContext_bps : (s.modContext k f).bps = s.bps := rfl
@[simp] theorem modContext_wps : (s.modContext k f).wps = s.wps := rfl
@[simp] theorem modContext_progBuf : (s.modContext k f).progBuf = s.progBuf := rfl
@[simp] theorem modContext_mailbox : (s.modContext k f).mailbox = s.mailbox := rfl
@[simp] theorem modContext_stuff : (s.modContext k f).stuff = s.stuff := rfl
@[simp] theorem modContext_stepping : (s.modContext k f).stepping = s.stepping := rfl
@[simp] theorem modContext_prof : (s.modContext k f).prof = s.prof := rfl
@[simp] theorem modContext_thermTrip : (s.modContext k f).thermTrip = s.thermTrip := rfl
@[simp] theorem modContext_firmware : (s.modContext k f).firmware = s.firmware := rfl
end

section
variable (k : Nat) (f : Launch → Launch)

@[simp] theorem modLaunch_agenda : (s.modLaunch k f).agenda = s.agenda := rfl
@[simp] theorem modLaunch_issue : (s.modLaunch k f).issue = s.issue := rfl
@[simp] theorem modLaunch_free : (s.modLaunch k f).free = s.free := rfl
@[simp] theorem modLaunch_nextId : (s.modLaunch k f).nextId = s.nextId := rfl
@[simp] theorem modLaunch_clock : (s.modLaunch k f).clock = s.clock := rfl
@[simp] theorem modLaunch_issued : (s.modLaunch k f).issued = s.issued := rfl
@[simp] theorem modLaunch_tried : (s.modLaunch k f).tried = s.tried := rfl
@[simp] theorem modLaunch_admitted : (s.modLaunch k f).admitted = s.admitted := rfl
@[simp] theorem modLaunch_gtsBase : (s.modLaunch k f).gtsBase = s.gtsBase := rfl
@[simp] theorem modLaunch_mem : (s.modLaunch k f).mem = s.mem := rfl
@[simp] theorem modLaunch_hostMem : (s.modLaunch k f).hostMem = s.hostMem := rfl
@[simp] theorem modLaunch_peerMem : (s.modLaunch k f).peerMem = s.peerMem := rfl
@[simp] theorem modLaunch_peerBad : (s.modLaunch k f).peerBad = s.peerBad := rfl
@[simp] theorem modLaunch_peerSays : (s.modLaunch k f).peerSays = s.peerSays := rfl
@[simp] theorem modLaunch_peerNews : (s.modLaunch k f).peerNews = s.peerNews := rfl
@[simp] theorem modLaunch_peerAsked : (s.modLaunch k f).peerAsked = s.peerAsked := rfl
@[simp] theorem modLaunch_llc : (s.modLaunch k f).llc = s.llc := rfl
@[simp] theorem modLaunch_pins : (s.modLaunch k f).pins = s.pins := rfl
@[simp] theorem modLaunch_poison : (s.modLaunch k f).poison = s.poison := rfl
@[simp] theorem modLaunch_poisonCode : (s.modLaunch k f).poisonCode = s.poisonCode := rfl
@[simp] theorem modLaunch_sealed : (s.modLaunch k f).sealed = s.sealed := rfl
@[simp] theorem modLaunch_tlb : (s.modLaunch k f).tlb = s.tlb := rfl
@[simp] theorem modLaunch_cores : (s.modLaunch k f).cores = s.cores := rfl
@[simp] theorem modLaunch_groups : (s.modLaunch k f).groups = s.groups := rfl
@[simp] theorem modLaunch_blocks : (s.modLaunch k f).blocks = s.blocks := rfl
@[simp] theorem modLaunch_batches : (s.modLaunch k f).batches = s.batches := rfl
@[simp] theorem modLaunch_contexts : (s.modLaunch k f).contexts = s.contexts := rfl
@[simp] theorem modLaunch_objects : (s.modLaunch k f).objects = s.objects := rfl
@[simp] theorem modLaunch_slotCounts : (s.modLaunch k f).slotCounts = s.slotCounts := rfl
@[simp] theorem modLaunch_queues : (s.modLaunch k f).queues = s.queues := rfl
@[simp] theorem modLaunch_channels : (s.modLaunch k f).channels = s.channels := rfl
@[simp] theorem modLaunch_launches : (s.modLaunch k f).launches = updateBy Launch.lid k f s.launches := rfl
@[simp] theorem modLaunch_rasters : (s.modLaunch k f).rasters = s.rasters := rfl
@[simp] theorem modLaunch_pipes : (s.modLaunch k f).pipes = s.pipes := rfl
@[simp] theorem modLaunch_conts : (s.modLaunch k f).conts = s.conts := rfl
@[simp] theorem modLaunch_counters : (s.modLaunch k f).counters = s.counters := rfl
@[simp] theorem modLaunch_faults : (s.modLaunch k f).faults = s.faults := rfl
@[simp] theorem modLaunch_heldPeers : (s.modLaunch k f).heldPeers = s.heldPeers := rfl
@[simp] theorem modLaunch_parks : (s.modLaunch k f).parks = s.parks := rfl
@[simp] theorem modLaunch_images : (s.modLaunch k f).images = s.images := rfl
@[simp] theorem modLaunch_jobs : (s.modLaunch k f).jobs = s.jobs := rfl
@[simp] theorem modLaunch_host : (s.modLaunch k f).host = s.host := rfl
@[simp] theorem modLaunch_hostCmd : (s.modLaunch k f).hostCmd = s.hostCmd := rfl
@[simp] theorem modLaunch_msix : (s.modLaunch k f).msix = s.msix := rfl
@[simp] theorem modLaunch_errlog : (s.modLaunch k f).errlog = s.errlog := rfl
@[simp] theorem modLaunch_secnt : (s.modLaunch k f).secnt = s.secnt := rfl
@[simp] theorem modLaunch_outbox : (s.modLaunch k f).outbox = s.outbox := rfl
@[simp] theorem modLaunch_hostData : (s.modLaunch k f).hostData = s.hostData := rfl
@[simp] theorem modLaunch_trigs : (s.modLaunch k f).trigs = s.trigs := rfl
@[simp] theorem modLaunch_linksDown : (s.modLaunch k f).linksDown = s.linksDown := rfl
@[simp] theorem modLaunch_chipBudget : (s.modLaunch k f).chipBudget = s.chipBudget := rfl
@[simp] theorem modLaunch_rounds : (s.modLaunch k f).rounds = s.rounds := rfl
@[simp] theorem modLaunch_resetClock : (s.modLaunch k f).resetClock = s.resetClock := rfl
@[simp] theorem modLaunch_bps : (s.modLaunch k f).bps = s.bps := rfl
@[simp] theorem modLaunch_wps : (s.modLaunch k f).wps = s.wps := rfl
@[simp] theorem modLaunch_progBuf : (s.modLaunch k f).progBuf = s.progBuf := rfl
@[simp] theorem modLaunch_mailbox : (s.modLaunch k f).mailbox = s.mailbox := rfl
@[simp] theorem modLaunch_stuff : (s.modLaunch k f).stuff = s.stuff := rfl
@[simp] theorem modLaunch_stepping : (s.modLaunch k f).stepping = s.stepping := rfl
@[simp] theorem modLaunch_prof : (s.modLaunch k f).prof = s.prof := rfl
@[simp] theorem modLaunch_thermTrip : (s.modLaunch k f).thermTrip = s.thermTrip := rfl
@[simp] theorem modLaunch_firmware : (s.modLaunch k f).firmware = s.firmware := rfl
end

section
variable (k l : Nat) (f : Fibre → Fibre)

@[simp] theorem modFibre_agenda : (s.modFibre k l f).agenda = s.agenda := rfl
@[simp] theorem modFibre_issue : (s.modFibre k l f).issue = s.issue := rfl
@[simp] theorem modFibre_free : (s.modFibre k l f).free = s.free := rfl
@[simp] theorem modFibre_nextId : (s.modFibre k l f).nextId = s.nextId := rfl
@[simp] theorem modFibre_clock : (s.modFibre k l f).clock = s.clock := rfl
@[simp] theorem modFibre_issued : (s.modFibre k l f).issued = s.issued := rfl
@[simp] theorem modFibre_tried : (s.modFibre k l f).tried = s.tried := rfl
@[simp] theorem modFibre_admitted : (s.modFibre k l f).admitted = s.admitted := rfl
@[simp] theorem modFibre_gtsBase : (s.modFibre k l f).gtsBase = s.gtsBase := rfl
@[simp] theorem modFibre_mem : (s.modFibre k l f).mem = s.mem := rfl
@[simp] theorem modFibre_hostMem : (s.modFibre k l f).hostMem = s.hostMem := rfl
@[simp] theorem modFibre_peerMem : (s.modFibre k l f).peerMem = s.peerMem := rfl
@[simp] theorem modFibre_peerBad : (s.modFibre k l f).peerBad = s.peerBad := rfl
@[simp] theorem modFibre_peerSays : (s.modFibre k l f).peerSays = s.peerSays := rfl
@[simp] theorem modFibre_peerNews : (s.modFibre k l f).peerNews = s.peerNews := rfl
@[simp] theorem modFibre_peerAsked : (s.modFibre k l f).peerAsked = s.peerAsked := rfl
@[simp] theorem modFibre_llc : (s.modFibre k l f).llc = s.llc := rfl
@[simp] theorem modFibre_pins : (s.modFibre k l f).pins = s.pins := rfl
@[simp] theorem modFibre_poison : (s.modFibre k l f).poison = s.poison := rfl
@[simp] theorem modFibre_poisonCode : (s.modFibre k l f).poisonCode = s.poisonCode := rfl
@[simp] theorem modFibre_sealed : (s.modFibre k l f).sealed = s.sealed := rfl
@[simp] theorem modFibre_tlb : (s.modFibre k l f).tlb = s.tlb := rfl
@[simp] theorem modFibre_cores : (s.modFibre k l f).cores = s.cores := rfl
@[simp] theorem modFibre_groups : (s.modFibre k l f).groups = updateBy Group.gid k (fun g => g.modFibre l f) s.groups := rfl
@[simp] theorem modFibre_blocks : (s.modFibre k l f).blocks = s.blocks := rfl
@[simp] theorem modFibre_batches : (s.modFibre k l f).batches = s.batches := rfl
@[simp] theorem modFibre_contexts : (s.modFibre k l f).contexts = s.contexts := rfl
@[simp] theorem modFibre_objects : (s.modFibre k l f).objects = s.objects := rfl
@[simp] theorem modFibre_slotCounts : (s.modFibre k l f).slotCounts = s.slotCounts := rfl
@[simp] theorem modFibre_queues : (s.modFibre k l f).queues = s.queues := rfl
@[simp] theorem modFibre_channels : (s.modFibre k l f).channels = s.channels := rfl
@[simp] theorem modFibre_launches : (s.modFibre k l f).launches = s.launches := rfl
@[simp] theorem modFibre_rasters : (s.modFibre k l f).rasters = s.rasters := rfl
@[simp] theorem modFibre_pipes : (s.modFibre k l f).pipes = s.pipes := rfl
@[simp] theorem modFibre_conts : (s.modFibre k l f).conts = s.conts := rfl
@[simp] theorem modFibre_counters : (s.modFibre k l f).counters = s.counters := rfl
@[simp] theorem modFibre_faults : (s.modFibre k l f).faults = s.faults := rfl
@[simp] theorem modFibre_heldPeers : (s.modFibre k l f).heldPeers = s.heldPeers := rfl
@[simp] theorem modFibre_parks : (s.modFibre k l f).parks = s.parks := rfl
@[simp] theorem modFibre_images : (s.modFibre k l f).images = s.images := rfl
@[simp] theorem modFibre_jobs : (s.modFibre k l f).jobs = s.jobs := rfl
@[simp] theorem modFibre_host : (s.modFibre k l f).host = s.host := rfl
@[simp] theorem modFibre_hostCmd : (s.modFibre k l f).hostCmd = s.hostCmd := rfl
@[simp] theorem modFibre_msix : (s.modFibre k l f).msix = s.msix := rfl
@[simp] theorem modFibre_errlog : (s.modFibre k l f).errlog = s.errlog := rfl
@[simp] theorem modFibre_secnt : (s.modFibre k l f).secnt = s.secnt := rfl
@[simp] theorem modFibre_outbox : (s.modFibre k l f).outbox = s.outbox := rfl
@[simp] theorem modFibre_hostData : (s.modFibre k l f).hostData = s.hostData := rfl
@[simp] theorem modFibre_trigs : (s.modFibre k l f).trigs = s.trigs := rfl
@[simp] theorem modFibre_linksDown : (s.modFibre k l f).linksDown = s.linksDown := rfl
@[simp] theorem modFibre_chipBudget : (s.modFibre k l f).chipBudget = s.chipBudget := rfl
@[simp] theorem modFibre_rounds : (s.modFibre k l f).rounds = s.rounds := rfl
@[simp] theorem modFibre_resetClock : (s.modFibre k l f).resetClock = s.resetClock := rfl
@[simp] theorem modFibre_bps : (s.modFibre k l f).bps = s.bps := rfl
@[simp] theorem modFibre_wps : (s.modFibre k l f).wps = s.wps := rfl
@[simp] theorem modFibre_progBuf : (s.modFibre k l f).progBuf = s.progBuf := rfl
@[simp] theorem modFibre_mailbox : (s.modFibre k l f).mailbox = s.mailbox := rfl
@[simp] theorem modFibre_stuff : (s.modFibre k l f).stuff = s.stuff := rfl
@[simp] theorem modFibre_stepping : (s.modFibre k l f).stepping = s.stepping := rfl
@[simp] theorem modFibre_prof : (s.modFibre k l f).prof = s.prof := rfl
@[simp] theorem modFibre_thermTrip : (s.modFibre k l f).thermTrip = s.thermTrip := rfl
@[simp] theorem modFibre_firmware : (s.modFibre k l f).firmware = s.firmware := rfl
end


@[simp] theorem fresh_agenda : s.fresh.2.agenda = s.agenda := rfl
@[simp] theorem fresh_issue : s.fresh.2.issue = s.issue := rfl
@[simp] theorem fresh_free : s.fresh.2.free = s.free := rfl
@[simp] theorem fresh_nextId : s.fresh.2.nextId = s.nextId + 1 := rfl
@[simp] theorem fresh_clock : s.fresh.2.clock = s.clock := rfl
@[simp] theorem fresh_issued : s.fresh.2.issued = s.issued := rfl
@[simp] theorem fresh_tried : s.fresh.2.tried = s.tried := rfl
@[simp] theorem fresh_admitted : s.fresh.2.admitted = s.admitted := rfl
@[simp] theorem fresh_gtsBase : s.fresh.2.gtsBase = s.gtsBase := rfl
@[simp] theorem fresh_mem : s.fresh.2.mem = s.mem := rfl
@[simp] theorem fresh_hostMem : s.fresh.2.hostMem = s.hostMem := rfl
@[simp] theorem fresh_peerMem : s.fresh.2.peerMem = s.peerMem := rfl
@[simp] theorem fresh_peerBad : s.fresh.2.peerBad = s.peerBad := rfl
@[simp] theorem fresh_peerSays : s.fresh.2.peerSays = s.peerSays := rfl
@[simp] theorem fresh_peerNews : s.fresh.2.peerNews = s.peerNews := rfl
@[simp] theorem fresh_peerAsked : s.fresh.2.peerAsked = s.peerAsked := rfl
@[simp] theorem fresh_llc : s.fresh.2.llc = s.llc := rfl
@[simp] theorem fresh_pins : s.fresh.2.pins = s.pins := rfl
@[simp] theorem fresh_poison : s.fresh.2.poison = s.poison := rfl
@[simp] theorem fresh_poisonCode : s.fresh.2.poisonCode = s.poisonCode := rfl
@[simp] theorem fresh_sealed : s.fresh.2.sealed = s.sealed := rfl
@[simp] theorem fresh_tlb : s.fresh.2.tlb = s.tlb := rfl
@[simp] theorem fresh_cores : s.fresh.2.cores = s.cores := rfl
@[simp] theorem fresh_groups : s.fresh.2.groups = s.groups := rfl
@[simp] theorem fresh_blocks : s.fresh.2.blocks = s.blocks := rfl
@[simp] theorem fresh_batches : s.fresh.2.batches = s.batches := rfl
@[simp] theorem fresh_contexts : s.fresh.2.contexts = s.contexts := rfl
@[simp] theorem fresh_objects : s.fresh.2.objects = s.objects := rfl
@[simp] theorem fresh_slotCounts : s.fresh.2.slotCounts = s.slotCounts := rfl
@[simp] theorem fresh_queues : s.fresh.2.queues = s.queues := rfl
@[simp] theorem fresh_channels : s.fresh.2.channels = s.channels := rfl
@[simp] theorem fresh_launches : s.fresh.2.launches = s.launches := rfl
@[simp] theorem fresh_rasters : s.fresh.2.rasters = s.rasters := rfl
@[simp] theorem fresh_pipes : s.fresh.2.pipes = s.pipes := rfl
@[simp] theorem fresh_conts : s.fresh.2.conts = s.conts := rfl
@[simp] theorem fresh_counters : s.fresh.2.counters = s.counters := rfl
@[simp] theorem fresh_faults : s.fresh.2.faults = s.faults := rfl
@[simp] theorem fresh_heldPeers : s.fresh.2.heldPeers = s.heldPeers := rfl
@[simp] theorem fresh_parks : s.fresh.2.parks = s.parks := rfl
@[simp] theorem fresh_images : s.fresh.2.images = s.images := rfl
@[simp] theorem fresh_jobs : s.fresh.2.jobs = s.jobs := rfl
@[simp] theorem fresh_host : s.fresh.2.host = s.host := rfl
@[simp] theorem fresh_hostCmd : s.fresh.2.hostCmd = s.hostCmd := rfl
@[simp] theorem fresh_msix : s.fresh.2.msix = s.msix := rfl
@[simp] theorem fresh_errlog : s.fresh.2.errlog = s.errlog := rfl
@[simp] theorem fresh_secnt : s.fresh.2.secnt = s.secnt := rfl
@[simp] theorem fresh_outbox : s.fresh.2.outbox = s.outbox := rfl
@[simp] theorem fresh_hostData : s.fresh.2.hostData = s.hostData := rfl
@[simp] theorem fresh_trigs : s.fresh.2.trigs = s.trigs := rfl
@[simp] theorem fresh_linksDown : s.fresh.2.linksDown = s.linksDown := rfl
@[simp] theorem fresh_chipBudget : s.fresh.2.chipBudget = s.chipBudget := rfl
@[simp] theorem fresh_rounds : s.fresh.2.rounds = s.rounds := rfl
@[simp] theorem fresh_resetClock : s.fresh.2.resetClock = s.resetClock := rfl
@[simp] theorem fresh_bps : s.fresh.2.bps = s.bps := rfl
@[simp] theorem fresh_wps : s.fresh.2.wps = s.wps := rfl
@[simp] theorem fresh_progBuf : s.fresh.2.progBuf = s.progBuf := rfl
@[simp] theorem fresh_mailbox : s.fresh.2.mailbox = s.mailbox := rfl
@[simp] theorem fresh_stuff : s.fresh.2.stuff = s.stuff := rfl
@[simp] theorem fresh_stepping : s.fresh.2.stepping = s.stepping := rfl
@[simp] theorem fresh_prof : s.fresh.2.prof = s.prof := rfl
@[simp] theorem fresh_thermTrip : s.fresh.2.thermTrip = s.thermTrip := rfl
@[simp] theorem fresh_firmware : s.fresh.2.firmware = s.firmware := rfl


@[simp] theorem unissue_agenda : s.unissue.agenda = s.agenda := rfl
@[simp] theorem unissue_issue : s.unissue.issue = none := rfl
@[simp] theorem unissue_free : s.unissue.free = s.free := rfl
@[simp] theorem unissue_nextId : s.unissue.nextId = s.nextId := rfl
@[simp] theorem unissue_clock : s.unissue.clock = s.clock := rfl
@[simp] theorem unissue_issued : s.unissue.issued = s.issued := rfl
@[simp] theorem unissue_tried : s.unissue.tried = s.tried := rfl
@[simp] theorem unissue_admitted : s.unissue.admitted = s.admitted := rfl
@[simp] theorem unissue_gtsBase : s.unissue.gtsBase = s.gtsBase := rfl
@[simp] theorem unissue_mem : s.unissue.mem = s.mem := rfl
@[simp] theorem unissue_hostMem : s.unissue.hostMem = s.hostMem := rfl
@[simp] theorem unissue_peerMem : s.unissue.peerMem = s.peerMem := rfl
@[simp] theorem unissue_peerBad : s.unissue.peerBad = s.peerBad := rfl
@[simp] theorem unissue_peerSays : s.unissue.peerSays = s.peerSays := rfl
@[simp] theorem unissue_peerNews : s.unissue.peerNews = s.peerNews := rfl
@[simp] theorem unissue_peerAsked : s.unissue.peerAsked = s.peerAsked := rfl
@[simp] theorem unissue_llc : s.unissue.llc = s.llc := rfl
@[simp] theorem unissue_pins : s.unissue.pins = s.pins := rfl
@[simp] theorem unissue_poison : s.unissue.poison = s.poison := rfl
@[simp] theorem unissue_poisonCode : s.unissue.poisonCode = s.poisonCode := rfl
@[simp] theorem unissue_sealed : s.unissue.sealed = s.sealed := rfl
@[simp] theorem unissue_tlb : s.unissue.tlb = s.tlb := rfl
@[simp] theorem unissue_cores : s.unissue.cores = s.cores := rfl
@[simp] theorem unissue_groups : s.unissue.groups = s.groups := rfl
@[simp] theorem unissue_blocks : s.unissue.blocks = s.blocks := rfl
@[simp] theorem unissue_batches : s.unissue.batches = s.batches := rfl
@[simp] theorem unissue_contexts : s.unissue.contexts = s.contexts := rfl
@[simp] theorem unissue_objects : s.unissue.objects = s.objects := rfl
@[simp] theorem unissue_slotCounts : s.unissue.slotCounts = s.slotCounts := rfl
@[simp] theorem unissue_queues : s.unissue.queues = s.queues := rfl
@[simp] theorem unissue_channels : s.unissue.channels = s.channels := rfl
@[simp] theorem unissue_launches : s.unissue.launches = s.launches := rfl
@[simp] theorem unissue_rasters : s.unissue.rasters = s.rasters := rfl
@[simp] theorem unissue_pipes : s.unissue.pipes = s.pipes := rfl
@[simp] theorem unissue_conts : s.unissue.conts = s.conts := rfl
@[simp] theorem unissue_counters : s.unissue.counters = s.counters := rfl
@[simp] theorem unissue_faults : s.unissue.faults = s.faults := rfl
@[simp] theorem unissue_heldPeers : s.unissue.heldPeers = s.heldPeers := rfl
@[simp] theorem unissue_parks : s.unissue.parks = s.parks := rfl
@[simp] theorem unissue_images : s.unissue.images = s.images := rfl
@[simp] theorem unissue_jobs : s.unissue.jobs = s.jobs := rfl
@[simp] theorem unissue_host : s.unissue.host = s.host := rfl
@[simp] theorem unissue_hostCmd : s.unissue.hostCmd = s.hostCmd := rfl
@[simp] theorem unissue_msix : s.unissue.msix = s.msix := rfl
@[simp] theorem unissue_errlog : s.unissue.errlog = s.errlog := rfl
@[simp] theorem unissue_secnt : s.unissue.secnt = s.secnt := rfl
@[simp] theorem unissue_outbox : s.unissue.outbox = s.outbox := rfl
@[simp] theorem unissue_hostData : s.unissue.hostData = s.hostData := rfl
@[simp] theorem unissue_trigs : s.unissue.trigs = s.trigs := rfl
@[simp] theorem unissue_linksDown : s.unissue.linksDown = s.linksDown := rfl
@[simp] theorem unissue_chipBudget : s.unissue.chipBudget = s.chipBudget := rfl
@[simp] theorem unissue_rounds : s.unissue.rounds = s.rounds := rfl
@[simp] theorem unissue_resetClock : s.unissue.resetClock = s.resetClock := rfl
@[simp] theorem unissue_bps : s.unissue.bps = s.bps := rfl
@[simp] theorem unissue_wps : s.unissue.wps = s.wps := rfl
@[simp] theorem unissue_progBuf : s.unissue.progBuf = s.progBuf := rfl
@[simp] theorem unissue_mailbox : s.unissue.mailbox = s.mailbox := rfl
@[simp] theorem unissue_stuff : s.unissue.stuff = s.stuff := rfl
@[simp] theorem unissue_stepping : s.unissue.stepping = s.stepping := rfl
@[simp] theorem unissue_prof : s.unissue.prof = s.prof := rfl
@[simp] theorem unissue_thermTrip : s.unissue.thermTrip = s.thermTrip := rfl
@[simp] theorem unissue_firmware : s.unissue.firmware = s.firmware := rfl

section
variable (a : Nat) (bs : List Byte)

@[simp] theorem writePa_agenda : (s.writePa a bs).agenda = s.agenda := rfl
@[simp] theorem writePa_issue : (s.writePa a bs).issue = s.issue := rfl
@[simp] theorem writePa_free : (s.writePa a bs).free = s.free := rfl
@[simp] theorem writePa_nextId : (s.writePa a bs).nextId = s.nextId := rfl
@[simp] theorem writePa_clock : (s.writePa a bs).clock = s.clock := rfl
@[simp] theorem writePa_issued : (s.writePa a bs).issued = s.issued := rfl
@[simp] theorem writePa_tried : (s.writePa a bs).tried = s.tried := rfl
@[simp] theorem writePa_admitted : (s.writePa a bs).admitted = s.admitted := rfl
@[simp] theorem writePa_gtsBase : (s.writePa a bs).gtsBase = s.gtsBase := rfl
@[simp] theorem writePa_mem : (s.writePa a bs).mem = Memory.write s.mem a bs := rfl
@[simp] theorem writePa_hostMem : (s.writePa a bs).hostMem = s.hostMem := rfl
@[simp] theorem writePa_peerMem : (s.writePa a bs).peerMem = s.peerMem := rfl
@[simp] theorem writePa_peerBad : (s.writePa a bs).peerBad = s.peerBad := rfl
@[simp] theorem writePa_peerSays : (s.writePa a bs).peerSays = s.peerSays := rfl
@[simp] theorem writePa_peerNews : (s.writePa a bs).peerNews = s.peerNews := rfl
@[simp] theorem writePa_peerAsked : (s.writePa a bs).peerAsked = s.peerAsked := rfl
@[simp] theorem writePa_llc : (s.writePa a bs).llc = s.llc := rfl
@[simp] theorem writePa_pins : (s.writePa a bs).pins = s.pins := rfl
@[simp] theorem writePa_poison : (s.writePa a bs).poison = clearPoison s.poison a bs.length := rfl
@[simp] theorem writePa_poisonCode : (s.writePa a bs).poisonCode = s.poisonCode := rfl
@[simp] theorem writePa_sealed : (s.writePa a bs).sealed = s.sealed := rfl
@[simp] theorem writePa_tlb : (s.writePa a bs).tlb = s.tlb := rfl
@[simp] theorem writePa_cores : (s.writePa a bs).cores = s.cores := rfl
@[simp] theorem writePa_groups : (s.writePa a bs).groups = s.groups := rfl
@[simp] theorem writePa_blocks : (s.writePa a bs).blocks = s.blocks := rfl
@[simp] theorem writePa_batches : (s.writePa a bs).batches = s.batches := rfl
@[simp] theorem writePa_contexts : (s.writePa a bs).contexts = s.contexts := rfl
@[simp] theorem writePa_objects : (s.writePa a bs).objects = s.objects := rfl
@[simp] theorem writePa_slotCounts : (s.writePa a bs).slotCounts = s.slotCounts := rfl
@[simp] theorem writePa_queues : (s.writePa a bs).queues = s.queues := rfl
@[simp] theorem writePa_channels : (s.writePa a bs).channels = s.channels := rfl
@[simp] theorem writePa_launches : (s.writePa a bs).launches = s.launches := rfl
@[simp] theorem writePa_rasters : (s.writePa a bs).rasters = s.rasters := rfl
@[simp] theorem writePa_pipes : (s.writePa a bs).pipes = s.pipes := rfl
@[simp] theorem writePa_conts : (s.writePa a bs).conts = s.conts := rfl
@[simp] theorem writePa_counters : (s.writePa a bs).counters = s.counters := rfl
@[simp] theorem writePa_faults : (s.writePa a bs).faults = s.faults := rfl
@[simp] theorem writePa_heldPeers : (s.writePa a bs).heldPeers = s.heldPeers := rfl
@[simp] theorem writePa_parks : (s.writePa a bs).parks = s.parks := rfl
@[simp] theorem writePa_images : (s.writePa a bs).images = s.images := rfl
@[simp] theorem writePa_jobs : (s.writePa a bs).jobs = s.jobs := rfl
@[simp] theorem writePa_host : (s.writePa a bs).host = s.host := rfl
@[simp] theorem writePa_hostCmd : (s.writePa a bs).hostCmd = s.hostCmd := rfl
@[simp] theorem writePa_msix : (s.writePa a bs).msix = s.msix := rfl
@[simp] theorem writePa_errlog : (s.writePa a bs).errlog = s.errlog := rfl
@[simp] theorem writePa_secnt : (s.writePa a bs).secnt = s.secnt := rfl
@[simp] theorem writePa_outbox : (s.writePa a bs).outbox = s.outbox := rfl
@[simp] theorem writePa_hostData : (s.writePa a bs).hostData = s.hostData := rfl
@[simp] theorem writePa_trigs : (s.writePa a bs).trigs = s.trigs := rfl
@[simp] theorem writePa_linksDown : (s.writePa a bs).linksDown = s.linksDown := rfl
@[simp] theorem writePa_chipBudget : (s.writePa a bs).chipBudget = s.chipBudget := rfl
@[simp] theorem writePa_rounds : (s.writePa a bs).rounds = s.rounds := rfl
@[simp] theorem writePa_resetClock : (s.writePa a bs).resetClock = s.resetClock := rfl
@[simp] theorem writePa_bps : (s.writePa a bs).bps = s.bps := rfl
@[simp] theorem writePa_wps : (s.writePa a bs).wps = s.wps := rfl
@[simp] theorem writePa_progBuf : (s.writePa a bs).progBuf = s.progBuf := rfl
@[simp] theorem writePa_mailbox : (s.writePa a bs).mailbox = s.mailbox := rfl
@[simp] theorem writePa_stuff : (s.writePa a bs).stuff = s.stuff := rfl
@[simp] theorem writePa_stepping : (s.writePa a bs).stepping = s.stepping := rfl
@[simp] theorem writePa_prof : (s.writePa a bs).prof = s.prof := rfl
@[simp] theorem writePa_thermTrip : (s.writePa a bs).thermTrip = s.thermTrip := rfl
@[simp] theorem writePa_firmware : (s.writePa a bs).firmware = s.firmware := rfl
end

@[simp] theorem fresh_fst : s.fresh.1 = s.nextId := rfl

section
variable (k : Nat) (f : Group → Group) (n : Nat)

@[simp] theorem modGroup_block_at : (s.modGroup k f).block? n = s.block? n := rfl
@[simp] theorem modGroup_core_at : (s.modGroup k f).core? n = s.core? n := rfl
@[simp] theorem modGroup_batch_at : (s.modGroup k f).batch? n = s.batch? n := rfl
@[simp] theorem modGroup_context_at : (s.modGroup k f).context? n = s.context? n := rfl
@[simp] theorem modGroup_launch_at : (s.modGroup k f).launch? n = s.launch? n := rfl
end

section
variable (k : Nat) (f : Block → Block) (n : Nat)

@[simp] theorem modBlock_group_at : (s.modBlock k f).group? n = s.group? n := rfl
@[simp] theorem modBlock_core_at : (s.modBlock k f).core? n = s.core? n := rfl
@[simp] theorem modBlock_batch_at : (s.modBlock k f).batch? n = s.batch? n := rfl
@[simp] theorem modBlock_context_at : (s.modBlock k f).context? n = s.context? n := rfl
@[simp] theorem modBlock_launch_at : (s.modBlock k f).launch? n = s.launch? n := rfl
end

section
variable (k : Nat) (f : Core → Core) (n : Nat)

@[simp] theorem modCore_group_at : (s.modCore k f).group? n = s.group? n := rfl
@[simp] theorem modCore_block_at : (s.modCore k f).block? n = s.block? n := rfl
@[simp] theorem modCore_batch_at : (s.modCore k f).batch? n = s.batch? n := rfl
@[simp] theorem modCore_context_at : (s.modCore k f).context? n = s.context? n := rfl
@[simp] theorem modCore_launch_at : (s.modCore k f).launch? n = s.launch? n := rfl
end

section
variable (k : Nat) (f : Batch → Batch) (n : Nat)

@[simp] theorem modBatch_group_at : (s.modBatch k f).group? n = s.group? n := rfl
@[simp] theorem modBatch_block_at : (s.modBatch k f).block? n = s.block? n := rfl
@[simp] theorem modBatch_core_at : (s.modBatch k f).core? n = s.core? n := rfl
@[simp] theorem modBatch_context_at : (s.modBatch k f).context? n = s.context? n := rfl
@[simp] theorem modBatch_launch_at : (s.modBatch k f).launch? n = s.launch? n := rfl
end

section
variable (k : Nat) (f : Context → Context) (n : Nat)

@[simp] theorem modContext_group_at : (s.modContext k f).group? n = s.group? n := rfl
@[simp] theorem modContext_block_at : (s.modContext k f).block? n = s.block? n := rfl
@[simp] theorem modContext_core_at : (s.modContext k f).core? n = s.core? n := rfl
@[simp] theorem modContext_batch_at : (s.modContext k f).batch? n = s.batch? n := rfl
@[simp] theorem modContext_launch_at : (s.modContext k f).launch? n = s.launch? n := rfl
end

section
variable (k : Nat) (f : Launch → Launch) (n : Nat)

@[simp] theorem modLaunch_group_at : (s.modLaunch k f).group? n = s.group? n := rfl
@[simp] theorem modLaunch_block_at : (s.modLaunch k f).block? n = s.block? n := rfl
@[simp] theorem modLaunch_core_at : (s.modLaunch k f).core? n = s.core? n := rfl
@[simp] theorem modLaunch_batch_at : (s.modLaunch k f).batch? n = s.batch? n := rfl
@[simp] theorem modLaunch_context_at : (s.modLaunch k f).context? n = s.context? n := rfl
end

section
variable (k l : Nat) (f : Fibre → Fibre) (n : Nat)

@[simp] theorem modFibre_block_at : (s.modFibre k l f).block? n = s.block? n := rfl
@[simp] theorem modFibre_core_at : (s.modFibre k l f).core? n = s.core? n := rfl
@[simp] theorem modFibre_batch_at : (s.modFibre k l f).batch? n = s.batch? n := rfl
@[simp] theorem modFibre_context_at : (s.modFibre k l f).context? n = s.context? n := rfl
@[simp] theorem modFibre_launch_at : (s.modFibre k l f).launch? n = s.launch? n := rfl
end

section
variable (n : Nat)

@[simp] theorem fresh_group_at : s.fresh.2.group? n = s.group? n := rfl
@[simp] theorem fresh_block_at : s.fresh.2.block? n = s.block? n := rfl
@[simp] theorem fresh_core_at : s.fresh.2.core? n = s.core? n := rfl
@[simp] theorem fresh_batch_at : s.fresh.2.batch? n = s.batch? n := rfl
@[simp] theorem fresh_context_at : s.fresh.2.context? n = s.context? n := rfl
@[simp] theorem fresh_launch_at : s.fresh.2.launch? n = s.launch? n := rfl
end

section
variable (n : Nat)

@[simp] theorem unissue_group_at : s.unissue.group? n = s.group? n := rfl
@[simp] theorem unissue_block_at : s.unissue.block? n = s.block? n := rfl
@[simp] theorem unissue_core_at : s.unissue.core? n = s.core? n := rfl
@[simp] theorem unissue_batch_at : s.unissue.batch? n = s.batch? n := rfl
@[simp] theorem unissue_context_at : s.unissue.context? n = s.context? n := rfl
@[simp] theorem unissue_launch_at : s.unissue.launch? n = s.launch? n := rfl
end

section
variable (a : Nat) (bs : List Byte) (n : Nat)

@[simp] theorem writePa_group_at : (s.writePa a bs).group? n = s.group? n := rfl
@[simp] theorem writePa_block_at : (s.writePa a bs).block? n = s.block? n := rfl
@[simp] theorem writePa_core_at : (s.writePa a bs).core? n = s.core? n := rfl
@[simp] theorem writePa_batch_at : (s.writePa a bs).batch? n = s.batch? n := rfl
@[simp] theorem writePa_context_at : (s.writePa a bs).context? n = s.context? n := rfl
@[simp] theorem writePa_launch_at : (s.writePa a bs).launch? n = s.launch? n := rfl
end

end Sys2Proof.Machine
end

