-- ==== Sys2Proof/Laws/Keyed.lean ====
section
/-! SUPPORT. Tables searched and changed by key, and the lanes of a mask. -/

namespace Sys2Proof.Machine

section
variable {α : Type} (key : α → Nat) (k : Nat)

@[simp] theorem lookupBy_nil : lookupBy key k ([] : List α) = none := rfl

theorem lookupBy_cons (x : α) (l : List α) : lookupBy key k (x :: l) = if key x = k then some x else lookupBy key k l := by
  simp only [lookupBy, List.find?_cons]
  by_cases h : key x = k
  · simp [h]
  · simp [h, beq_false_of_ne h]

/-- What a lookup finds has the key and stands in the table. -/
theorem lookupBy_some {l : List α} {x : α} (h : lookupBy key k l = some x) : key x = k ∧ x ∈ l := by
  have h' := List.find?_some h
  exact ⟨by simpa using h', List.mem_of_find?_eq_some h⟩

/-- Changing the entry under a key, where the change keeps the key, changes what the lookup of that key finds. -/
theorem lookupBy_updateBy_same (f : α → α) (hf : ∀ x, key (f x) = key x) (l : List α) :
    lookupBy key k (updateBy key k f l) = (lookupBy key k l).map f := by
  induction l with
  | nil => rfl
  | cons x l ih =>
    simp only [updateBy, List.map_cons] at ih ⊢
    by_cases h : key x = k <;> simp [lookupBy_cons, h, hf] <;> simpa using ih

/-- The lookup of another key finds what it found. -/
theorem lookupBy_updateBy_other (f : α → α) (hf : ∀ x, key (f x) = key x) {j : Nat} (h : j ≠ k) (l : List α) :
    lookupBy key j (updateBy key k f l) = lookupBy key j l := by
  induction l with
  | nil => rfl
  | cons x l ih =>
    have hc : updateBy key k f (x :: l) = (if key x == k then f x else x) :: updateBy key k f l := rfl
    rw [hc, lookupBy_cons, lookupBy_cons, ih]
    by_cases hk : key x = k
    · have h1 : key (f x) ≠ j := by rw [hf, hk]; exact h.symm
      have h2 : key x ≠ j := by rw [hk]; exact h.symm
      rw [if_pos (beq_iff_eq.mpr hk), if_neg h1, if_neg h2]
    · have hb : (key x == k) = false := beq_false_of_ne hk
      simp only [hb, Bool.false_eq_true, if_false]

end

/-! ### Groups, blocks, contexts, batches -/

section
variable (s : State) (n k : Nat)

theorem group_modGroup_same (f : Group → Group) (hf : ∀ g, (f g).gid = g.gid) : (s.modGroup k f).group? k = (s.group? k).map f :=
  lookupBy_updateBy_same _ _ f hf _
theorem group_modGroup_other (f : Group → Group) (hf : ∀ g, (f g).gid = g.gid) (h : n ≠ k) : (s.modGroup k f).group? n = s.group? n :=
  lookupBy_updateBy_other _ _ f hf h _
theorem block_modBlock_same (f : Block → Block) (hf : ∀ g, (f g).bid = g.bid) : (s.modBlock k f).block? k = (s.block? k).map f :=
  lookupBy_updateBy_same _ _ f hf _
theorem block_modBlock_other (f : Block → Block) (hf : ∀ g, (f g).bid = g.bid) (h : n ≠ k) : (s.modBlock k f).block? n = s.block? n :=
  lookupBy_updateBy_other _ _ f hf h _
theorem context_modContext_same (f : Context → Context) (hf : ∀ g, (f g).ctx = g.ctx) :
    (s.modContext k f).context? k = (s.context? k).map f := lookupBy_updateBy_same _ _ f hf _
theorem context_modContext_other (f : Context → Context) (hf : ∀ g, (f g).ctx = g.ctx) (h : n ≠ k) :
    (s.modContext k f).context? n = s.context? n := lookupBy_updateBy_other _ _ f hf h _
theorem batch_modBatch_same (f : Batch → Batch) (hf : ∀ g, (f g).id = g.id) : (s.modBatch k f).batch? k = (s.batch? k).map f :=
  lookupBy_updateBy_same _ _ f hf _
theorem batch_modBatch_other (f : Batch → Batch) (hf : ∀ g, (f g).id = g.id) (h : n ≠ k) : (s.modBatch k f).batch? n = s.batch? n :=
  lookupBy_updateBy_other _ _ f hf h _
theorem core_modCore_same (f : Core → Core) (hf : ∀ g, (f g).core = g.core) : (s.modCore k f).core? k = (s.core? k).map f :=
  lookupBy_updateBy_same _ _ f hf _
theorem core_modCore_other (f : Core → Core) (hf : ∀ g, (f g).core = g.core) (h : n ≠ k) : (s.modCore k f).core? n = s.core? n :=
  lookupBy_updateBy_other _ _ f hf h _
theorem launch_modLaunch_same (f : Launch → Launch) (hf : ∀ g, (f g).lid = g.lid) : (s.modLaunch k f).launch? k = (s.launch? k).map f :=
  lookupBy_updateBy_same _ _ f hf _

end

/-! ### Fibres of a group -/

theorem modFibre_gid (g : Group) (l : Nat) (f : Fibre → Fibre) : (g.modFibre l f).gid = g.gid := by
  unfold Group.modFibre; split <;> rfl

/-- A fibre changed in place. -/
theorem fibre_modFibre_same (g : Group) (l : Nat) (f : Fibre → Fibre) (h : l < g.fibres.length) :
    (g.modFibre l f).fibre l = f (g.fibre l) := by
  simp [Group.modFibre, Group.fibre, nth, h]

theorem fibre_modFibre_other (g : Group) {l j : Nat} (f : Fibre → Fibre) (h : j ≠ l) : (g.modFibre l f).fibre j = g.fibre j := by
  unfold Group.modFibre
  split
  · simp [Group.fibre, nth, h.symm]
  · rfl

theorem modFibre_length (g : Group) (l : Nat) (f : Fibre → Fibre) : (g.modFibre l f).fibres.length = g.fibres.length := by
  unfold Group.modFibre; split <;> simp

/-- A group changes nothing but its fibres when a fibre changes. -/
theorem modFibre_fibres_only (g : Group) (l : Nat) (f : Fibre → Fibre) : ∃ xs, g.modFibre l f = { g with fibres := xs } := by
  unfold Group.modFibre
  split
  · exact ⟨_, rfl⟩
  · exact ⟨g.fibres, rfl⟩

theorem foldl_modFibre_fibres_only {α : Type} (ls : List α) (lane : α → Nat) (f : α → Fibre → Fibre) (g : Group) :
    ∃ xs, xs.length = g.fibres.length ∧ ls.foldl (fun g a => g.modFibre (lane a) (f a)) g = { g with fibres := xs } := by
  induction ls generalizing g with
  | nil => exact ⟨g.fibres, rfl, rfl⟩
  | cons a ls ih =>
    obtain ⟨ys, hy⟩ := modFibre_fibres_only g (lane a) (f a)
    obtain ⟨xs, hl, hx⟩ := ih (g.modFibre (lane a) (f a))
    refine ⟨xs, by rw [hl, modFibre_length], ?_⟩
    rw [List.foldl_cons, hx, hy]

/-- Lanes listed once each are changed each by its own change; the other lanes are not. -/
theorem fibre_foldl_modFibre {α : Type} (ls : List α) (lane : α → Nat) (f : α → Fibre → Fibre) (g : Group) (h : (ls.map lane).Nodup)
    (j : Nat) :
    (∀ a ∈ ls, lane a = j → j < g.fibres.length → (ls.foldl (fun g a => g.modFibre (lane a) (f a)) g).fibre j = f a (g.fibre j))
    ∧ (j ∉ ls.map lane → (ls.foldl (fun g a => g.modFibre (lane a) (f a)) g).fibre j = g.fibre j) := by
  induction ls generalizing g with
  | nil => simp
  | cons a ls ih =>
    simp only [List.map_cons, List.nodup_cons] at h
    have ih := ih (g.modFibre (lane a) (f a)) h.2
    rw [modFibre_length] at ih
    constructor
    · intro c hc hj hl
      rw [List.foldl_cons]
      rcases List.mem_cons.mp hc with rfl | hc
      · rw [ih.2 (by rw [← hj]; exact h.1), ← hj, fibre_modFibre_same _ _ _ (by rw [hj]; exact hl)]
      · have hne : j ≠ lane a := by
          intro e; exact h.1 (by rw [← e, ← hj]; exact List.mem_map_of_mem hc)
        rw [ih.1 c hc hj hl, fibre_modFibre_other _ _ hne]
    · intro hj
      simp only [List.map_cons, List.mem_cons, not_or] at hj
      rw [List.foldl_cons, ih.2 hj.2, fibre_modFibre_other _ _ hj.1]

/-! ### Masks -/

theorem mem_lanesOf {m : Mask} {l : Nat} : l ∈ lanesOf m ↔ l < 32 ∧ m.getLsbD l = true := by
  simp [lanesOf, inMask]

theorem mem_lanesOf_maskOf {ls : List Nat} {l : Nat} : l ∈ lanesOf (maskOf ls) ↔ l ∈ ls ∧ l < 32 := by
  have key : ∀ (ls : List Nat) (m : Mask), l < 32 →
      ((ls.foldl (fun m l => m ||| laneBit l) m).getLsbD l = true ↔ m.getLsbD l = true ∨ l ∈ ls) := by
    intro ls
    induction ls with
    | nil => simp
    | cons a ls ih =>
      intro m hl
      rw [List.foldl_cons, ih _ hl]
      have hb : (laneBit a).getLsbD l = decide (l = a) := by
        rw [laneBit, BitVec.getLsbD_ofNat, Nat.testBit_two_pow]
        simp [hl, eq_comm]
      rw [BitVec.getLsbD_or, hb]
      simp [or_assoc]
  rw [mem_lanesOf]
  constructor
  · rintro ⟨hl, hm⟩
    exact ⟨by simpa using (key ls 0 hl).mp hm, hl⟩
  · rintro ⟨hm, hl⟩
    exact ⟨hl, (key ls 0 hl).mpr (Or.inr hm)⟩

theorem lanesOf_nodup (m : Mask) : (lanesOf m).Nodup := List.nodup_range.filter _

end Sys2Proof.Machine
end

