-- ==== Sys2Proof/Laws/Run.lean ====
section
/-! SUPPORT. What running a word of a batch does, said once. -/

namespace Sys2Proof.Machine

/-! ### Energy and counters -/

section
variable (s : State) (g : Group) (p : Mask) (i : Instr) (n : Nat)

@[simp] theorem countEvent_group_at (ctx e k : Nat) : (countEvent s ctx e k).group? n = s.group? n := rfl
@[simp] theorem charge_group_at (ctx bid u : Nat) : (charge s ctx bid u).group? n = s.group? n := rfl
@[simp] theorem chargeWord_group_at : (chargeWord s g p i).group? n = s.group? n := rfl

/-- Profiling touches the sampling registers alone. -/
theorem profCount_eq (b : Batch) (oks : List (Nat × Mask × Verdict)) : ∃ ps, profCount s b i oks = { s with prof := ps } := by
  unfold profCount
  split
  · exact ⟨s.prof, rfl⟩
  · dsimp only
    repeat' split
    all_goals exact ⟨_, rfl⟩

/-- Counting a word touches the counters of a context and the sampling registers alone. -/
theorem countWord_eq (b : Batch) (oks : List (Nat × Mask × Verdict)) :
    countWord s b i oks = s ∨ ∃ ctx ps, countWord s b i oks = countEvent { s with prof := ps } ctx 0 1 := by
  obtain ⟨ps, h⟩ := profCount_eq s i b oks
  unfold countWord
  rw [h]
  repeat' split
  all_goals first | exact .inl rfl | exact .inr ⟨_, s.prof, rfl⟩ | exact .inr ⟨_, ps, rfl⟩

@[simp] theorem countWord_group_at (b : Batch) (oks : List (Nat × Mask × Verdict)) : (countWord s b i oks).group? n = s.group? n := by
  rcases countWord_eq s i b oks with h | ⟨c, ps, h⟩ <;> rw [h] <;> rfl

end

/-! ### The pending results come nearer -/

theorem tickBatch_groups_only (s : State) (b : Batch) : ∃ gs, tickBatch s b = { s with groups := gs } := by
  unfold tickBatch
  split
  · exact ⟨s.groups, rfl⟩
  · generalize b.members = ms
    induction ms generalizing s with
    | nil => exact ⟨s.groups, rfl⟩
    | cons m ms ih =>
      obtain ⟨gs, h⟩ := ih (s.modGroup m.gid fun g =>
        { (lanesOf m.lanes).foldl (fun g l => g.modFibre l tickFibre) g with kpend := tickK b.id g.kpend })
      exact ⟨gs, h⟩

/-! ### A safe point -/

theorem passSafe_plain (s : State) (b : Batch) (gid : Nat) (p : Mask) (i : Instr) (h : stopBit i = false) : passSafe s b gid p i = s := by
  simp [passSafe, h]

/-- Without its S bit a word enters with the groups as they stand. -/
theorem entered_group (i : Instr) (s : State) (b : Batch) (g : Group) (p : Mask) (n : Nat) (h : stopBit i = false) :
    (entered i s b g p).group? n = (tickBatch s b).group? n := by
  simp [entered, passSafe_plain _ _ _ _ _ h]

/-! ### Running a word -/

theorem Alone.wordMembers {i : Instr} {ready : ReadyFn} {bar : BarFn} {s : State} {b : Batch} {g : Group} {p : Mask}
    (h : Alone i ready bar s b g p) : wordMembers b i = [(g.gid, p)] := by
  obtain ⟨m, h1, h2, h3⟩ := h.members
  simpa [Machine.wordMembers, h1, h2, h3] using h.present

/-- A word that its group may issue names no register beyond the group's window (R67). -/
theorem windowFails_of_may {i : Instr} {ready : ReadyFn} {bar : BarFn} {s : State} {b : Batch} {g : Group} {p : Mask}
    (h : fullVerdict i ready bar s b g p = .ok) : windowFails g i = false := by
  cases hw : windowFails g i with
  | false => rfl
  | true =>
    have hv : wordVerdict s b g p i = .trap .illegalOperand p 0 0 := by simp [wordVerdict, hw]
    simp only [fullVerdict, hv, Verdict.rank] at h
    revert h
    unfold stepBar
    repeat' split
    all_goals simp

theorem Alone.batchFails {i : Instr} {ready : ReadyFn} {bar : BarFn} {s : State} {b : Batch} {g : Group} {p : Mask}
    (h : Alone i ready bar s b g p) : Machine.batchFails i (tickBatch s b) b = none := by
  simp [Machine.batchFails, h.decodes, h.wordMembers, h.group, windowFails_of_may h.may]

/-- A batch of one group that nothing holds back: the word's effect starts in `entered`, then the batch moves on, then a trap that the
effect calls for is raised. -/
theorem run_alone {i : Instr} {ready : ReadyFn} {bar : BarFn} {s : State} {b : Batch} {g g1 : Group} {p : Mask}
    (h : Alone i ready bar s b g p) (h1 : (entered i s b g p).group? g.gid = some g1) (body : BodyFn) (fin : State → Nat → State) :
    runWordThen i ready bar body fin s =
      (match body (entered i s b g p) b g1 p with
       | (u, none) => (fin (noteIssue s.nextId u b i) b.id).unissue
       | (u, some t) => (raiseTrap (fin (noteIssue s.nextId u b i) b.id) g.gid t p).unissue) := by
  have hv : verdicts i ready bar (tickBatch s b) b = [(g.gid, p, .ok)] := by
    simp only [verdicts, h.batchFails, h.wordMembers, List.map_cons, List.map_nil, h.group, h.may]
  have hw : b.wait.isSome = false := by rw [h.fresh]; rfl
  have hg : (countWord (tickBatch s b) b i [(g.gid, p, .ok)]).group? g.gid = some g := by
    rw [countWord_group_at]; exact h.group
  unfold runWordThen
  simp only [h.slot, hv]
  have ha : anyWait [(g.gid, p, Verdict.ok)] = false := rfl
  simp only [ha, Bool.false_eq_true, if_false]
  have hf1 : ([(g.gid, p, Verdict.ok)].filter fun v => v.2.2 != Verdict.ok) = [] := rfl
  have hf2 : ([(g.gid, p, Verdict.ok)].filter fun v => v.2.2 == Verdict.ok) = [(g.gid, p, Verdict.ok)] := rfl
  simp only [hf1, hf2, List.foldl_nil, List.foldl_cons, issueGroup, hg, hw, Bool.false_eq_true, if_false]
  simp only [entered] at h1
  simp only [entered, h1]
  cases body (passSafe (chargeWord (countWord (tickBatch s b) b i [(g.gid, p, .ok)]) g p i) b g.gid p i) b g1 p with
  | mk u t => cases t <;> rfl

/-- The same for a word after which the batch goes on to the next one. -/
theorem runWord_alone {i : Instr} {ready : ReadyFn} {bar : BarFn} {s : State} {b : Batch} {g g1 : Group} {p : Mask}
    (h : Alone i ready bar s b g p) (h1 : (entered i s b g p).group? g.gid = some g1) (body : BodyFn) :
    runWord i ready bar body s =
      (match body (entered i s b g p) b g1 p with
       | (u, none) => (advanceBatch (noteIssue s.nextId u b i) b.id i).unissue
       | (u, some t) => (raiseTrap (advanceBatch (noteIssue s.nextId u b i) b.id i) g.gid t p).unissue) :=
  run_alone h h1 body _

/-- A batch one of whose groups must wait gives the slot back with nothing else changed. -/
theorem run_waits {i : Instr} {ready : ReadyFn} {bar : BarFn} {s : State} {b : Batch} (hb : issuerBatch s = some b)
    (hw : anyWait (verdicts i ready bar (tickBatch s b) b) = true) (body : BodyFn) (fin : State → Nat → State) :
    runWordThen i ready bar body fin s = s.blocked b := by
  simp only [runWordThen, hb, hw, if_true]

/-- With no batch in the issue slot a word does nothing. -/
theorem run_idle {i : Instr} {ready : ReadyFn} {bar : BarFn} {s : State} (hb : issuerBatch s = none) (body : BodyFn)
    (fin : State → Nat → State) : runWordThen i ready bar body fin s = s := by
  simp only [runWordThen, hb]

/-! ### After the word -/

@[simp] theorem advanceBatch_group_at (s : State) (id : Nat) (i : Instr) (n : Nat) : (advanceBatch s id i).group? n = s.group? n := rfl

/-- Noting an issue touches the batch and the step in progress alone. -/
theorem noteIssue_eq (start : Nat) (s : State) (b : Batch) (i : Instr) :
    ∃ bs st, noteIssue start s b i = { s with batches := bs, stepping := st } := by
  unfold noteIssue
  dsimp only
  repeat' split
  all_goals exact ⟨_, _, rfl⟩

@[simp] theorem noteIssue_group_at (start : Nat) (s : State) (b : Batch) (i : Instr) (n : Nat) : (noteIssue start s b i).group? n = s.group? n := by
  obtain ⟨bs, st, h⟩ := noteIssue_eq start s b i
  rw [h]; rfl

end Sys2Proof.Machine
end

