-- ==== Sys2Proof/Laws/Fixed.lean ====
section
/-! SUPPORT. What a fixed-latency result does to the fibre that will receive it, and to its group. -/

namespace Sys2Proof.Machine

/-! ### One fibre -/

/-- A result on its way changes nothing but the pending results and the history of l0 and l1. -/
theorem putFixed_only (g : Group) (x : Fibre) (seq dist code : Nat) (w : Word) (inL : Bool) :
    ∃ ps hs, putFixed g x seq dist code w inL = { x with pend := x.pend ++ ps, hist := hs } := by
  unfold putFixed
  dsimp only
  repeat' split
  all_goals first | exact ⟨[_], _, rfl⟩ | exact ⟨[], x.hist, by simp⟩

/-- The result is on its way to the register the code names. -/
theorem putFixed_pend (g : Group) (x : Fibre) (seq dist code : Nat) (w : Word) (inL : Bool) {d : PDst} (h : dstAt g code = some d) :
    (⟨seq, d, w, dist⟩ : Pend) ∈ (putFixed g x seq dist code w inL).pend := by
  unfold putFixed
  unfold dstAt at h
  dsimp only
  by_cases hc : code < 0x80
  · rw [if_pos hc] at h ⊢
    cases hv : vIndex g code with
    | none => simp [hv] at h
    | some n => rw [hv] at h; simp at h; simp [← h]
  · rw [if_neg hc] at h ⊢
    by_cases ho : isO code = true
    · rw [if_pos ho] at h ⊢; simp at h; simp [← h]
    · rw [if_neg ho] at h; simp at h

theorem putPred_only (x : Fibre) (seq dist n : Nat) (q : Bool) : ∃ ps, putPred x seq dist n q = { x with pend := x.pend ++ ps } := by
  unfold putPred
  split
  · exact ⟨[], by simp⟩
  · exact ⟨[_], rfl⟩

theorem putSkipped_only (s : State) (g : Group) (x : Fibre) (lane seq dist code : Nat) :
    ∃ hs, putSkipped s g x lane seq dist code = { x with hist := hs } := by
  unfold putSkipped
  dsimp only
  split
  · exact ⟨_, rfl⟩
  · exact ⟨x.hist, rfl⟩

/-- Registers one after another: each is on its way, and what was on its way stays so. -/
theorem foldl_putFixed (g : Group) (seq dist dst : Nat) (ws : Nat → Word) (n : Nat) (x : Fibre) :
    (∃ ps hs, (List.range n).foldl (fun x j => putFixed g x seq dist (dst + j) (ws j) (j == 0)) x
        = { x with pend := x.pend ++ ps, hist := hs })
    ∧ ∀ j < n, ∀ d, dstAt g (dst + j) = some d →
        (⟨seq, d, ws j, dist⟩ : Pend) ∈ ((List.range n).foldl (fun x j => putFixed g x seq dist (dst + j) (ws j) (j == 0)) x).pend := by
  induction n with
  | zero => exact ⟨⟨[], x.hist, by simp⟩, fun j hj => absurd hj (Nat.not_lt_zero j)⟩
  | succ n ih =>
    obtain ⟨⟨ps, hs, h1⟩, h2⟩ := ih
    rw [List.range_succ, List.foldl_append, List.foldl_cons, List.foldl_nil]
    generalize hy : (List.range n).foldl (fun x j => putFixed g x seq dist (dst + j) (ws j) (j == 0)) x = y at h1 h2 ⊢
    obtain ⟨qs, ks, h3⟩ := putFixed_only g y seq dist (dst + n) (ws n) (n == 0)
    refine ⟨⟨ps ++ qs, ks, by rw [h3, h1]; simp⟩, ?_⟩
    intro j hj d hd
    rcases Nat.lt_succ_iff_lt_or_eq.mp hj with h | h
    · rw [h3]; exact List.mem_append_left _ (h2 j h d hd)
    · subst h; exact putFixed_pend _ _ _ _ _ _ _ hd

/-- All of a lane's results: its flags are raised at once, its destinations wait. -/
theorem putOut_spec (g : Group) (r : Row) (f : Fields) (seq : Nat) (x : Fibre) (o : LaneOut) :
    (∃ ps hs, putOut g r f seq x o = { raiseFlags x o.flags with pend := x.pend ++ ps, hist := hs })
    ∧ Awaits (putOut g r f seq x o) g seq r.dist f.dst.toNat o := by
  unfold putOut
  dsimp only
  have key : ∀ y : Fibre, (∃ ps, y = { raiseFlags x o.flags with pend := x.pend ++ ps }) →
      (∃ ps hs, (List.range o.regs.length).foldl (fun x j => putFixed g x seq r.dist (f.dst.toNat + j) (nth o.regs j) (j == 0)) y
        = { raiseFlags x o.flags with pend := x.pend ++ ps, hist := hs })
      ∧ (∀ p ∈ y.pend, p ∈ ((List.range o.regs.length).foldl
          (fun x j => putFixed g x seq r.dist (f.dst.toNat + j) (nth o.regs j) (j == 0)) y).pend)
      ∧ ∀ j < o.regs.length, ∀ d, dstAt g (f.dst.toNat + j) = some d →
          (⟨seq, d, nth o.regs j, r.dist⟩ : Pend) ∈ ((List.range o.regs.length).foldl
            (fun x j => putFixed g x seq r.dist (f.dst.toNat + j) (nth o.regs j) (j == 0)) y).pend := by
    rintro y ⟨ps, hy⟩
    obtain ⟨⟨qs, hs, h1⟩, h2⟩ := foldl_putFixed g seq r.dist f.dst.toNat (nth o.regs) o.regs.length y
    refine ⟨⟨ps ++ qs, hs, by rw [h1, hy]; simp⟩, ?_, h2⟩
    intro p hp
    rw [h1]
    exact List.mem_append_left _ hp
  cases hq : o.pred with
  | none =>
    dsimp only
    obtain ⟨h1, _, h3⟩ := key (raiseFlags x o.flags) ⟨[], by simp [raiseFlags]⟩
    exact ⟨h1, h3, by simp [hq]⟩
  | some q =>
    dsimp only
    obtain ⟨ps, hps⟩ := putPred_only (raiseFlags x o.flags) seq r.dist f.dst.toNat q
    obtain ⟨h1, h2, h3⟩ := key (putPred (raiseFlags x o.flags) seq r.dist f.dst.toNat q) ⟨ps, by rw [hps]; rfl⟩
    refine ⟨h1, h3, ?_⟩
    intro q' hq' h0
    rw [hq] at hq'
    obtain rfl : q = q' := Option.some.inj hq'
    apply h2
    unfold putPred
    rw [if_neg h0]
    simp

/-- Raising flags touches STATUS[20:16] alone. -/
theorem raiseFlags_status_bit (x : Fibre) (fl : Flags) (n : Nat) (h : n < 16 ∨ 20 < n) :
    (raiseFlags x fl).status.getLsbD n = x.status.getLsbD n := by
  have hz : (fl.zeroExtend 64 <<< 16).getLsbD n = false := by
    rw [BitVec.getLsbD_shiftLeft]
    rcases h with h | h
    · simp [h]
    · have : fl.getLsbD (n - 16) = false := BitVec.getLsbD_of_ge _ _ (by omega)
      simp [this]
  unfold raiseFlags
  rw [BitVec.getLsbD_or, hz, Bool.or_false]

theorem sameVisible_refl (x : Fibre) : SameVisible x x := ⟨rfl, rfl, rfl, rfl, rfl, rfl, fun _ _ => rfl⟩

theorem sameVisible_putOut (g : Group) (r : Row) (f : Fields) (seq : Nat) (x : Fibre) (o : LaneOut) :
    SameVisible x (putOut g r f seq x o) := by
  obtain ⟨⟨ps, hs, h⟩, -⟩ := putOut_spec g r f seq x o
  rw [h]
  exact ⟨rfl, rfl, rfl, rfl, rfl, rfl, fun n hn => raiseFlags_status_bit x o.flags n hn⟩

theorem sameVisible_putSkipped (s : State) (g : Group) (x : Fibre) (lane seq dist code : Nat) :
    SameVisible x (putSkipped s g x lane seq dist code) := by
  obtain ⟨hs, h⟩ := putSkipped_only s g x lane seq dist code
  rw [h]
  exact ⟨rfl, rfl, rfl, rfl, rfl, rfl, fun _ _ => rfl⟩

/-! ### The group -/

theorem updateBy_id {α : Type} (key : α → Nat) (k : Nat) (l : List α) : updateBy key k id l = l := by
  simp [updateBy]

theorem modGroup_id (s : State) (k : Nat) : s.modGroup k id = s := by
  simp [State.modGroup, updateBy_id]

theorem participants_present (g : Group) (p : Mask) (f : Fields) {l : Nat} (h : l ∈ lanesOf (g.participants p f)) : l ∈ lanesOf p := by
  unfold Group.participants Group.filterLanes at h
  rw [mem_lanesOf_maskOf] at h
  exact (List.mem_filter.mp h.1).1

theorem mem_lanesOf_and_not {p q : Mask} {l : Nat} (h : l ∈ lanesOf (p &&& ~~~q)) : l ∈ lanesOf p ∧ l ∉ lanesOf q := by
  simp only [mem_lanesOf, BitVec.getLsbD_and, BitVec.getLsbD_not, Bool.and_eq_true] at h ⊢
  obtain ⟨h1, h2, h3⟩ := h
  simp at h3
  exact ⟨⟨h1, h2⟩, fun h => by simp [h3.2] at h⟩

/-- The lanes of a fold over all of a list of lanes, each changed in a way that keeps it visibly the same, are visibly the same. -/
theorem sameVisible_foldl {α : Type} (ls : List α) (lane : α → Nat) (f : α → Fibre → Fibre) (hf : ∀ a x, SameVisible x (f a x))
    (g : Group) (l : Nat) : SameVisible (g.fibre l) ((ls.foldl (fun g a => g.modFibre (lane a) (f a)) g).fibre l) := by
  induction ls generalizing g with
  | nil => exact sameVisible_refl _
  | cons a ls ih =>
    have h1 := ih (g.modFibre (lane a) (f a))
    have h2 : SameVisible (g.fibre l) ((g.modFibre (lane a) (f a)).fibre l) := by
      by_cases h : l = lane a
      · by_cases hl : l < g.fibres.length
        · rw [h] at hl ⊢; rw [fibre_modFibre_same _ _ _ hl]; exact hf a _
        · have : g.modFibre (lane a) (f a) = g := by
            unfold Group.modFibre
            rw [h] at hl
            rw [List.getElem?_eq_none (by omega)]
          rw [this]; exact sameVisible_refl _
      · rw [fibre_modFibre_other _ _ h]; exact sameVisible_refl _
    rw [List.foldl_cons]
    exact ⟨h1.live.trans h2.live, h1.v.trans h2.v, h1.o.trans h2.o, h1.oset.trans h2.oset, h1.q.trans h2.q, h1.safeord.trans h2.safeord,
      fun n hn => (h1.status n hn).trans (h2.status n hn)⟩

/-- A fixed-latency word acts on its own group alone, and there as `FixedPost` says; what is visible of the group stays. -/
theorem fixedBody_spec (i : Instr) (fn : LaneIn → LaneOut) (e : State) (b : Batch) (g : Group) (p : Mask)
    (hl : ∀ l ∈ lanesOf p, l < g.fibres.length) :
    ∃ F tr, fixedBody i fn e b g p = (e.fresh.2.modGroup g.gid F, tr) ∧ (∀ h, (F h).gid = h.gid) ∧ SameGroup g (F g)
      ∧ (F g).flights = g.flights ∧ (∀ l, l ∉ lanesOf p → (F g).fibre l = g.fibre l)
      ∧ (if isUniform i then
          ∀ l0, lowestLane p = some l0 →
            (∀ j < (fn (laneIn e b g i l0)).regs.length,
              (⟨b.id, e.nextId, (fieldsOfInstr i).dst.toNat - 0x80 + j, nth (fn (laneIn e b g i l0)).regs j, 3, false⟩ : KPend) ∈ (F g).kpend)
            ∧ ∀ l ∈ lanesOf p, ((F g).fibre l).status = (raiseFlags (g.fibre l) (fn (laneIn e b g i l0)).flags).status
        else
          ∀ l ∈ lanesOf (g.participants p (fieldsOfInstr i)),
            Awaits ((F g).fibre l) g e.nextId (rowOf i).dist (fieldsOfInstr i).dst.toNat (fn (laneIn e b g i l))
            ∧ ((F g).fibre l).status = (raiseFlags (g.fibre l) (fn (laneIn e b g i l)).flags).status)
      ∧ tr = (if isUniform i then
          (match lowestLane p with
           | none => none
           | some l0 => flagTrap b g (flagHits g ((lanesOf p).map fun l => (l, (fn (laneIn e b g i l0)).flags))))
        else flagTrap b g (flagHits g ((lanesOf (g.participants p (fieldsOfInstr i))).map fun l => (l, (fn (laneIn e b g i l)).flags)))) := by
  have hin : ∀ l, laneIn e.fresh.2 b g i l = laneIn e b g i l := fun _ => rfl
  have hu : isUniform i = uniformWord (rowOf i) (fieldsOfInstr i) := rfl
  unfold fixedBody
  rw [show e.fresh = (e.nextId, e.fresh.2) from rfl]
  simp only [hin, ← hu]
  by_cases h : isUniform i = true
  · simp only [h, if_true]
    cases hl0 : lowestLane p with
    | none =>
      exact ⟨id, none, by rw [modGroup_id], fun _ => rfl,
        ⟨fun l => sameVisible_refl _, rfl, ⟨rfl, rfl, rfl, rfl⟩, ⟨rfl, rfl, rfl, rfl, rfl⟩, rfl, ⟨rfl, rfl, rfl, rfl⟩⟩, rfl, fun _ _ => rfl,
        by simp, rfl⟩
    | some l0 =>
      dsimp only
      generalize ho : fn (laneIn e b g i l0) = o
      refine ⟨_, _, rfl, ?_, ?_, ?_, ?_, ?_, rfl⟩
      · intro x
        obtain ⟨xs, -, hx⟩ := foldl_modFibre_fibres_only (lanesOf p) id (fun _ y => raiseFlags y o.flags) x
        have h2 := congrArg Group.gid hx
        exact h2
      · obtain ⟨xs, -, hx⟩ := foldl_modFibre_fibres_only (lanesOf p) id (fun _ y => raiseFlags y o.flags) g
        have hv := sameVisible_foldl (lanesOf p) id (fun _ y => raiseFlags y o.flags)
          (fun _ y => ⟨rfl, rfl, rfl, rfl, rfl, rfl, fun n hn => raiseFlags_status_bit y o.flags n hn⟩) g
        simp only [id] at hx hv
        rw [hx] at hv ⊢
        exact ⟨hv, rfl, ⟨rfl, rfl, rfl, rfl⟩, ⟨rfl, rfl, rfl, rfl, rfl⟩, rfl, ⟨rfl, rfl, rfl, rfl⟩⟩
      · obtain ⟨xs, -, hx⟩ := foldl_modFibre_fibres_only (lanesOf p) id (fun _ y => raiseFlags y o.flags) g
        have h2 := congrArg Group.flights hx
        exact h2
      · intro l hlp
        exact (fibre_foldl_modFibre (lanesOf p) id (fun _ y => raiseFlags y o.flags) g (by simpa using lanesOf_nodup p) l).2 (by simpa using hlp)
      · intro l1 h1
        obtain rfl : l0 = l1 := Option.some.inj h1
        rw [ho]
        constructor
        · intro j hj
          exact List.mem_append_right _ (List.mem_map.mpr ⟨j, List.mem_range.mpr hj, rfl⟩)
        · intro l hlp
          have := (fibre_foldl_modFibre (lanesOf p) id (fun _ y => raiseFlags y o.flags) g (by simpa using lanesOf_nodup p) l).1 l hlp rfl
            (hl l hlp)
          exact congrArg Fibre.status this
  · simp only [h, Bool.false_eq_true, if_false]
    generalize hf : fieldsOfInstr i = f
    generalize hr : rowOf i = r
    generalize hm : g.participants p f = m
    have hsub : ∀ l ∈ lanesOf m, l ∈ lanesOf p := fun l hlm => participants_present g p f (by rw [hm]; exact hlm)
    -- the two passes over the lanes
    let A (x : Group) : Group := (lanesOf m).foldl (fun x l => x.modFibre l fun y => putOut g r f e.nextId y (fn (laneIn e b g i l))) x
    let B (x : Group) : Group := if (dstUse r f).isReg = true then
        (lanesOf (p &&& ~~~m)).foldl (fun x l => x.modFibre l fun y => putSkipped e.fresh.2 g y l e.nextId r.dist f.dst.toNat) x else x
    have hA : ∀ x, ∃ xs, xs.length = x.fibres.length ∧ A x = { x with fibres := xs } := fun x =>
      foldl_modFibre_fibres_only (lanesOf m) id (fun l y => putOut g r f e.nextId y (fn (laneIn e b g i l))) x
    have hB : ∀ x, ∃ xs, B x = { x with fibres := xs } := by
      intro x
      by_cases hd : (dstUse r f).isReg = true
      · obtain ⟨xs, -, hx⟩ := foldl_modFibre_fibres_only (lanesOf (p &&& ~~~m)) id
          (fun l y => putSkipped e.fresh.2 g y l e.nextId r.dist f.dst.toNat) x
        exact ⟨xs, by simp only [B, hd, if_true]; exact hx⟩
      · exact ⟨x.fibres, by simp only [B, hd, Bool.false_eq_true, if_false]⟩
    have hAf := fibre_foldl_modFibre (lanesOf m) id (fun l y => putOut g r f e.nextId y (fn (laneIn e b g i l))) g
      (by simpa using lanesOf_nodup m)
    have hBf : ∀ l, l ∉ lanesOf (p &&& ~~~m) → (B (A g)).fibre l = (A g).fibre l := by
      intro l hn
      by_cases hd : (dstUse r f).isReg = true
      · have := (fibre_foldl_modFibre (lanesOf (p &&& ~~~m)) id (fun l y => putSkipped e.fresh.2 g y l e.nextId r.dist f.dst.toNat) (A g)
          (by simpa using lanesOf_nodup _) l).2 (by simpa using hn)
        simp only [B, hd, if_true]; exact this
      · simp only [B, hd, Bool.false_eq_true, if_false]
    have hv : ∀ l, SameVisible (g.fibre l) ((B (A g)).fibre l) := by
      intro l
      have h1 : SameVisible (g.fibre l) ((A g).fibre l) := sameVisible_foldl (lanesOf m) id
        (fun l y => putOut g r f e.nextId y (fn (laneIn e b g i l))) (fun l y => sameVisible_putOut g r f e.nextId y _) g l
      have h2 : SameVisible ((A g).fibre l) ((B (A g)).fibre l) := by
        by_cases hd : (dstUse r f).isReg = true
        · simp only [B, hd, if_true]
          exact sameVisible_foldl (lanesOf (p &&& ~~~m)) id (fun l y => putSkipped e.fresh.2 g y l e.nextId r.dist f.dst.toNat)
            (fun l y => sameVisible_putSkipped _ g y l e.nextId r.dist f.dst.toNat) (A g) l
        · simp only [B, hd, Bool.false_eq_true, if_false]; exact sameVisible_refl _
      exact ⟨h2.live.trans h1.live, h2.v.trans h1.v, h2.o.trans h1.o, h2.oset.trans h1.oset, h2.q.trans h1.q, h2.safeord.trans h1.safeord,
        fun n hn => (h2.status n hn).trans (h1.status n hn)⟩
    refine ⟨fun x => B (A x), _, ?_, ?_, ?_, ?_, ?_, ?_, rfl⟩
    · simp only [List.foldl_map, List.map_map]
      rfl
    · intro x
      obtain ⟨xs, -, hx⟩ := hA x
      obtain ⟨ys, hy⟩ := hB (A x)
      show (B (A x)).gid = x.gid
      rw [hy, hx]
    · obtain ⟨xs, -, hx⟩ := hA g
      obtain ⟨ys, hy⟩ := hB (A g)
      have hz : B (A g) = { g with fibres := ys } := by rw [hy, hx]
      dsimp only
      refine ⟨hv, ?_, ?_, ?_, ?_, ?_⟩ <;> rw [hz] <;> simp
    · obtain ⟨xs, -, hx⟩ := hA g
      obtain ⟨ys, hy⟩ := hB (A g)
      show (B (A g)).flights = g.flights
      rw [hy, hx]
    · intro l hlp
      show (B (A g)).fibre l = g.fibre l
      rw [hBf l (fun hn => hlp (mem_lanesOf_and_not hn).1)]
      exact (hAf l).2 (by simpa using fun hn => hlp (hsub l hn))
    · intro l hlm
      have h1 : (B (A g)).fibre l = putOut g r f e.nextId (g.fibre l) (fn (laneIn e b g i l)) := by
        rw [hBf l (fun hn => (mem_lanesOf_and_not hn).2 hlm)]
        exact (hAf l).1 l hlm rfl (hl l (hsub l hlm))
      show Awaits ((B (A g)).fibre l) g e.nextId r.dist f.dst.toNat (fn (laneIn e b g i l)) ∧ ((B (A g)).fibre l).status = _
      rw [h1]
      obtain ⟨⟨ps, hs, hp⟩, ha⟩ := putOut_spec g r f e.nextId (g.fibre l) (fn (laneIn e b g i l))
      have h2 := congrArg Fibre.status hp
      exact ⟨ha, h2⟩

end Sys2Proof.Machine
end

