-- ==== Sys2Proof/Laws/Memory.lean ====
section
/-! SUPPORT. Byte memories: a read after a write, what a write leaves alone, and the canonical form. -/

namespace Sys2Proof.Machine

open Host (Cell)

/-! ### One byte -/

/-- A listed address is at least the bound of the canonical form. -/
theorem get_below {m : List Cell} {lo a : Nat} (h : Memory.wfFrom lo m = true) (ha : a < lo) : Memory.get m a = 0 := by
  cases m with
  | nil => rfl
  | cons c rest =>
    simp only [Memory.wfFrom, Bool.and_eq_true, decide_eq_true_eq] at h
    have h1 : c.1 ≠ a := by omega
    have h2 : a < c.1 := by omega
    simp [Memory.get, h1, h2]

theorem wfFrom_mono {m : List Cell} {lo hi : Nat} (h : Memory.wfFrom hi m = true) (hl : lo ≤ hi) : Memory.wfFrom lo m = true := by
  cases m with
  | nil => rfl
  | cons c rest =>
    simp only [Memory.wfFrom, Bool.and_eq_true, decide_eq_true_eq] at h ⊢
    exact ⟨⟨by omega, h.1.2⟩, h.2⟩

theorem get_put_same (m : List Cell) (lo a : Nat) (b : Byte) (h : Memory.wfFrom lo m = true) :
    Memory.get (Memory.put m a b) a = b := by
  induction m generalizing lo with
  | nil => by_cases hb : b = 0#8 <;> simp [Memory.put, Memory.get, hb]
  | cons c rest ih =>
    simp only [Memory.wfFrom, Bool.and_eq_true, decide_eq_true_eq] at h
    by_cases hc : c.1 = a
    · by_cases hb : b = 0#8
      · simpa [Memory.put, hc, hb] using get_below h.2 (by omega : a < c.1 + 1)
      · simp [Memory.put, hc, hb, Memory.get]
    · by_cases hl : a < c.1
      · by_cases hb : b = 0#8 <;> simp [Memory.put, Memory.get, hc, hl, hb]
      · simpa [Memory.put, Memory.get, hc, hl] using ih _ h.2

theorem get_put_other (m : List Cell) (lo : Nat) {a x : Nat} (b : Byte) (hx : x ≠ a) (h : Memory.wfFrom lo m = true) :
    Memory.get (Memory.put m a b) x = Memory.get m x := by
  induction m generalizing lo with
  | nil =>
    by_cases hb : b = 0#8
    · simp [Memory.put, hb]
    · by_cases h2 : x < a <;> simp [Memory.put, Memory.get, hb, Ne.symm hx]
  | cons c rest ih =>
    simp only [Memory.wfFrom, Bool.and_eq_true, decide_eq_true_eq] at h
    by_cases hc : c.1 = a
    · by_cases hb : b = 0#8
      · by_cases h2 : x < c.1
        · have := get_below h.2 (by omega : x < c.1 + 1)
          simp [Memory.put, hc, hb, Memory.get, hx.symm, this]
        · simp [Memory.put, hc, hb, Memory.get, hx.symm]
          intro h3; omega
      · by_cases h2 : x < c.1 <;> simp [Memory.put, hc, hb, Memory.get, hx.symm]
    · by_cases hl : a < c.1
      · by_cases hb : b = 0#8
        · simp [Memory.put, hc, hl, hb]
        · by_cases h2 : x < a
          · have h3 : c.1 ≠ x := by omega
            have h4 : x < c.1 := by omega
            simp [Memory.put, Memory.get, hc, hl, hb, hx.symm, h2, h3, h4]
          · simp [Memory.put, Memory.get, hc, hl, hb, hx.symm, h2]
      · simp only [Memory.put, hc, hl, if_false, Memory.get]
        rw [ih _ h.2]

theorem put_wfFrom (m : List Cell) {lo a : Nat} (b : Byte) (ha : lo ≤ a) (h : Memory.wfFrom lo m = true) :
    Memory.wfFrom lo (Memory.put m a b) = true := by
  induction m generalizing lo with
  | nil => by_cases hb : b = 0#8 <;> simp [Memory.put, Memory.wfFrom, hb, ha]
  | cons c rest ih =>
    have h0 := h
    simp only [Memory.wfFrom, Bool.and_eq_true, decide_eq_true_eq] at h
    by_cases hc : c.1 = a
    · by_cases hb : b = 0#8
      · simpa [Memory.put, hc, hb] using wfFrom_mono h.2 (by omega)
      · have h2 := h.2
        rw [hc] at h2
        simp [Memory.put, hc, hb, Memory.wfFrom, ha, h2]
    · by_cases hl : a < c.1
      · by_cases hb : b = 0#8
        · simpa [Memory.put, hc, hl, hb] using h0
        · have h1 : a + 1 ≤ c.1 := hl
          have h2 : c.2 ≠ 0#8 := by simpa using h.1.2
          simp [Memory.put, hc, hl, hb, Memory.wfFrom, ha, h1, h2, h.2]
      · have h1 : c.1 + 1 ≤ a := by omega
        have h2 : c.2 ≠ 0#8 := by simpa using h.1.2
        simpa [Memory.put, hc, hl, Memory.wfFrom, h.1.1, h2] using ih h1 h.2

/-- Writing one byte keeps the canonical form. -/
theorem put_wf (m : List Cell) (a : Nat) (b : Byte) (h : Memory.wf m = true) : Memory.wf (Memory.put m a b) = true :=
  put_wfFrom m b (Nat.zero_le a) h

/-! ### Ranges -/

/-- Writing bytes keeps the canonical form. -/
theorem write_wf (m : List Cell) (a : Nat) (bs : List Byte) (h : Memory.wf m = true) : Memory.wf (Memory.write m a bs) = true := by
  induction bs generalizing m a with
  | nil => exact h
  | cons b bs ih => exact ih _ _ (put_wf m a b h)

/-- A write leaves every byte outside its range alone. -/
theorem get_write_other (m : List Cell) {a x : Nat} (bs : List Byte) (hx : x < a ∨ a + bs.length ≤ x) (h : Memory.wf m = true) :
    Memory.get (Memory.write m a bs) x = Memory.get m x := by
  induction bs generalizing m a with
  | nil => rfl
  | cons b bs ih =>
    simp only [List.length_cons] at hx
    simp only [Memory.write]
    rw [ih _ (by omega) (put_wf m a b h), get_put_other m 0 b (by omega) h]

/-- A byte of the range reads what was written to it. -/
theorem get_write_same (m : List Cell) (a : Nat) (bs : List Byte) (i : Nat) (hi : i < bs.length) (h : Memory.wf m = true) :
    Memory.get (Memory.write m a bs) (a + i) = bs[i] := by
  induction bs generalizing m a i with
  | nil => simp at hi
  | cons b bs ih =>
    cases i with
    | zero =>
      simp only [Memory.write, Nat.add_zero, List.getElem_cons_zero]
      rw [get_write_other _ _ (Or.inl (by omega)) (put_wf m a b h), get_put_same m 0 a b h]
    | succ i =>
      have := ih (Memory.put m a b) (a + 1) i (by simpa using hi) (put_wf m a b h)
      simpa [Memory.write, Nat.add_assoc, Nat.add_comm 1 i] using this

theorem read_length (m : List Cell) (a n : Nat) : (Memory.read m a n).length = n := by
  induction n generalizing a with
  | zero => rfl
  | succ n ih => simp [Memory.read, ih]

theorem read_getElem (m : List Cell) (a n i : Nat) (hi : i < n) :
    (Memory.read m a n)[i]'(by rw [read_length]; exact hi) = Memory.get m (a + i) := by
  induction n generalizing a i with
  | zero => omega
  | succ n ih =>
    cases i with
    | zero => rfl
    | succ i =>
      have := ih (a + 1) i (by omega)
      simpa [Memory.read, Nat.add_assoc, Nat.add_comm 1 i] using this

/-- A read of the range just written gives the bytes. -/
theorem read_write_same (m : List Cell) (a : Nat) (bs : List Byte) (h : Memory.wf m = true) :
    Memory.read (Memory.write m a bs) a bs.length = bs := by
  apply List.ext_getElem
  · exact read_length _ _ _
  · intro i h1 h2
    rw [read_getElem _ _ _ _ h2, get_write_same m a bs i h2 h]

/-- Dropping the bytes of a range keeps the canonical form. -/
theorem filter_wfFrom (m : List Cell) (p : Cell → Bool) (lo : Nat) (h : Memory.wfFrom lo m = true) :
    Memory.wfFrom lo (m.filter p) = true := by
  induction m generalizing lo with
  | nil => rfl
  | cons c rest ih =>
    simp only [Memory.wfFrom, Bool.and_eq_true, decide_eq_true_eq] at h
    by_cases hp : p c
    · have h2 : c.2 ≠ 0#8 := by simpa using h.1.2
      simp [hp, Memory.wfFrom, h.1.1, h2, ih _ h.2]
    · simpa [hp] using ih lo (wfFrom_mono h.2 (by omega))

theorem clear_wf (m : List Cell) (a n : Nat) (h : Memory.wf m = true) : Memory.wf (Memory.clear m a n) = true :=
  filter_wfFrom m _ 0 h

theorem reset_mem_wf : Memory.wf State.reset.mem = true ∧ Memory.wf State.reset.hostMem = true ∧ Memory.wf State.reset.peerMem = true :=
  ⟨rfl, rfl, rfl⟩

/-! ### What an access's charge can change -/

/-- An access at its home changes nothing but the LLC's lines and its context's counts. -/
theorem serveCtx_does (s : State) (ctx tag : Nat) (t : Target) (n rm : Nat) :
    ∃ l c, serveCtx s ctx tag t n rm = { s with llc := l, contexts := c } := by
  cases t <;> exact ⟨_, _, rfl⟩

theorem chargeHome_does (s : State) (ctx tag rm : Nat) (parts : List (Nat × Nat × Target)) :
    ∃ l c, chargeHome s ctx tag rm parts = { s with llc := l, contexts := c } := by
  unfold chargeHome
  suffices h : ∀ (ps : List ((Nat × Nat × Target) × Nat)) (s : State), ∃ l c,
      ps.foldl (fun s p => serveCtx s ctx (tag * 1024 + p.2) p.1.2.2 p.1.2.1 rm) s = { s with llc := l, contexts := c } from h _ s
  intro ps
  induction ps with
  | nil => exact fun s => ⟨s.llc, s.contexts, rfl⟩
  | cons p ps ih =>
    intro s
    obtain ⟨l, c, h⟩ := serveCtx_does s ctx (tag * 1024 + p.2) p.1.2.2 p.1.2.1 rm
    obtain ⟨l', c', h'⟩ := ih { s with llc := l, contexts := c }
    exact ⟨l', c', by rw [List.foldl_cons, h, h']⟩
/-! ### Bytes of a number -/

theorem toBytes_length (n k : Nat) : (toBytes n k).length = k := by
  induction k generalizing n with
  | zero => rfl
  | succ k ih => simp [toBytes, ih]

theorem ofBytes_toBytes (n k : Nat) : ofBytes (toBytes n k) = n % 256 ^ k := by
  induction k generalizing n with
  | zero => simp [toBytes, ofBytes, Nat.mod_one]
  | succ k ih =>
    have h : (BitVec.ofNat 8 n).toNat = n % 256 := by simp
    rw [toBytes, ofBytes, ih, h, Nat.pow_succ, Nat.mul_comm (256 ^ k) 256, Nat.mod_mul]

end Sys2Proof.Machine
end

