-- ==== Sys2Proof/Laws/Ordering.lean ====
section
/-! SUPPORT. What a write on its way out, a release and an acquire can change, said once. -/

namespace Sys2Proof.Machine

/-- Two states that differ at most in the memories, their poison marks, the cores and the raster batches. -/
def SameButStores (s t : State) : Prop :=
  ∃ cs m h p pb q k rs,
    t = { s with cores := cs, mem := m, hostMem := h, peerMem := p, peerBad := pb, poison := q, poisonCode := k, rasters := rs }

theorem SameButStores.refl (s : State) : SameButStores s s :=
  ⟨s.cores, s.mem, s.hostMem, s.peerMem, s.peerBad, s.poison, s.poisonCode, s.rasters, rfl⟩

theorem SameButStores.trans {s t u : State} (h : SameButStores s t) (k : SameButStores t u) : SameButStores s u := by
  obtain ⟨_, _, _, _, _, _, _, _, rfl⟩ := h
  obtain ⟨_, _, _, _, _, _, _, _, rfl⟩ := k
  exact ⟨_, _, _, _, _, _, _, _, rfl⟩

theorem SameButStores.groups {s t : State} (h : SameButStores s t) : t.groups = s.groups := by obtain ⟨_, _, _, _, _, _, _, _, rfl⟩ := h; rfl
theorem SameButStores.blocks {s t : State} (h : SameButStores s t) : t.blocks = s.blocks := by obtain ⟨_, _, _, _, _, _, _, _, rfl⟩ := h; rfl
theorem SameButStores.batches {s t : State} (h : SameButStores s t) : t.batches = s.batches := by obtain ⟨_, _, _, _, _, _, _, _, rfl⟩ := h; rfl
theorem SameButStores.contexts {s t : State} (h : SameButStores s t) : t.contexts = s.contexts := by obtain ⟨_, _, _, _, _, _, _, _, rfl⟩ := h; rfl

theorem modCore_sameButStores (s : State) (n : Nat) (f : Core → Core) : SameButStores s (s.modCore n f) :=
  ⟨_, s.mem, s.hostMem, s.peerMem, s.peerBad, s.poison, s.poisonCode, s.rasters, rfl⟩

theorem writeTarget_sameButStores (s : State) (t : Target) (bs : List Byte) : SameButStores s (writeTarget s t bs) := by
  cases t <;> exact ⟨_, _, _, _, _, _, _, _, rfl⟩

/-- A sector that a word has written whole is clear (R454). -/
theorem clearSector_sameButStores (n : Nat) (w : PendWrite) (s : State) (x : Nat) : SameButStores s (clearSector n w s x) := by
  unfold clearSector
  split
  · exact .refl s
  · dsimp only
    repeat' split
    all_goals first | exact .refl s | exact ⟨_, _, _, _, _, _, _, _, rfl⟩

theorem foldl_clearSector_sameButStores (n : Nat) (w : PendWrite) (xs : List Nat) (s : State) :
    SameButStores s (xs.foldl (clearSector n w) s) := by
  induction xs generalizing s with
  | nil => exact .refl s
  | cons x xs ih => exact (clearSector_sameButStores n w s x).trans (ih _)

/-- A write performed at its home leaves its core and changes memory (R137). -/
theorem performWrite_sameButStores (s : State) (n : Nat) (w : PendWrite) : SameButStores s (performWrite s n w) :=
  ((modCore_sameButStores s n _).trans (writeTarget_sameButStores _ _ _)).trans (foldl_clearSector_sameButStores _ _ _ _)

theorem foldl_performWrite_sameButStores (n : Nat) (ws : List PendWrite) (s : State) :
    SameButStores s (ws.foldl (fun s w => performWrite s n w) s) := by
  induction ws generalizing s with
  | nil => exact .refl s
  | cons w ws ih => exact (performWrite_sameButStores s n w).trans (ih _)

theorem performSome_sameButStores (s : State) (n : Nat) (pick : PendWrite → Bool) : SameButStores s (performSome s n pick) := by
  unfold performSome
  split
  · exact .refl s
  · exact foldl_performWrite_sameButStores n _ s

/-- What a fibre's release and acquire do to the raster batches that it follows (R161). -/
theorem relDraws_sameButStores (s : State) (gid lane : Nat) (sc : Scope) : SameButStores s (relDraws s gid lane sc) := by
  unfold relDraws
  split
  · exact .refl s
  · exact ⟨_, _, _, _, _, _, _, _, rfl⟩

theorem acqDraws_sameButStores (s : State) (gid lane : Nat) (sc : Scope) : SameButStores s (acqDraws s gid lane sc) := by
  unfold acqDraws
  split
  · exact .refl s
  · exact ⟨_, _, _, _, _, _, _, _, rfl⟩

/-- A release at group or block scope performs no write (R137, R144). -/
theorem releaseAt_narrow (s : State) (core ctx gid lane : Nat) {sc : Scope} (h : sc.rank < 2) :
    releaseAt s core ctx gid lane sc = relDraws s gid lane sc := by
  simp [releaseAt, h]

theorem releaseAt_sameButStores (s : State) (core ctx gid lane : Nat) (sc : Scope) : SameButStores s (releaseAt s core ctx gid lane sc) := by
  unfold releaseAt
  dsimp only
  split
  · exact relDraws_sameButStores s gid lane sc
  · exact (relDraws_sameButStores s gid lane sc).trans (performSome_sameButStores _ core _)

/-- An acquire touches its own core and the raster batches alone (R144, R145, R161). -/
theorem acquireAt_sameButStores (s : State) (core ctx gid lane : Nat) (sc : Scope) : SameButStores s (acquireAt s core ctx gid lane sc) :=
  (acqDraws_sameButStores s gid lane sc).trans (modCore_sameButStores _ core _)

end Sys2Proof.Machine
end

