-- ==== Sys2Proof/Laws/PerInstr.lean ====
section
/-! SUPPORT. The statements made per instruction: the opcode map leads back from each row to its instruction. -/

namespace Sys2Proof.Laws

open Sys2Proof.Machine

/-- The row an instruction stands in has an opcode that decoding leads back to that instruction with the same fields; a matrix-stream
word's opcode is one of the eight (R63, R65, R92, R282). -/
def OpcodeBack.Statement (i : Instr) : Prop :=
  i.WellFormed = true →
    match formOf i with
    | .full r f => ofOp r.op f = some i
    | .matrix op _ => 0xE0 ≤ op ∧ op ≤ 0xE7
    | .dual .. | .event => True

theorem OpcodeBack.nop (f : Fields) : OpcodeBack.Statement (.nop f) := fun _ => rfl
theorem OpcodeBack.next (f : Fields) : OpcodeBack.Statement (.next f) := fun _ => rfl
theorem OpcodeBack.nextp (f : Fields) : OpcodeBack.Statement (.nextp f) := fun _ => rfl
theorem OpcodeBack.nextx (f : Fields) : OpcodeBack.Statement (.nextx f) := fun _ => rfl
theorem OpcodeBack.call (f : Fields) : OpcodeBack.Statement (.call f) := fun _ => rfl
theorem OpcodeBack.ret (f : Fields) : OpcodeBack.Statement (.ret f) := fun _ => rfl
theorem OpcodeBack.fork (f : Fields) : OpcodeBack.Statement (.fork f) := fun _ => rfl
theorem OpcodeBack.quit (f : Fields) : OpcodeBack.Statement (.quit f) := fun _ => rfl
theorem OpcodeBack.loop (f : Fields) : OpcodeBack.Statement (.loop f) := fun _ => rfl
theorem OpcodeBack.loopPassEnd (batch : Nat) : OpcodeBack.Statement (.loopPassEnd batch) := fun _ => trivial
theorem OpcodeBack.rep (f : Fields) : OpcodeBack.Statement (.rep f) := fun _ => rfl
theorem OpcodeBack.bar (f : Fields) : OpcodeBack.Statement (.bar f) := fun _ => rfl
theorem OpcodeBack.bara (f : Fields) : OpcodeBack.Statement (.bara f) := fun _ => rfl
theorem OpcodeBack.barw (f : Fields) : OpcodeBack.Statement (.barw f) := fun _ => rfl
theorem OpcodeBack.elect (f : Fields) : OpcodeBack.Statement (.elect f) := fun _ => rfl
theorem OpcodeBack.vote (f : Fields) : OpcodeBack.Statement (.vote f) := fun _ => rfl
theorem OpcodeBack.plop (f : Fields) : OpcodeBack.Statement (.plop f) := fun _ => rfl
theorem OpcodeBack.pmov (f : Fields) : OpcodeBack.Statement (.pmov f) := fun _ => rfl
theorem OpcodeBack.yield (f : Fields) : OpcodeBack.Statement (.yield f) := fun _ => rfl
theorem OpcodeBack.sleep (f : Fields) : OpcodeBack.Statement (.sleep f) := fun _ => rfl
theorem OpcodeBack.sleepEnd (batch : Nat) : OpcodeBack.Statement (.sleepEnd batch) := fun _ => trivial
theorem OpcodeBack.live (f : Fields) : OpcodeBack.Statement (.live f) := fun _ => rfl
theorem OpcodeBack.batchForm (core : Nat) (sched : Nat) : OpcodeBack.Statement (.batchForm core sched) := fun _ => trivial
theorem OpcodeBack.batchIssue (core : Nat) (sched : Nat) : OpcodeBack.Statement (.batchIssue core sched) := fun _ => trivial
theorem OpcodeBack.starvedEntryIssue (core : Nat) (sched : Nat) : OpcodeBack.Statement (.starvedEntryIssue core sched) := fun _ => trivial
theorem OpcodeBack.variableLatencyResult (gid : Nat) (seq : Nat) (lanes : Mask) : OpcodeBack.Statement (.variableLatencyResult gid seq lanes) := fun _ => trivial
theorem OpcodeBack.iadd (f : Fields) : OpcodeBack.Statement (.iadd f) := fun _ => rfl
theorem OpcodeBack.isub (f : Fields) : OpcodeBack.Statement (.isub f) := fun _ => rfl
theorem OpcodeBack.iaddc (f : Fields) : OpcodeBack.Statement (.iaddc f) := fun _ => rfl
theorem OpcodeBack.imul (f : Fields) : OpcodeBack.Statement (.imul f) := fun _ => rfl
theorem OpcodeBack.imulh (f : Fields) : OpcodeBack.Statement (.imulh f) := fun _ => rfl
theorem OpcodeBack.imad (f : Fields) : OpcodeBack.Statement (.imad f) := fun _ => rfl
theorem OpcodeBack.imadw (f : Fields) : OpcodeBack.Statement (.imadw f) := fun _ => rfl
theorem OpcodeBack.iabs (f : Fields) : OpcodeBack.Statement (.iabs f) := fun _ => rfl
theorem OpcodeBack.imin (f : Fields) : OpcodeBack.Statement (.imin f) := fun _ => rfl
theorem OpcodeBack.imax (f : Fields) : OpcodeBack.Statement (.imax f) := fun _ => rfl
theorem OpcodeBack.idiv (f : Fields) : OpcodeBack.Statement (.idiv f) := fun _ => rfl
theorem OpcodeBack.irem (f : Fields) : OpcodeBack.Statement (.irem f) := fun _ => rfl
theorem OpcodeBack.icmp (f : Fields) : OpcodeBack.Statement (.icmp f) := fun _ => rfl
theorem OpcodeBack.sel (f : Fields) : OpcodeBack.Statement (.sel f) := fun _ => rfl
theorem OpcodeBack.and (f : Fields) : OpcodeBack.Statement (.and f) := fun _ => rfl
theorem OpcodeBack.or (f : Fields) : OpcodeBack.Statement (.or f) := fun _ => rfl
theorem OpcodeBack.xor (f : Fields) : OpcodeBack.Statement (.xor f) := fun _ => rfl
theorem OpcodeBack.andn (f : Fields) : OpcodeBack.Statement (.andn f) := fun _ => rfl
theorem OpcodeBack.tern (f : Fields) : OpcodeBack.Statement (.tern f) := fun _ => rfl
theorem OpcodeBack.shl (f : Fields) : OpcodeBack.Statement (.shl f) := fun _ => rfl
theorem OpcodeBack.shr (f : Fields) : OpcodeBack.Statement (.shr f) := fun _ => rfl
theorem OpcodeBack.sar (f : Fields) : OpcodeBack.Statement (.sar f) := fun _ => rfl
theorem OpcodeBack.rot (f : Fields) : OpcodeBack.Statement (.rot f) := fun _ => rfl
theorem OpcodeBack.funnel (f : Fields) : OpcodeBack.Statement (.funnel f) := fun _ => rfl
theorem OpcodeBack.bfe (f : Fields) : OpcodeBack.Statement (.bfe f) := fun _ => rfl
theorem OpcodeBack.bfi (f : Fields) : OpcodeBack.Statement (.bfi f) := fun _ => rfl
theorem OpcodeBack.brev (f : Fields) : OpcodeBack.Statement (.brev f) := fun _ => rfl
theorem OpcodeBack.popc (f : Fields) : OpcodeBack.Statement (.popc f) := fun _ => rfl
theorem OpcodeBack.clz (f : Fields) : OpcodeBack.Statement (.clz f) := fun _ => rfl
theorem OpcodeBack.ctz (f : Fields) : OpcodeBack.Statement (.ctz f) := fun _ => rfl
theorem OpcodeBack.bperm (f : Fields) : OpcodeBack.Statement (.bperm f) := fun _ => rfl
theorem OpcodeBack.isad (f : Fields) : OpcodeBack.Statement (.isad f) := fun _ => rfl
theorem OpcodeBack.idot (f : Fields) : OpcodeBack.Statement (.idot f) := fun _ => rfl
theorem OpcodeBack.pack (f : Fields) : OpcodeBack.Statement (.pack f) := fun _ => rfl
theorem OpcodeBack.unpack (f : Fields) : OpcodeBack.Statement (.unpack f) := fun _ => rfl
theorem OpcodeBack.mov (f : Fields) : OpcodeBack.Statement (.mov f) := fun _ => rfl
theorem OpcodeBack.movi (f : Fields) : OpcodeBack.Statement (.movi f) := fun _ => rfl
theorem OpcodeBack.lea (f : Fields) : OpcodeBack.Statement (.lea f) := fun _ => rfl
theorem OpcodeBack.hrand (f : Fields) : OpcodeBack.Statement (.hrand f) := fun _ => rfl
theorem OpcodeBack.lxch (f : Fields) : OpcodeBack.Statement (.lxch f) := fun _ => rfl
theorem OpcodeBack.lxor (f : Fields) : OpcodeBack.Statement (.lxor f) := fun _ => rfl
theorem OpcodeBack.lbcast (f : Fields) : OpcodeBack.Statement (.lbcast f) := fun _ => rfl
theorem OpcodeBack.qxch (f : Fields) : OpcodeBack.Statement (.qxch f) := fun _ => rfl
theorem OpcodeBack.qddx (f : Fields) : OpcodeBack.Statement (.qddx f) := fun _ => rfl
theorem OpcodeBack.qddy (f : Fields) : OpcodeBack.Statement (.qddy f) := fun _ => rfl
theorem OpcodeBack.lreduce (f : Fields) : OpcodeBack.Statement (.lreduce f) := fun _ => rfl
theorem OpcodeBack.lscan (f : Fields) : OpcodeBack.Statement (.lscan f) := fun _ => rfl
theorem OpcodeBack.kget (f : Fields) : OpcodeBack.Statement (.kget f) := fun _ => rfl
theorem OpcodeBack.helper (f : Fields) : OpcodeBack.Statement (.helper f) := fun _ => rfl
theorem OpcodeBack.subswz (f : Fields) : OpcodeBack.Statement (.subswz f) := fun _ => rfl
theorem OpcodeBack.fadd (f : Fields) : OpcodeBack.Statement (.fadd f) := fun _ => rfl
theorem OpcodeBack.fsub (f : Fields) : OpcodeBack.Statement (.fsub f) := fun _ => rfl
theorem OpcodeBack.fmul (f : Fields) : OpcodeBack.Statement (.fmul f) := fun _ => rfl
theorem OpcodeBack.fma (f : Fields) : OpcodeBack.Statement (.fma f) := fun _ => rfl
theorem OpcodeBack.fmin (f : Fields) : OpcodeBack.Statement (.fmin f) := fun _ => rfl
theorem OpcodeBack.fmax (f : Fields) : OpcodeBack.Statement (.fmax f) := fun _ => rfl
theorem OpcodeBack.fminn (f : Fields) : OpcodeBack.Statement (.fminn f) := fun _ => rfl
theorem OpcodeBack.fmaxn (f : Fields) : OpcodeBack.Statement (.fmaxn f) := fun _ => rfl
theorem OpcodeBack.fcmp (f : Fields) : OpcodeBack.Statement (.fcmp f) := fun _ => rfl
theorem OpcodeBack.fclass (f : Fields) : OpcodeBack.Statement (.fclass f) := fun _ => rfl
theorem OpcodeBack.fneg (f : Fields) : OpcodeBack.Statement (.fneg f) := fun _ => rfl
theorem OpcodeBack.fabs (f : Fields) : OpcodeBack.Statement (.fabs f) := fun _ => rfl
theorem OpcodeBack.frint (f : Fields) : OpcodeBack.Statement (.frint f) := fun _ => rfl
theorem OpcodeBack.ffract (f : Fields) : OpcodeBack.Statement (.ffract f) := fun _ => rfl
theorem OpcodeBack.fldexp (f : Fields) : OpcodeBack.Statement (.fldexp f) := fun _ => rfl
theorem OpcodeBack.ffrexp (f : Fields) : OpcodeBack.Statement (.ffrexp f) := fun _ => rfl
theorem OpcodeBack.frcp (f : Fields) : OpcodeBack.Statement (.frcp f) := fun _ => rfl
theorem OpcodeBack.frsq (f : Fields) : OpcodeBack.Statement (.frsq f) := fun _ => rfl
theorem OpcodeBack.fsqrt (f : Fields) : OpcodeBack.Statement (.fsqrt f) := fun _ => rfl
theorem OpcodeBack.fdiv (f : Fields) : OpcodeBack.Statement (.fdiv f) := fun _ => rfl
theorem OpcodeBack.fexp2 (f : Fields) : OpcodeBack.Statement (.fexp2 f) := fun _ => rfl
theorem OpcodeBack.flog2 (f : Fields) : OpcodeBack.Statement (.flog2 f) := fun _ => rfl
theorem OpcodeBack.fsin (f : Fields) : OpcodeBack.Statement (.fsin f) := fun _ => rfl
theorem OpcodeBack.fcos (f : Fields) : OpcodeBack.Statement (.fcos f) := fun _ => rfl
theorem OpcodeBack.cvt (f : Fields) : OpcodeBack.Statement (.cvt f) := fun _ => rfl
theorem OpcodeBack.cvt8 (f : Fields) : OpcodeBack.Statement (.cvt8 f) := fun _ => rfl
theorem OpcodeBack.fdot2 (f : Fields) : OpcodeBack.Statement (.fdot2 f) := fun _ => rfl
theorem OpcodeBack.scacc (f : Fields) : OpcodeBack.Statement (.scacc f) := fun _ => rfl
theorem OpcodeBack.ivadd (f : Fields) : OpcodeBack.Statement (.ivadd f) := fun _ => rfl
theorem OpcodeBack.ivsub (f : Fields) : OpcodeBack.Statement (.ivsub f) := fun _ => rfl
theorem OpcodeBack.ivmul (f : Fields) : OpcodeBack.Statement (.ivmul f) := fun _ => rfl
theorem OpcodeBack.ivdiv (f : Fields) : OpcodeBack.Statement (.ivdiv f) := fun _ => rfl
theorem OpcodeBack.ivsqr (f : Fields) : OpcodeBack.Statement (.ivsqr f) := fun _ => rfl
theorem OpcodeBack.ivsqrt (f : Fields) : OpcodeBack.Statement (.ivsqrt f) := fun _ => rfl
theorem OpcodeBack.ivmin (f : Fields) : OpcodeBack.Statement (.ivmin f) := fun _ => rfl
theorem OpcodeBack.ivmax (f : Fields) : OpcodeBack.Statement (.ivmax f) := fun _ => rfl
theorem OpcodeBack.ivabs (f : Fields) : OpcodeBack.Statement (.ivabs f) := fun _ => rfl
theorem OpcodeBack.ivhull (f : Fields) : OpcodeBack.Statement (.ivhull f) := fun _ => rfl
theorem OpcodeBack.ivmake (f : Fields) : OpcodeBack.Statement (.ivmake f) := fun _ => rfl
theorem OpcodeBack.ivsplit (f : Fields) : OpcodeBack.Statement (.ivsplit f) := fun _ => rfl
theorem OpcodeBack.ivtest (f : Fields) : OpcodeBack.Statement (.ivtest f) := fun _ => rfl
theorem OpcodeBack.ivmid (f : Fields) : OpcodeBack.Statement (.ivmid f) := fun _ => rfl
theorem OpcodeBack.dualWord (safe : Bool) (a : Half) (b : Half) : OpcodeBack.Statement (.dualWord safe a b) := fun _ => trivial
theorem OpcodeBack.ld (f : Fields) : OpcodeBack.Statement (.ld f) := fun _ => rfl
theorem OpcodeBack.st (f : Fields) : OpcodeBack.Statement (.st f) := fun _ => rfl
theorem OpcodeBack.lds (f : Fields) : OpcodeBack.Statement (.lds f) := fun _ => rfl
theorem OpcodeBack.sts (f : Fields) : OpcodeBack.Statement (.sts f) := fun _ => rfl
theorem OpcodeBack.ldp (f : Fields) : OpcodeBack.Statement (.ldp f) := fun _ => rfl
theorem OpcodeBack.stp (f : Fields) : OpcodeBack.Statement (.stp f) := fun _ => rfl
theorem OpcodeBack.ldrs (f : Fields) : OpcodeBack.Statement (.ldrs f) := fun _ => rfl
theorem OpcodeBack.strs (f : Fields) : OpcodeBack.Statement (.strs f) := fun _ => rfl
theorem OpcodeBack.atom (f : Fields) : OpcodeBack.Statement (.atom f) := fun _ => rfl
theorem OpcodeBack.red (f : Fields) : OpcodeBack.Statement (.red f) := fun _ => rfl
theorem OpcodeBack.satom (f : Fields) : OpcodeBack.Statement (.satom f) := fun _ => rfl
theorem OpcodeBack.cas (f : Fields) : OpcodeBack.Statement (.cas f) := fun _ => rfl
theorem OpcodeBack.fence (f : Fields) : OpcodeBack.Statement (.fence f) := fun _ => rfl
theorem OpcodeBack.fencero (f : Fields) : OpcodeBack.Statement (.fencero f) := fun _ => rfl
theorem OpcodeBack.pref (f : Fields) : OpcodeBack.Statement (.pref f) := fun _ => rfl
theorem OpcodeBack.ipref (f : Fields) : OpcodeBack.Statement (.ipref f) := fun _ => rfl
theorem OpcodeBack.fetch (f : Fields) : OpcodeBack.Statement (.fetch f) := fun _ => rfl
theorem OpcodeBack.fetch3 (f : Fields) : OpcodeBack.Statement (.fetch3 f) := fun _ => rfl
theorem OpcodeBack.sopen (f : Fields) : OpcodeBack.Statement (.sopen f) := fun _ => rfl
theorem OpcodeBack.sadv (f : Fields) : OpcodeBack.Statement (.sadv f) := fun _ => rfl
theorem OpcodeBack.stest (f : Fields) : OpcodeBack.Statement (.stest f) := fun _ => rfl
theorem OpcodeBack.sclose (f : Fields) : OpcodeBack.Statement (.sclose f) := fun _ => rfl
theorem OpcodeBack.sisect (f : Fields) : OpcodeBack.Statement (.sisect f) := fun _ => rfl
theorem OpcodeBack.smerge (f : Fields) : OpcodeBack.Statement (.smerge f) := fun _ => rfl
theorem OpcodeBack.sget (f : Fields) : OpcodeBack.Statement (.sget f) := fun _ => rfl
theorem OpcodeBack.streamSettle (gid : Nat) (lane : Nat) (q : Nat) : OpcodeBack.Statement (.streamSettle gid lane q) := fun _ => trivial
theorem OpcodeBack.icacheFill (core : Nat) : OpcodeBack.Statement (.icacheFill core) := fun _ => trivial
theorem OpcodeBack.privateLineWriteback (gid : Nat) (line : Nat) : OpcodeBack.Statement (.privateLineWriteback gid line) := fun _ => trivial
theorem OpcodeBack.qput (f : Fields) : OpcodeBack.Statement (.qput f) := fun _ => rfl
theorem OpcodeBack.qputSlotPublish (gid : Nat) (seq : Nat) : OpcodeBack.Statement (.qputSlotPublish gid seq) := fun _ => trivial
theorem OpcodeBack.wpget (f : Fields) : OpcodeBack.Statement (.wpget f) := fun _ => rfl
theorem OpcodeBack.tbinit (f : Fields) : OpcodeBack.Statement (.tbinit f) := fun _ => rfl
theorem OpcodeBack.tbarr (f : Fields) : OpcodeBack.Statement (.tbarr f) := fun _ => rfl
theorem OpcodeBack.tbwait (f : Fields) : OpcodeBack.Statement (.tbwait f) := fun _ => rfl
theorem OpcodeBack.cpePacketAccept (ctx : Nat) (header : Nat) : OpcodeBack.Statement (.cpePacketAccept ctx header) := fun _ => trivial
theorem OpcodeBack.channelPacketStart (ctx : Nat) (cluster : Nat) (chan : Nat) : OpcodeBack.Statement (.channelPacketStart ctx cluster chan) := fun _ => trivial
theorem OpcodeBack.copySectorDeliver (ctx : Nat) (cluster : Nat) (chan : Nat) : OpcodeBack.Statement (.copySectorDeliver ctx cluster chan) := fun _ => trivial
theorem OpcodeBack.copyComplete (ctx : Nat) (cluster : Nat) (chan : Nat) : OpcodeBack.Statement (.copyComplete ctx cluster chan) := fun _ => trivial
theorem OpcodeBack.mbara (f : Fields) : OpcodeBack.Statement (.mbara f) := fun _ => rfl
theorem OpcodeBack.mbarw (f : Fields) : OpcodeBack.Statement (.mbarw f) := fun _ => rfl
theorem OpcodeBack.mmove (f : Fields) : OpcodeBack.Statement (.mmove f) := fun _ => rfl
theorem OpcodeBack.mstart (f : Fields) : OpcodeBack.Statement (.mstart f) := fun _ => rfl
theorem OpcodeBack.mzero (x : MZero) : OpcodeBack.Statement (.mzero x) := fun _ => ⟨by decide, by decide⟩
theorem OpcodeBack.mbload (x : MBLoad) : OpcodeBack.Statement (.mbload x) := fun _ => ⟨by decide, by decide⟩
theorem OpcodeBack.mmul (x : MMul) : OpcodeBack.Statement (.mmul x) := fun _ => ⟨by decide, by decide⟩
theorem OpcodeBack.mstore (x : MStore) : OpcodeBack.Statement (.mstore x) := fun _ => ⟨by decide, by decide⟩
theorem OpcodeBack.mwait (n : BitVec 4) : OpcodeBack.Statement (.mwait n) := fun _ => ⟨by decide, by decide⟩
theorem OpcodeBack.marrive (n : BitVec 4) (count : BitVec 6) : OpcodeBack.Statement (.marrive n count) := fun _ => ⟨by decide, by decide⟩
theorem OpcodeBack.mloop (x : MLoop) : OpcodeBack.Statement (.mloop x) := fun _ => ⟨by decide, by decide⟩
theorem OpcodeBack.mloopPassEnd (bid : Nat) : OpcodeBack.Statement (.mloopPassEnd bid) := fun _ => trivial
theorem OpcodeBack.matrixBarrierTurn (bid : Nat) (n : Nat) : OpcodeBack.Statement (.matrixBarrierTurn bid n) := fun _ => trivial
theorem OpcodeBack.march (f : Fields) : OpcodeBack.Statement (.march f) := fun _ => rfl
theorem OpcodeBack.raySpanEval (core : Nat) (slot : Nat) : OpcodeBack.Statement (.raySpanEval core slot) := fun _ => trivial
theorem OpcodeBack.rayJobEnd (core : Nat) (slot : Nat) : OpcodeBack.Statement (.rayJobEnd core slot) := fun _ => trivial
theorem OpcodeBack.opaqueReply (core : Nat) (slot : Nat) : OpcodeBack.Statement (.opaqueReply core slot) := fun _ => trivial
theorem OpcodeBack.prune (f : Fields) : OpcodeBack.Statement (.prune f) := fun _ => rfl
theorem OpcodeBack.rdraw (f : Fields) : OpcodeBack.Statement (.rdraw f) := fun _ => rfl
theorem OpcodeBack.rasterTriangle (cluster : Nat) : OpcodeBack.Statement (.rasterTriangle cluster) := fun _ => trivial
theorem OpcodeBack.fragmentRecordAppend (cluster : Nat) : OpcodeBack.Statement (.fragmentRecordAppend cluster) := fun _ => trivial
theorem OpcodeBack.rrel (f : Fields) : OpcodeBack.Statement (.rrel f) := fun _ => rfl
theorem OpcodeBack.enq (f : Fields) : OpcodeBack.Statement (.enq f) := fun _ => rfl
theorem OpcodeBack.enqWaitSuspend (batch : Nat) : OpcodeBack.Statement (.enqWaitSuspend batch) := fun _ => trivial
theorem OpcodeBack.deq (f : Fields) : OpcodeBack.Statement (.deq f) := fun _ => rfl
theorem OpcodeBack.evsig (f : Fields) : OpcodeBack.Statement (.evsig f) := fun _ => rfl
theorem OpcodeBack.evwait (f : Fields) : OpcodeBack.Statement (.evwait f) := fun _ => rfl
theorem OpcodeBack.evwaitSuspend (batch : Nat) : OpcodeBack.Statement (.evwaitSuspend batch) := fun _ => trivial
theorem OpcodeBack.eventWaiterRelease (batch : Nat) : OpcodeBack.Statement (.eventWaiterRelease batch) := fun _ => trivial
theorem OpcodeBack.suspend (f : Fields) : OpcodeBack.Statement (.suspend f) := fun _ => rfl
theorem OpcodeBack.spawn (f : Fields) : OpcodeBack.Statement (.spawn f) := fun _ => rfl
theorem OpcodeBack.dcdec (f : Fields) : OpcodeBack.Statement (.dcdec f) := fun _ => rfl
theorem OpcodeBack.continuationResume (ctx : Nat) (record : Nat) : OpcodeBack.Statement (.continuationResume ctx record) := fun _ => trivial
theorem OpcodeBack.trap (f : Fields) : OpcodeBack.Statement (.trap f) := fun _ => rfl
theorem OpcodeBack.rft (f : Fields) : OpcodeBack.Statement (.rft f) := fun _ => rfl
theorem OpcodeBack.sread (f : Fields) : OpcodeBack.Statement (.sread f) := fun _ => rfl
theorem OpcodeBack.swrite (f : Fields) : OpcodeBack.Statement (.swrite f) := fun _ => rfl
theorem OpcodeBack.publish (f : Fields) : OpcodeBack.Statement (.publish f) := fun _ => rfl
theorem OpcodeBack.pmcapStart (f : Fields) : OpcodeBack.Statement (.pmcapStart f) := by
  intro h
  have e : f.sc = 0#9 := by
    by_cases c : f.sc = 0#9
    · exact c
    · have r : rowFieldErr (.pmcapStart f) = true := by simp [rowFieldErr, c]
      have k : checkInstr (.pmcapStart f) = some .illegalField := by
        unfold checkInstr
        simp only [r, Bool.or_true, if_true, formOf]
      simp [Instr.WellFormed, k] at h
  show some (if f.sc.getLsbD 0 then Instr.pmcapStop f else .pmcapStart f) = _
  rw [e]
  rfl
theorem OpcodeBack.pmcapStop (f : Fields) : OpcodeBack.Statement (.pmcapStop f) := by
  intro h
  have e : f.sc = 1#9 := by
    by_cases c : f.sc = 1#9
    · exact c
    · have r : rowFieldErr (.pmcapStop f) = true := by simp [rowFieldErr, c]
      have k : checkInstr (.pmcapStop f) = some .illegalField := by
        unfold checkInstr
        simp only [r, Bool.or_true, if_true, formOf]
      simp [Instr.WellFormed, k] at h
  show some (if f.sc.getLsbD 0 then Instr.pmcapStop f else .pmcapStart f) = _
  rw [e]
  rfl
theorem OpcodeBack.brk (f : Fields) : OpcodeBack.Statement (.brk f) := fun _ => rfl
theorem OpcodeBack.time (f : Fields) : OpcodeBack.Statement (.time f) := fun _ => rfl
theorem OpcodeBack.erd (f : Fields) : OpcodeBack.Statement (.erd f) := fun _ => rfl
theorem OpcodeBack.dbgmb (f : Fields) : OpcodeBack.Statement (.dbgmb f) := fun _ => rfl
theorem OpcodeBack.launchAccept (ctx : Nat) (header : Nat) : OpcodeBack.Statement (.launchAccept ctx header) := fun _ => trivial
theorem OpcodeBack.carveOutChange (core : Nat) : OpcodeBack.Statement (.carveOutChange core) := fun _ => trivial
theorem OpcodeBack.launchComplete (lid : Nat) : OpcodeBack.Statement (.launchComplete lid) := fun _ => trivial
theorem OpcodeBack.stageEnd (pipe : Nat) (stage : Nat) : OpcodeBack.Statement (.stageEnd pipe stage) := fun _ => trivial
theorem OpcodeBack.pageWalk (ctx : Nat) (va : Nat) (access : Access) : OpcodeBack.Statement (.pageWalk ctx va access) := fun _ => trivial
theorem OpcodeBack.trapTake (gid : Nat) : OpcodeBack.Statement (.trapTake gid) := fun _ => trivial
theorem OpcodeBack.hostBar2Write (pa : Nat) (bytes : List Byte) : OpcodeBack.Statement (.hostBar2Write pa bytes) := fun _ => trivial
theorem OpcodeBack.hostBar2Read (pa : Nat) (n : Nat) : OpcodeBack.Statement (.hostBar2Read pa n) := fun _ => trivial
theorem OpcodeBack.hostAtomicop (op : HostAtomic) (pa : Nat) (size : Nat) (a : Nat) (b : Nat) : OpcodeBack.Statement (.hostAtomicop op pa size a b) := fun _ => trivial
theorem OpcodeBack.peerRequest (r : PeerReq) : OpcodeBack.Statement (.peerRequest r) := fun _ => trivial
theorem OpcodeBack.hostRegisterWrite (off : Nat) (value : Word) : OpcodeBack.Statement (.hostRegisterWrite off value) := fun _ => trivial
theorem OpcodeBack.engineStopAck (ctx : Nat) (e : EngineId) : OpcodeBack.Statement (.engineStopAck ctx e) := fun _ => trivial
theorem OpcodeBack.groupStopTimeout (gid : Nat) : OpcodeBack.Statement (.groupStopTimeout gid) := fun _ => trivial
theorem OpcodeBack.contextStopped (ctx : Nat) : OpcodeBack.Statement (.contextStopped ctx) := fun _ => trivial
theorem OpcodeBack.perstDeassert (image : List Byte) (trained : Bool) : OpcodeBack.Statement (.perstDeassert image trained) := fun _ => trivial
theorem OpcodeBack.eccCorrected (code : Nat) : OpcodeBack.Statement (.eccCorrected code) := fun _ => trivial
theorem OpcodeBack.eccUncorrectable (code : Nat) (ctx : Nat) (place : EccPlace) : OpcodeBack.Statement (.eccUncorrectable code ctx place) := fun _ => trivial
theorem OpcodeBack.linkDown (port : Nat) : OpcodeBack.Statement (.linkDown port) := fun _ => trivial
theorem OpcodeBack.haltWaveReceive (job : Nat) (t : TrigRec) (port : Nat) : OpcodeBack.Statement (.haltWaveReceive job t port) := fun _ => trivial
theorem OpcodeBack.jobFrozen (job : Nat) : OpcodeBack.Statement (.jobFrozen job) := fun _ => trivial
theorem OpcodeBack.resumeWaveReceive (job : Nat) (release : Nat) (port : Nat) : OpcodeBack.Statement (.resumeWaveReceive job release port) := fun _ => trivial
theorem OpcodeBack.haltRelease (job : Nat) : OpcodeBack.Statement (.haltRelease job) := fun _ => trivial
theorem OpcodeBack.traceSync (gid : Nat) : OpcodeBack.Statement (.traceSync gid) := fun _ => trivial
theorem OpcodeBack.profTag (core : Nat) (sched : Nat) : OpcodeBack.Statement (.profTag core sched) := fun _ => trivial
theorem OpcodeBack.matrixOpComplete (bid : Nat) (seq : Nat) : OpcodeBack.Statement (.matrixOpComplete bid seq) := fun _ => trivial
theorem OpcodeBack.matrixStreamWordFetch (bid : Nat) : OpcodeBack.Statement (.matrixStreamWordFetch bid) := fun _ => trivial
theorem OpcodeBack.writePerformedAtScope (core : Nat) (index : Nat) : OpcodeBack.Statement (.writePerformedAtScope core index) := fun _ => trivial
theorem OpcodeBack.mend : OpcodeBack.Statement .mend := fun _ => ⟨by decide, by decide⟩
theorem OpcodeBack.blockAdmit : OpcodeBack.Statement .blockAdmit := fun _ => trivial
theorem OpcodeBack.balancingRoundEnd : OpcodeBack.Statement .balancingRoundEnd := fun _ => trivial
theorem OpcodeBack.faultRecordFlush : OpcodeBack.Statement .faultRecordFlush := fun _ => trivial
theorem OpcodeBack.hstatRead : OpcodeBack.Statement .hstatRead := fun _ => trivial
theorem OpcodeBack.commandDone : OpcodeBack.Statement .commandDone := fun _ => trivial
theorem OpcodeBack.ctxCreate : OpcodeBack.Statement .ctxCreate := fun _ => trivial
theorem OpcodeBack.ctxDestroy : OpcodeBack.Statement .ctxDestroy := fun _ => trivial
theorem OpcodeBack.queueReg : OpcodeBack.Statement .queueReg := fun _ => trivial
theorem OpcodeBack.queueBind : OpcodeBack.Statement .queueBind := fun _ => trivial
theorem OpcodeBack.queueUnreg : OpcodeBack.Statement .queueUnreg := fun _ => trivial
theorem OpcodeBack.tlbInval : OpcodeBack.Statement .tlbInval := fun _ => trivial
theorem OpcodeBack.faultResume : OpcodeBack.Statement .faultResume := fun _ => trivial
theorem OpcodeBack.faultFail : OpcodeBack.Statement .faultFail := fun _ => trivial
theorem OpcodeBack.sealFrames : OpcodeBack.Statement .sealFrames := fun _ => trivial
theorem OpcodeBack.unsealFrames : OpcodeBack.Statement .unsealFrames := fun _ => trivial
theorem OpcodeBack.setBudget : OpcodeBack.Statement .setBudget := fun _ => trivial
theorem OpcodeBack.ctxStop : OpcodeBack.Statement .ctxStop := fun _ => trivial
theorem OpcodeBack.ctxStart : OpcodeBack.Statement .ctxStart := fun _ => trivial
theorem OpcodeBack.ctxSetreg : OpcodeBack.Statement .ctxSetreg := fun _ => trivial
theorem OpcodeBack.thermalHigh : OpcodeBack.Statement .thermalHigh := fun _ => trivial
theorem OpcodeBack.thermalRecover : OpcodeBack.Statement .thermalRecover := fun _ => trivial
theorem OpcodeBack.thermalTrip : OpcodeBack.Statement .thermalTrip := fun _ => trivial
theorem OpcodeBack.backgroundScrub : OpcodeBack.Statement .backgroundScrub := fun _ => trivial
theorem OpcodeBack.haltArm : OpcodeBack.Statement .haltArm := fun _ => trivial
theorem OpcodeBack.haltNow : OpcodeBack.Statement .haltNow := fun _ => trivial
theorem OpcodeBack.haltResume : OpcodeBack.Statement .haltResume := fun _ => trivial
theorem OpcodeBack.dbgStuff : OpcodeBack.Statement .dbgStuff := fun _ => trivial
theorem OpcodeBack.dbgStep : OpcodeBack.Statement .dbgStep := fun _ => trivial
theorem OpcodeBack.bpSet : OpcodeBack.Statement .bpSet := fun _ => trivial
theorem OpcodeBack.wpSet : OpcodeBack.Statement .wpSet := fun _ => trivial
theorem OpcodeBack.dbgRead : OpcodeBack.Statement .dbgRead := fun _ => trivial
theorem OpcodeBack.dbgWrite : OpcodeBack.Statement .dbgWrite := fun _ => trivial
theorem OpcodeBack.haltTrigger : OpcodeBack.Statement .haltTrigger := fun _ => trivial

end Sys2Proof.Laws
end

