-- ==== Sys2Proof/Tests/Slice0.lean ====
section
/-! SUPPORT. Tests of the model's own: words and results from the encodings and worked examples, ill-formed terms, and for the
statements' hypotheses states that meet them. -/

namespace Sys2Proof.Tests

open Sys2Proof Sys2Proof.Machine

set_option maxRecDepth 40000

/-! ### Small states -/

/-- A word at issue in the one-group block of `withFetchWord`. -/
def placed (w : Nat) : State := State.reset.withFetchWord 64 w

/-- Change the groups of a state. -/
def onGroup (f : Group → Group) (s : State) : State := { s with groups := s.groups.map f }

/-- Register n of a fibre holds a value. -/
def setV (l n : Nat) (w : Word) (g : Group) : Group := g.modFibre l fun x => { x with v := x.v.set n ⟨w, true, false⟩ }

/-- Only some lanes of the one batch are there. -/
def onLanes (p : Mask) (s : State) : State :=
  { s with batches := s.batches.map fun b => { b with members := b.members.map fun m => { m with lanes := p } } }

/-- Nothing holds a word back in a state, and the state its effect begins in passes `q`. -/
def meets (i : Instr) (ready : ReadyFn) (bar : BarFn) (s : State) (q : State → Batch → Group → Mask → Bool) : Bool :=
  match issuerBatch s with
  | none => false
  | some b =>
    match b.members with
    | [m] =>
      (match (tickBatch s b).group? m.gid with
       | none => false
       | some g =>
         let p := m.present (isEnd i)
         b.wait.isNone && !satFails i && m.gid == g.gid && p != 0 && fullVerdict i ready bar (tickBatch s b) b g p == .ok
           && match (entered i s b g p).group? g.gid with
              | none => false
              | some h => (lanesOf p).all (fun l => decide (l < h.fibres.length)) && q (entered i s b g p) b h p)
    | _ => false

/-- The hypotheses of a completion statement are met. -/
def Met (i : Instr) (ready : ReadyFn) (bar : BarFn) (pre : State → Batch → Group → Mask → Prop) : Prop :=
  ∃ s b g0 p g, Alone i ready bar s b g0 p ∧ (entered i s b g0 p).group? g0.gid = some g ∧ (∀ l ∈ lanesOf p, l < g.fibres.length)
    ∧ pre (entered i s b g0 p) b g p

theorem met_of {i : Instr} {ready : ReadyFn} {bar : BarFn} {pre : State → Batch → Group → Mask → Prop} (s : State)
    (q : State → Batch → Group → Mask → Bool) (h : meets i ready bar s q = true) (hq : ∀ e b g p, q e b g p = true → pre e b g p) :
    Met i ready bar pre := by
  unfold meets at h
  split at h
  · exact absurd h (by decide)
  · rename_i b hb
    split at h
    · rename_i m hm
      split at h
      · exact absurd h (by decide)
      · rename_i g hg
        simp only [Bool.and_eq_true, beq_iff_eq, bne_iff_ne, Option.isNone_iff_eq_none] at h
        obtain ⟨⟨⟨⟨⟨hw, hs⟩, hgid⟩, hp⟩, hv⟩, h⟩ := h
        split at h
        · exact absurd h (by decide)
        · rename_i k hk
          simp only [Bool.and_eq_true, List.all_eq_true, decide_eq_true_eq] at h
          exact ⟨s, b, g, _, k, ⟨hb, hw, ⟨m, hm, hgid, rfl⟩, hp, hgid ▸ hg, by simpa using hs, hv⟩, hk, h.1, hq _ _ _ _ h.2⟩
    · exact absurd h (by decide)

/-- No precondition. -/
def anyPre : State → Batch → Group → Mask → Bool := fun _ _ _ _ => true

theorem met_always {i : Instr} {ready : ReadyFn} {bar : BarFn} (s : State) (h : meets i ready bar s anyPre = true) :
    Met i ready bar always := met_of s anyPre h fun _ _ _ _ _ => trivial

/-- The instruction of a word; NOP where there is none. -/
def word (w : Nat) : Instr := (decodeTableWord 64 w).getD (.nop default)

/-- The hypotheses of a completion statement whose precondition can be decided. -/
theorem met_dec {i : Instr} {ready : ReadyFn} {bar : BarFn} {pre : State → Batch → Group → Mask → Prop}
    [∀ e b g p, Decidable (pre e b g p)] (s : State) (h : meets i ready bar s (fun e b g p => decide (pre e b g p)) = true) :
    Met i ready bar pre :=
  met_of s _ h fun _ _ _ _ h => of_decide_eq_true h

/-- The fields of a word with a destination, three sources and a type. -/
def fw (dst sa sb sc : BitVec 9) (ty : BitVec 4) : Fields := { (default : Fields) with dst := dst, sa := sa, sb := sb, sc := sc, ty := ty }

/-- The placed context's GiB is readable and writable, its leaf accessed and dirty. -/
def rwx (s : State) : State := s.writePa (placedFrame + 0x400000) (toBytes (placedFrame + 0xCF) 8)

/-- One lane of the placed word takes part; v8 holds an address, v9 and v10 small numbers, all 16-byte aligned. -/
def oneLane : State := onGroup (fun g => setV 0 8 0x20000 (setV 0 9 16 (setV 0 10 32 { g with plimit := 4096 }))) (onLanes 1 (rwx (placed 0)))

/-- Every lane's STATUS enables every trap (R33). -/
def enableAll : State := onGroup (fun g => { g with fibres := g.fibres.map fun x => { x with status := x.status ||| 0x3E000000#64 } }) (placed 0)

/-! ### States that meet the hypotheses of the statements: words -/

theorem wit_EncodedWordDecodesBack : (Instr.iadd (fw 9 1 2 0 1)).WellFormed = true ∧ (Instr.iadd (fw 9 1 2 0 1)).isWord = true := by decide

theorem wit_FixedLatencyWordResult : fixedRes (.iadd (fw 9 1 2 0 1)) = some (resIadd (fw 9 1 2 0 1))
    ∧ Met (.iadd (fw 9 1 2 0 1)) alwaysReady noBar (fun e b g p => Quiet (.iadd (fw 9 1 2 0 1)) (resIadd (fw 9 1 2 0 1)) e b g p) :=
  ⟨rfl, met_of (placed 0) (fun e b g p => (lanesOf p).all fun l => (lanesOf p).all fun k =>
      enabledFlags (g.fibre l).status (resIadd (fw 9 1 2 0 1) (laneIn e b g (.iadd (fw 9 1 2 0 1)) k)).flags == 0) (by decide)
    (by intro e b g p h l hl k hk; simp only [List.all_eq_true, beq_iff_eq] at h; exact h l hl k hk)⟩

/-- The same for a uniform word. -/
theorem wit_FixedLatencyWordResult_uniform : isUniform (.iadd (fw 0x85 0x81 0x82 0 1)) = true
    ∧ meets (.iadd (fw 0x85 0x81 0x82 0 1)) alwaysReady noBar (placed 0) (fun e b g p => (lanesOf p).all fun l => (lanesOf p).all fun k =>
      enabledFlags (g.fibre l).status (resIadd (fw 0x85 0x81 0x82 0 1) (laneIn e b g (.iadd (fw 0x85 0x81 0x82 0 1)) k)).flags == 0) = true := by decide

/-- FMUL of an infinity by zero with every trap enabled: it is also the frame statement's other side. -/
theorem wit_EnabledFlagTrapsAfterTheResult :
    meets (.fmul (fw 9 8 2 0 6)) alwaysReady noBar (onGroup (setV 0 8 0x7F800000) enableAll) (fun e b g p => !isUniform (.fmul (fw 9 8 2 0 6))
      && (lanesOf (g.participants p (fieldsOfInstr (.fmul (fw 9 8 2 0 6))))).any fun l =>
        enabledFlags (g.fibre l).status (resFmul (fw 9 8 2 0 6) (laneIn e b g (.fmul (fw 9 8 2 0 6)) l)).flags != 0) = true := by decide

theorem wit_FixedLatencyWordFrame : stopBit (.iadd (fw 9 1 2 0 1)) = false := by decide

def visFibre : Fibre := { startFibre 128 0 with pend := [⟨5, .v 9, 77, 3⟩] }

theorem wit_PendingResultBecomesVisible : (⟨5, .v 9, 77, 3⟩ : Pend) ∈ visFibre.pend
    ∧ (∀ r ∈ visFibre.pend, r.dst = .v 9 → r ≠ ⟨5, .v 9, 77, 3⟩ → r.seq < 5) ∧ visFibre.hasDst (.v 9)
    ∧ (∀ r ∈ visFibre.pend, r.dst = .v 9 → r = ⟨5, .v 9, 77, 3⟩) := by
  refine ⟨by decide, by decide, by unfold Fibre.hasDst; decide, by decide⟩

theorem wit_VariableLatencyWordInFlight : lateRes (.idiv (fw 9 1 2 0 1)) = some (resIdiv (fw 9 1 2 0 1))
    ∧ Met (.idiv (fw 9 1 2 0 1)) alwaysReady noBar (fun _ _ g p => partLanes g p (.idiv (fw 9 1 2 0 1)) ≠ 0) :=
  ⟨rfl, met_dec (placed 0) (by decide)⟩

/-- The state a word leaves, or the one it began in. -/
def after (i : Instr) (s : State) : State := match exec i s with | .next t => t | _ => s

/-- The first word in flight of the first group. -/
def firstFlight (s : State) : Option (Group × Flight) :=
  match s.groups with
  | g :: _ => (g.flights.head?).map fun f => (g, f)
  | [] => none

/-- VARIABLE_LATENCY_RESULT of an IDIV in flight for one lane, uniform or not. -/
def lateReady (i : Instr) : Bool :=
  let s := after i oneLane
  match firstFlight s with
  | none => false
  | some (g, fl) =>
    let lane := 0
    match fl.ops.find? (fun o => o.lane == lane) with
    | none => false
    | some op =>
      (s.group? g.gid == some g) && flightMay s g.gid fl.seq && (g.flights.find? (fun e => e.seq == fl.seq) == some fl)
        && decide (g.flights.map Flight.seq).Nodup && fl.pending == laneBit lane && fl.held.isEmpty && laneFree g fl op
        && !inMask fl.void lane && !splitNow s fl lane && fl.parts.isEmpty
        && fl.kind != .deq && fl.kind != .publish && fl.kind != .prune
        && match performLane s g fl op with
          | (s1, .done outs) => !outs.isEmpty && match s1.group? g.gid with
            | none => false
            | some g1 => g1.flights == g.flights && g1.gid == g.gid && g1.held.isEmpty
              && (flagLanes fl lane).all (fun p => enabledFlags (g.fibre p.1).status p.2 == 0)
              && g.flights.all (fun e => e.seq == fl.seq || (!e.noResult && e.held.isEmpty)) && (g1.fibre lane).live
              && decide (lane < g1.fibres.length)
          | _ => false

theorem wit_VariableLatencyResultWrites : lateReady (.idiv (fw 12 8 9 0 1)) = true := by decide

theorem wit_VariableLatencyResultWrites_uniform : lateReady (.idiv (fw 0x85 0x81 0x82 0 1)) = true := by decide


theorem wit_LaneExchangeResult : Met (.lxch (fw 9 1 2 0 0)) alwaysReady noBar always ∧ Met (.lxor (fw 9 1 2 0 0)) alwaysReady noBar always
    ∧ Met (.lbcast (fw 9 1 2 0 0)) alwaysReady noBar always ∧ Met (.qxch (fw 9 1 2 0 0)) alwaysReady noBar always :=
  ⟨met_always (placed 0) (by decide), met_always (placed 0) (by decide), met_always (placed 0) (by decide), met_always (placed 0) (by decide)⟩

/-- The result function of QDDX in its statement, and of QDDY. -/
def diffFn (i : Instr) (f : Fields) (hi lo : Nat) (e : State) (b : Batch) (g : Group) : LaneIn → LaneOut := fun x =>
  outWF (subElems f x (crossVal e (srcCtx e b g) g i (x.lane / 4 * 4 + (x.lane % 4 ||| hi))) (crossVal e (srcCtx e b g) g i (x.lane / 4 * 4 + (x.lane % 4 &&& lo))))

/-- No lane raises a flag that it enables, as a test. -/
def quiet (i : Instr) (fn : State → Batch → Group → Mask → LaneIn → LaneOut) (e : State) (b : Batch) (g : Group) (p : Mask) : Bool :=
  (lanesOf p).all fun l => (lanesOf p).all fun k => enabledFlags (g.fibre l).status (fn e b g p (laneIn e b g i k)).flags == 0

theorem quiet_iff {i : Instr} {fn : State → Batch → Group → Mask → LaneIn → LaneOut} {e : State} {b : Batch} {g : Group} {p : Mask}
    (h : quiet i fn e b g p = true) : Quiet i (fn e b g p) e b g p := by
  intro l hl k hk
  simp only [quiet, List.all_eq_true, beq_iff_eq] at h
  exact h l hl k hk

theorem wit_LaneExchangeResult_differences :
    Met (.qddx (fw 9 1 0 0 6)) alwaysReady noBar (fun e b g p => Quiet (.qddx (fw 9 1 0 0 6)) (diffFn (.qddx (fw 9 1 0 0 6)) (fw 9 1 0 0 6) 1 2 e b g) e b g p)
    ∧ Met (.qddy (fw 9 1 0 0 6)) alwaysReady noBar (fun e b g p => Quiet (.qddy (fw 9 1 0 0 6)) (diffFn (.qddy (fw 9 1 0 0 6)) (fw 9 1 0 0 6) 2 1 e b g) e b g p) :=
  ⟨met_of (placed 0) (quiet (.qddx (fw 9 1 0 0 6)) fun e b g _ => diffFn (.qddx (fw 9 1 0 0 6)) (fw 9 1 0 0 6) 1 2 e b g) (by decide) fun _ _ _ _ h => quiet_iff h,
   met_of (placed 0) (quiet (.qddy (fw 9 1 0 0 6)) fun e b g _ => diffFn (.qddy (fw 9 1 0 0 6)) (fw 9 1 0 0 6) 2 1 e b g) (by decide) fun _ _ _ _ h => quiet_iff h⟩

theorem wit_ReduceAndScanResult :
    Met (.lreduce (fw 9 1 2 0 1)) alwaysReady (combineBar (.lreduce (fw 9 1 2 0 1)) false) (fun e b g p => Quiet (.lreduce (fw 9 1 2 0 1))
      (fun x => outWF (combineWord (.lreduce (fw 9 1 2 0 1)) x e (srcCtx e b g) g (lanesOf (g.actors p (fw 9 1 2 0 1))))) e b g p)
    ∧ Met (.lscan (fw 9 1 2 0 1)) alwaysReady (combineBar (.lscan (fw 9 1 2 0 1)) true) (fun e b g p => Quiet (.lscan (fw 9 1 2 0 1))
      (fun x => outWF (combineWord (.lscan (fw 9 1 2 0 1)) x e (srcCtx e b g) g (scanSet (g.actors p (fw 9 1 2 0 1)) x.lane (bitN x.b.toNat 3)))) e b g p) :=
  ⟨met_of (placed 0) (quiet (.lreduce (fw 9 1 2 0 1)) fun e b g p x =>
      outWF (combineWord (.lreduce (fw 9 1 2 0 1)) x e (srcCtx e b g) g (lanesOf (g.actors p (fw 9 1 2 0 1))))) (by decide) fun _ _ _ _ h => quiet_iff h,
   met_of (placed 0) (quiet (.lscan (fw 9 1 2 0 1)) fun e b g p x =>
      outWF (combineWord (.lscan (fw 9 1 2 0 1)) x e (srcCtx e b g) g (scanSet (g.actors p (fw 9 1 2 0 1)) x.lane (bitN x.b.toNat 3)))) (by decide)
      fun _ _ _ _ h => quiet_iff h⟩

/-- Two halves that may stand together: banks 0 and 1, banks 2 and 3. -/
def halfA : Half := ⟨0, 4, 0, 0, false, false⟩
def halfB : Half := ⟨0, 6, 2, 0, false, false⟩
def halfX : Instr := (halfInstr false halfA).getD (.nop default)
def halfY : Instr := (halfInstr false halfB).getD (.nop default)

theorem wit_DualWordIssuesBothHalves : halfInstr false halfA = some halfX ∧ halfInstr false halfB = some halfY ∧ isUniform halfX = false ∧ isUniform halfY = false
    ∧ Met (.dualWord false halfA halfB) alwaysReady noBar (fun e bt g p => Quiet halfX (resHalf halfX) e bt g p ∧ Quiet halfY (resHalf halfY) e bt g p) :=
  ⟨by decide, by decide, by decide, by decide, met_of (placed 0) (fun e b g p => quiet halfX (fun _ _ _ _ => resHalf halfX) e b g p
      && quiet halfY (fun _ _ _ _ => resHalf halfY) e b g p) (by decide) (by
    intro e b g p h
    simp only [Bool.and_eq_true] at h
    exact ⟨quiet_iff (fn := fun _ _ _ _ => resHalf halfX) h.1, quiet_iff (fn := fun _ _ _ _ => resHalf halfY) h.2⟩)⟩

/-- v8 is empty in lane 0. -/
def emptyV8 (g : Group) : Group := g.modFibre 0 fun x => { x with v := x.v.set 8 ⟨5, false, false⟩ }

/-- The hypotheses that both clauses of the statement share. -/
def atIssue (i : Instr) (s : State) (q : State → Batch → Group → Mask → Bool) : Bool :=
  match issuerBatch s with
  | none => false
  | some b =>
    b.wait.isNone && match wordMembers b i with
    | [(gid, p)] => (match (tickBatch s b).group? gid with
      | none => false
      | some g => g.gid == gid && !outsideWindow g i && q (tickBatch s b) b g p)
    | _ => false

theorem wit_EmptySourceWaitsOrTraps_waits : atIssue (.iadd (fw 9 8 2 0 1)) (onGroup emptyV8 (placed 0))
    (fun e b g p => mustWait e (srcCtx e b g) g p (partLanes g p (.iadd (fw 9 8 2 0 1))) (.iadd (fw 9 8 2 0 1))) = true := by decide

theorem wit_EmptySourceWaitsOrTraps_traps :
    let i := Instr.iadd { fw 9 8 2 0 1 with w := 7 }
    atIssue i (onGroup emptyV8 (placed 0)) (fun e b g p => !mustWait e (srcCtx e b g) g p (partLanes g p i) i
      && (lanesOf (partLanes g p i)).all (fun l => (srcNeeds i).all fun n => !srcAny poisonAt e (srcCtx e b g) g p l i n)
      && (lowestLane (lanesWith (partLanes g p i) fun l => emptySources e (srcCtx e b g) g p l i != 0)).isSome) = true := by decide

/-! ### Memory words -/

/-- The group is calm, and its context is none that suspends at faults. -/
def clearMem (e : State) (g : Group) : Bool :=
  g.flights.isEmpty && g.held.isEmpty && g.fibres.all (fun x => x.q.all fun q => q.op.isNone) && e.wps.all (fun w => w.isNone) && match e.context? g.ctx with | some c => c.fpol != 1 | none => true

/-- The words of the statement at one lane with an address in v8, an index of 0. -/
theorem wit_LoadAndAtomicIssue :
    ((([.ld (fw 12 8 0x0CA 0 0), .lds (fw 12 9 0x0CA 0 0), .ldp (fw 12 0x0CA 0x0CA 0 4), .ldrs (fw 12 9 0x0CA 0 0), .atom (fw 12 8 0 0 1), .satom (fw 12 9 0 0 1),
      .cas (fw 12 8 0 0 1), .fetch (fw 12 8 0x0CA 0 1), .fetch3 (fw 12 8 0 0 1)] : List Instr).map fun i =>
        meets i (accessReady i) noBar oneLane fun e _ g p => memLanes i g p != 0 && clearMem e g)) = List.replicate 9 true := by decide


theorem wit_MisalignedAccessTraps :
    let i := Instr.ld (fw 12 11 0x0CA 0 0)
    atIssue i (onGroup (setV 0 11 0x20004) oneLane) (fun e b g p => !mustWait e (srcCtx e b g) g p (partLanes g p i) i && decide (g.flights.length < 16)
      && !isUniform i && (lanesOf (partLanes g p i)).all (fun l => !(g.fibre l).helper && (srcNeeds i).all fun n => !emptyAt g l n.1)
      && match lowestLane (partLanes g p i) with
        | some l0 => eaOf i (srcA e (srcCtx e b g) g l0 i) (srcB e (srcCtx e b g) g l0 i) % accessSize i != 0
        | none => false) = true := by decide

/-- STS and STRS by one lane to its own block, STP to its own private bytes. -/
theorem wit_ScratchAndPrivateStore :
    (([.sts (fw 9 9 0x0CA 0 0), .strs (fw 9 9 0x0CA 0 0)] : List Instr).map fun i => meets i (accessReady i) noBar oneLane fun e b g p =>
      clearMem e g && memLanes i g p == laneBit 0 && match targetBlock e g i (srcB e (srcCtx e b g) g 0 i) with
        | some bid => (e.block? bid).isSome
        | none => false) = [true, true]
    ∧ (let i := Instr.stp (fw 9 0x0CA 0x0CA 0 0);
      meets i (accessReady i) noBar oneLane fun e b g p => clearMem e g && memLanes i g p == laneBit 0
        && (match e.core? g.core with | some c => decide (privHeld e g.core + accessSize i ≤ l1Size c.carve) | none => false)
        && (privSectors g 0 (eaOf i (srcA e (srcCtx e b g) g 0 i) (srcB e (srcCtx e b g) g 0 i)) (accessSize i)).all fun n => !g.privAway.contains n) = true := by decide

theorem wit_GlobalStoreAndReduction :
    (let i := Instr.st (fw 9 8 0x0CA 0 0);
      meets i (accessReady i) noBar oneLane fun e b g p => clearMem e g && memLanes i g p == laneBit 0 && (e.core? g.core).isSome
        && match portXl e g (storedFirst i e b g 0).1 .write (storedFirst i e b g 0).2.length (storedFirst i e b g 0).2 with | (_, .ok _) => true | _ => false) = true
    ∧ (let f := fw 9 8 0 0 1;
      let i := Instr.red f;
      (!relOrder f && !acqOrder f && meets i (accessReady i) noBar oneLane fun e b g p => clearMem e g && memLanes i g p == laneBit 0
        && (match e.core? g.core with | some c => c.pend.isEmpty | none => false)
        && match portXl e g (eaOf i (srcA e (srcCtx e b g) g 0 i) 0) .reduce (atomBytes f) ((memData i e (srcCtx e b g) g 0).flatMap fun w => toBytes w.toNat 8) with
          | (s1, .ok (.local pa)) => !s1.poisoned pa (atomBytes f)
          | _ => false) = true) := by decide

/-- The flight that a word leaves for lane 0, and a check of it. -/
def flying (i : Instr) (s : State) (q : State → Group → Flight → LaneOp → Bool) : Bool :=
  match firstFlight (after i s) with
  | some (g, fl) => (match fl.ops with
    | [op] => q (after i s) g fl op
    | _ => false)
  | none => false

theorem wit_LoadedValues :
    flying (.lds (fw 12 9 0x0CA 0 0)) oneLane (fun s g fl op => fl.kind == .load .scratch && (s.block? op.tgt).isSome && !(g.fibre op.lane).helper) = true
    ∧ flying (.ldrs (fw 12 9 0x0CA 0 0)) oneLane (fun s g fl op => fl.kind == .load .remote && (s.block? op.tgt).isSome && !(g.fibre op.lane).helper) = true
    ∧ flying (.ldp (fw 12 0x0CA 0x0CA 0 0)) oneLane (fun s g fl op => fl.kind == .load .priv && !(g.fibre op.lane).helper
      && !privLate (privFill s g op.lane op.ea fl.size) g op.lane op.ea fl.size && ((privFill s g op.lane op.ea fl.size).group? g.gid).isSome && s.group? g.gid == some g
      && (privSectors g op.lane op.ea fl.size).all fun x => !g.privAway.contains x) = true
    ∧ flying (.ld (fw 12 8 0x0CA 0 0)) oneLane (fun s g fl op => fl.kind == .load .global && match portXl s g op.ea .read fl.size [] with
        | (s1, .ok (.local pa)) => !l1Holds s1 g op.ea && (corePend s1 g.core g.ctx).isEmpty && decide (pa % 128 = op.ea % 128)
            && decide (op.ea % 128 + fl.size ≤ 128) && !s1.poisoned pa fl.size
        | _ => false) = true := by decide

theorem wit_AtomicPerforms :
    flying (.satom (fw 12 9 0 0 1)) oneLane (fun s g fl op => fl.kind == .atomic .scratch && fl.instr == .satom (fw 12 9 0 0 1) && !fl.uniform
      && !relOrder (fw 12 9 0 0 1) && !acqOrder (fw 12 9 0 0 1) && !(g.fibre op.lane).helper
      && match s.block? op.tgt with | some blk => !scratchPoisoned blk op.ea fl.size | none => false) = true
    ∧ ([Instr.atom (fw 12 8 0 0 1), .cas (fw 12 8 0 0 1)].map fun i => flying i oneLane fun s g fl op => fl.kind == .atomic .global && fl.instr == i && !fl.uniform
      && !relOrder (fieldsOfInstr i) && !acqOrder (fieldsOfInstr i) && !(g.fibre op.lane).helper && match portXl s g op.ea .atomic (atomBytes (fieldsOfInstr i)) (op.data.flatMap fun w => toBytes w.toNat 8) with
        | (s1, .ok (.local pa)) => (match s1.core? g.core with | some c => c.pend.isEmpty | none => false) && !s1.poisoned pa (atomBytes (fieldsOfInstr i))
        | _ => false) = [true, true]
    ∧ flying (.atom (fw 12 8 0 0 1)) oneLane (fun s g fl op => let fl : Flight := { fl with instr := .red (fw 12 8 0 0 1) }
      fl.kind == .atomic .global && !fl.uniform && !(g.fibre op.lane).helper && match portXl s g op.ea .reduce (atomBytes (fw 12 8 0 0 1)) (op.data.flatMap fun w => toBytes w.toNat 8) with
        | (s1, .ok (.local pa)) => (match s1.core? g.core with | some c => c.pend.isEmpty | none => false) && !s1.poisoned pa (atomBytes (fw 12 8 0 0 1))
        | _ => false) = true
    ∧ (fw 12 8 0 0 1).sb.getLsbD 5 = false ∧ Ty.i64.isFloat = false := by decide

/-- A write waits in core 0. -/
def stored : State := after (.st (fw 9 8 0x0CA 0 0)) oneLane

theorem wit_WaitingWritePerformsAtItsHome :
    (match stored.core? 0 with
     | some c => decide (c.pend.map PendWrite.id).Nodup && (match c.pend with
       | [w] => (match w.target with | .local _ => true | _ => false)
       | _ => false)
     | none => false) = true ∧ memoryMay stored 4096 = true
    ∧ memoryMay { stored with contexts := stored.contexts.map (fun c => { c with job := 7 }), jobs := [{ (default : Job) with job := 7, state := .frozen }] } 4096 = false
    ∧ Memory.wf stored.mem = true ∧ (3 < 5 ∨ 5 + [1#8].length ≤ 3) := by decide

/-- The private region lies at 0x20000 and a byte of its first sector is dirty. -/
def dirtied : State := onGroup (fun g => { g with pbase := 0x20000, priv := [⟨5, 7⟩], privDirty := [0x1000] }) oneLane

/-- As above, at an address that no page holds. -/
def dirtiedNowhere : State := onGroup (fun g => { g with pbase := 0x40000000, priv := [⟨5, 7⟩], privDirty := [0x2000000] }) oneLane

/-- The first sector of the private region has left L1. -/
def gone : State := onGroup (fun g => { g with pbase := 0x20000, privHome := [0x1000], privAway := [0x1000] }) oneLane

theorem wit_PrivateLineWriteback :
    (match dirtied.groups with
     | [g] => dirtied.group? g.gid == some g && g.privDirty.filter (fun x => (lineSectors 0x400).contains x) == [0x1000]
       && memoryMay dirtied g.ctx && g.privPoison.isEmpty && !(sectorVas g 0x1000).isEmpty && match portXl dirtied g ((sectorVas g 0x1000).headD 0) .write (sectorVas g 0x1000).length ((sectorVas g 0x1000).map fun va => Memory.get g.priv (privKeyAt g va)) with
       | (_, .ok (.local _)) => true
       | _ => false
     | _ => false) = true
    ∧ (match oneLane.groups with | [g] => oneLane.group? g.gid == some g && g.privDirty.isEmpty | _ => false) = true
    ∧ (match dirtiedNowhere.groups with
     | [g] => dirtiedNowhere.group? g.gid == some g && g.privDirty.filter (fun x => (lineSectors 0x800000).contains x) == [0x2000000]
       && match portXl dirtiedNowhere g ((sectorVas g 0x2000000).headD 0) .write (sectorVas g 0x2000000).length
         ((sectorVas g 0x2000000).map fun va => Memory.get g.priv (privKeyAt g va)) with
       | (_, .error _) => true
       | _ => false
     | _ => false) = true
    ∧ (match gone.groups with
     | [g] => gone.group? g.gid == some g && Memory.wf g.priv && g.privAway.contains 0x1000 && decide (0 < g.wg) && decide (g.plimit ≤ 2 ^ 32)
       && match portXl gone g ((sectorVas g 0x1000).headD 0) .read (sectorVas g 0x1000).length [] with
       | (_, .ok (.local _)) => true
       | _ => false
     | _ => false) = true := by decide

/-! ### Control flow -/

/-- A J-form immediate stands in SA, SB and SC (R43). -/
def jw (dst : BitVec 9) (n : Nat) : Fields :=
  { (default : Fields) with dst := dst, sa := BitVec.ofNat 9 (n / 2 ^ 18), sb := BitVec.ofNat 9 (n / 2 ^ 9), sc := BitVec.ofNat 9 n, safe := true }

theorem wit_SegmentEndsSendToSuccessors :
    Met (.next (jw 0 0)) alwaysReady (succBar (succImm (jw 0 0))) always ∧ Met (.nextx (fw 0 1 0 0 0)) alwaysReady (succBar (succReg (.nextx (fw 0 1 0 0 0)))) always
    ∧ Met (.ret (fw 0 1 0 0 0)) alwaysReady (succBar (succReg (.ret (fw 0 1 0 0 0)))) always
    ∧ Met (.nextp (jw 0 0)) alwaysReady (succBar (succPred (jw 0 0))) always
    ∧ Met (.call (jw 9 0)) alwaysReady (succBar (succImm (jw 9 0))) (fun e _ g p => (dstUse (rowOf (.call (jw 9 0))) (jw 9 0)).isReg = true ∧ (jw 9 0).dst.toNat < 0x80
      ∧ ∀ l ∈ lanesOf p, ∀ r ∈ (g.fibre l).pend, r.seq < e.nextId) :=
  ⟨met_always (placed 0) (by decide), met_always (placed 0) (by decide), met_always (placed 0) (by decide), met_always (placed 0) (by decide),
   met_dec (placed 0) (by decide)⟩

/-- All lanes quit; lane 0 alone quits. -/
theorem wit_QuitEndsFibresGroupsAndBlocks :
    Met (.quit (fw 0 0 0 0 0)) alwaysReady noBar (fun _ _ g p => (g.frame = none ∧ g.fibres.length ≤ 32 ∧ g.wg = g.fibres.length) ∧ g.workers &&& ~~~p = 0
      ∧ g.flights = [] ∧ g.aside = [])
    ∧ Met (.quit (fw 0 0 0 0 0)) alwaysReady noBar (fun _ _ g p => (g.frame = none ∧ g.fibres.length ≤ 32 ∧ g.wg = g.fibres.length) ∧ g.workers &&& ~~~p ≠ 0) :=
  ⟨met_dec (placed 0) (by decide), met_dec (onLanes 0xF (placed 0)) (by decide)⟩

/-- Lanes 4 to 7 are free and lane 0 forks. -/
def forkable : State := onGroup (fun g => { g with fibres := (List.range 8).map fun l => if l < 4 then startFibre 128 0 else { startFibre 128 0 with live := false } }) (onLanes 0xF (placed 0))

theorem wit_ForkMakesChildren : Met (.fork (jw 0 (1 * 2 ^ 18))) (forkReady (jw 0 (1 * 2 ^ 18))) (forkBar (jw 0 (1 * 2 ^ 18)))
    (fun _ _ g p => (∀ l ∈ lanesOf p, (g.fibre l).live = true) ∧ g.wg = g.fibres.length ∧ g.wg ≤ 32) := met_dec forkable (by decide)

/-- A batch at the end of its innermost body, with one or three passes left. -/
def looping (n : Nat) : State :=
  { placed 0 with batches := (placed 0).batches.map fun b => { b with woff := 1, members := b.members.map fun m => { m with loops := [⟨n, 0, 1⟩] } } }

def loopEnds (s : State) : Bool :=
  match s.batches with
  | [b] => s.batch? b.id == some b && b.rep.isNone && (match b.members with
    | [m] => m.lanes != 0 && (match m.loops with
      | l :: rest => b.woff == l.first + l.len && rest.all fun x => decide (x.count > 0)
      | _ => false)
    | _ => false)
  | _ => false

/-- A J18 immediate stands in SB and SC (R43). -/
def iw (dst sa : BitVec 9) (n : Nat) : Fields :=
  { (default : Fields) with dst := dst, sa := sa, sb := BitVec.ofNat 9 (n / 2 ^ 9), sc := BitVec.ofNat 9 n }

theorem wit_LoopAndRepeatSetTheirCounts :
    Met (.loop (iw 0 1 0)) alwaysReady (loopBar (iw 0 1 0)) (fun e b _ _ => e.batch? b.id = some b ∧ b.rep = none)
    ∧ loopEnds (looping 1) = true ∧ loopEnds (looping 3) = true
    ∧ Met (.rep (iw 0 0 3)) alwaysReady (repBar (iw 0 0 3)) (fun e b _ _ => e.batch? b.id = some b ∧ b.rep = none) :=
  ⟨met_dec (placed 0) (by decide), by decide, by decide, met_dec (State.reset.withFetchWord 128 (0x0838060402800008 * 2 ^ 64)) (by decide)⟩


/-- v1 holds 2: the count of a barrier whose phase has none yet. -/
def counting : State := onGroup (fun g => (List.range 8).foldl (fun g l => setV l 1 2 g) g) (placed 0)

def arrives (i : Instr) (f : Fields) (e : State) (b : Batch) (g : Group) (p : Mask) : Bool :=
  e.batch? b.id == some b && g.workers != 0 && g.actors p f == g.workers && (arriveOf g.bars (barIdx i)).lanes == 0
    && match e.block? g.bid with
      | none => false
      | some blk => decide (barIdx i < blk.bars.length) && !(nth blk.bars (barIdx i)).zero
        && blk.bars.all (fun x => x.expected.isSome || x.arrived == 0)
        && (nth blk.bars (barIdx i)).expected.isNone && (lanesOf (g.actors p f)).all fun l => barCount i e b g l == some 2

/-- The batch waits in a word. -/
def waiting (w : Wait) (s : State) : State := { s with batches := s.batches.map fun b => { b with wait := some w } }

/-- The hypotheses of a clause about a batch that waits in word i and may leave it. -/
def leaves (i : Instr) (ready : ReadyFn) (bar : BarFn) (s : State) (q : State → Batch → Group → Bool) : Bool :=
  match issuerBatch s with
  | none => false
  | some b => s.batch? b.id == some b && match b.members with
    | [m] => m.present false != 0 && (match (tickBatch s b).group? m.gid with
      | none => false
      | some g => m.gid == g.gid && fullVerdict i ready bar (tickBatch s b) b g (m.present false) == .ok && q s b g)
    | _ => false

/-- Barrier 15 has turned once since the group arrived. -/
def turned : State :=
  let s := onGroup (fun g => { g with bars := [⟨15, 0, some 0, none⟩] }) (waiting (.bar 15 []) counting)
  { s with blocks := s.blocks.map fun b => { b with bars := b.bars.set 15 ⟨1, none, false, 0⟩ } }

theorem wit_BlockBarrierArrivals :
    meets (.bar (fw 0 1 0 0 0)) (barReady (.bar (fw 0 1 0 0 0))) (arriveBar (.bar (fw 0 1 0 0 0))) counting (arrives (.bar (fw 0 1 0 0 0)) (fw 0 1 0 0 0)) = true
    ∧ meets (.bara (fw 0 1 0 0 0)) (releaseReady (.bara (fw 0 1 0 0 0))) (arriveBar (.bara (fw 0 1 0 0 0))) counting (arrives (.bara (fw 0 1 0 0 0)) (fw 0 1 0 0 0)) = true
    ∧ Met (.barw (fw 0 0 0 0 0)) (barwReady (.barw (fw 0 0 0 0 0))) noBar (fun e b _ _ => e.batch? b.id = some b)
    ∧ leaves (.bar (fw 0 1 0 15 0)) (barReady (.bar (fw 0 1 0 15 0))) (arriveBar (.bar (fw 0 1 0 15 0))) turned (fun _ _ _ => true) = true
    ∧ leaves (.barw (fw 0 1 0 15 0)) (barwReady (.barw (fw 0 1 0 15 0))) noBar turned (fun _ _ _ => true) = true :=
  ⟨by decide, by decide, met_dec (placed 0) (by decide), by decide, by decide⟩

theorem wit_PredicateWordsResult :
    Met (.elect (fw 3 0 0 0 0)) alwaysReady noBar always ∧ Met (.vote (fw 3 1 0 0 0)) alwaysReady noBar always ∧ Met (.plop (fw 3 1 0 0 0)) alwaysReady noBar always
    ∧ (fw 3 1 2 0 0).sc.getLsbD 0 = false ∧ Met (.pmov (fw 3 1 2 0 0)) alwaysReady noBar always
    ∧ (fw 0 1 2 1 0).sc.getLsbD 0 = true ∧ Met (.pmov (fw 0 1 2 1 0)) alwaysReady noBar always ∧ Met (.live (fw 9 0 0 0 0)) alwaysReady noBar always :=
  ⟨met_always (placed 0) (by decide), met_always (placed 0) (by decide), met_always (placed 0) (by decide), by decide, met_always (placed 0) (by decide), by decide,
   met_always (placed 0) (by decide), met_always (placed 0) (by decide)⟩

theorem wit_NopYieldAndSleep :
    (wordBits 0 54 8 = 0 ∧ (0 : Word).getLsbD 62 = false)
    ∧ Met (.nop default) alwaysReady noBar (fun e b _ _ => e.batch? b.id = some b ∧ b.rep = none)
    ∧ Met (.yield default) alwaysReady noBar (fun e b _ _ => e.batch? b.id = some b ∧ b.rep = none)
    ∧ Met (.sleep (iw 0 0 100)) alwaysReady noBar (fun e b _ _ => e.batch? b.id = some b ∧ b.rep = none)
    ∧ (∃ b, (placed 0).batch? b.id = some b ∧ b.sleepUntil ≤ (placed 0).clock) :=
  ⟨by decide, met_dec (placed 0) (by decide), met_dec (placed 0) (by decide), met_dec (placed 0) (by decide), (placed 0).batches.headD default, by decide, by decide⟩

/-- The placed program's line is in the instruction cache of core 0, and nothing is at issue. -/
def cached (s : State) : State :=
  { s with issue := none, cores := s.cores.map fun c => if c.core = 0 then { c with icache := [(placedCtx, 0x200)] } else c }

/-- Eight lanes in the sorter. -/
def sorted : State := cached (after (.next (jw 0 0)) (placed 0))

theorem wit_SorterFormsAndIssuesBatches :
    (formsNow sorted 0 0 && (starved sorted 0 0).isNone && !(newBatch sorted 0 0).isEmpty) = true
    ∧ (match bestBatch (cached (placed 0)) 0 0 with
      | some b => !formsNow (cached (placed 0)) 0 0 && !(cached (placed 0)).issued.contains (0, 0) && (breakHit (cached (placed 0)) b).isNone
      | none => false) = true
    ∧ (let s : State := { sorted with clock := 5000 }
      formsNow s 0 0 && match starved s 0 0 with
        | some u => (match (takeUnits s 0 0 [u]).1.batch? s.nextId with
          | some x => (breakHit (takeUnits s 0 0 [u]).1 x).isNone
          | none => false)
        | none => false) = true := by decide

/-- The next word of that batch stands at issue. -/
def reissued : State := { stored with issue := (stored.batches.head?).map fun b => .batch b.id }

theorem wit_FencesAndPrefetches :
    Met (.fence (fw 0 0 0 3 0)) (fenceReady (.fence (fw 0 0 0 3 0))) noBar always ∧ Met (.fencero (fw 0 0 0 3 0)) (fenceReady (.fencero (fw 0 0 0 3 0))) noBar always :=
  ⟨met_always reissued (by decide), met_always reissued (by decide)⟩

/-- The placed program's line is not in the cache and the batch wants it. -/
def wanting : State := { placed 0 with issue := none }

theorem wit_FencesAndPrefetches_prefetch :
    Met (.pref (fw 0 8 0x0CA 0 0)) alwaysReady noBar always ∧ Met (.ipref (jw 0 0)) alwaysReady (iprefBar (jw 0 0)) always
    ∧ (!(wanted wanting 0).isEmpty && (wanting.core? 0).isSome) = true :=
  ⟨met_always oneLane (by decide), met_always (placed 0) (by decide), by decide⟩

/-! ### Streams -/

/-- Streams q0 and q1 are open and not busy in every lane; q2 stands in an operation. -/
def openStream : Stream := { Stream.closed with opened := true, coord := 0x20000, value := 0x21000, first := 0, last := 3, cur := 4 }
def streaming (op : Option StreamOp) : State :=
  onGroup (fun g => { g with fibres := g.fibres.map fun x => { x with q := (x.q.set 0 openStream).set 1 openStream |>.set 2 { openStream with op := op } } }) oneLane

theorem wit_StreamWordsAndTheirSettling :
    Met (.sopen (fw 0 8 0 0 0)) (streamReady (.sopen (fw 0 8 0 0 0))) (sopenBar (.sopen (fw 0 8 0 0 0))) (fun e _ g _ => (∀ w ∈ e.wps, w = none) ∧ ∀ x ∈ g.fibres, x.q.length = 8)
    ∧ Met (.sadv (fw 0 9 0 0 0)) (streamReady (.sadv (fw 0 9 0 0 0))) (streamBar (.sadv (fw 0 9 0 0 0))) (fun e _ g _ => (∀ w ∈ e.wps, w = none) ∧ ∀ x ∈ g.fibres, x.q.length = 8)
    ∧ Met (.sisect (fw 0 1 0 0 0)) (streamReady (.sisect (fw 0 1 0 0 0))) (streamBar (.sisect (fw 0 1 0 0 0))) (fun e _ g _ => (∀ w ∈ e.wps, w = none) ∧ ∀ x ∈ g.fibres, x.q.length = 8)
    ∧ Met (.sclose (fw 0 0 0 0 0)) (streamReady (.sclose (fw 0 0 0 0 0))) noBar (fun e _ g _ => (∀ w ∈ e.wps, w = none) ∧ ∀ x ∈ g.fibres, x.q.length = 8)
    ∧ Met (.stest (fw 3 0 0 0 0)) (streamReady (.stest (fw 3 0 0 0 0))) (streamBar (.stest (fw 3 0 0 0 0))) always
    ∧ Met (.smerge (fw 12 0 1 0 0)) (streamReady (.smerge (fw 12 0 1 0 0))) (streamBar (.smerge (fw 12 0 1 0 0))) always
    ∧ Met (.sget (fw 12 0 0 0 0)) (streamReady (.sget (fw 12 0 0 0 0))) (streamBar (.sget (fw 12 0 0 0 0))) (fun _ _ g p => partLanes g p (.sget (fw 12 0 0 0 0)) ≠ 0) :=
  ⟨met_dec oneLane (by decide), met_dec (streaming none) (by decide), met_dec (streaming none) (by decide), met_dec oneLane (by decide),
   met_always (streaming none) (by decide), met_always (streaming none) (by decide), met_dec (streaming none) (by decide)⟩

/-- A busy register of lane 0, and what its reads give. -/
def settles (op : StreamOp) (s : State) (q : State → Group → Stream → Bool) : Bool :=
  match s.groups with
  | [g] => s.group? g.gid == some g && flightMay s g.gid (2 ^ 256) && (nth (g.fibre 0).q 2).fault.isNone && (nth (g.fibre 0).q 2).op == some op
    && decide (0 < g.fibres.length) && decide (2 < (g.fibre 0).q.length) && q s g (nth (g.fibre 0).q 2)
  | _ => false

/-- A dense descriptor of 8 elements at address 0x20000, and coordinates that rise. -/
def described : State := (streaming (some (.sopen 0x20000))).writePa (placedFrame + 0x20000) (toBytes (0x22000 + 0x23000 * 2 ^ 64 + 8 * 2 ^ 160) 32)

theorem wit_StreamWordsAndTheirSettling_opens : settles (.sopen 0x20000) described (fun s g _ =>
    match streamOpen (streamRd g) 0x20000 s with | (s1, .ok _) => s1.groups == s.groups | _ => false) = true := by decide

theorem wit_StreamWordsAndTheirSettling_moves :
    settles .next (streaming (some .next)) (fun s g q => !q.ended && match streamMove (streamRd g) q (q.pos + 1) 0 s with
      | (s1, .ok _) => s1.groups == s.groups | _ => false) = true
    ∧ settles (.gallop 3) (streaming (some (.gallop 3))) (fun _ _ q => decide (3 ≤ q.cur)) = true
    ∧ settles (.gallop 9) (streaming (some (.gallop 9))) (fun s g q => !q.ended && decide (q.cur < 9)
      && match streamMove (streamRd g) q q.pos 9 s with | (s1, .ok _) => s1.groups == s.groups | _ => false) = true := by decide

/-- The coordinates lie in no page. -/
def lost : State := onGroup (fun g => { g with fibres := g.fibres.map fun x => { x with q := x.q.set 2 { openStream with coord := 2 ^ 40, op := some .next } } }) oneLane

theorem wit_StreamWordsAndTheirSettling_faults : settles .next lost (fun s g q => !q.ended && match streamMove (streamRd g) q (q.pos + 1) 0 s with
    | (s1, .error _) => s1.groups == s.groups | _ => false) = true := by decide

theorem wit_StreamWordsAndTheirSettling_found : (match (streamMove (fun (s : State) _ k => (s, .ok (List.replicate k 5#8))) openStream 1 0 (placed 0)).2 with
    | .ok q => !q.ended | .error _ => false) = true := by decide


/-! ### Other units, copies -/

theorem wit_ReadsOfOtherUnitsInFlight :
    Met (.kget (fw 12 0x81 9 0 0)) alwaysReady noBar (fun _ _ g p => partLanes g p (.kget (fw 12 0x81 9 0 0)) ≠ 0)
    ∧ Met (.sread (iw 12 0 0)) alwaysReady (sysBar (.sread (iw 12 0 0)) false) (fun _ _ g p => partLanes g p (.sread (iw 12 0 0)) ≠ 0)
    ∧ Met (.erd (iw 12 0 4)) alwaysReady (erdBar (.erd (iw 12 0 4))) (fun _ _ g p => partLanes g p (.erd (iw 12 0 4)) ≠ 0)
    ∧ Met (.wpget (fw 12 0 0 0 0)) memReady noBar (fun _ _ g p => wpgetLanes (.wpget (fw 12 0 0 0 0)) g p ≠ 0) :=
  ⟨met_dec oneLane (by decide), met_dec oneLane (by decide), met_dec oneLane (by decide), met_dec oneLane (by decide)⟩

/-- KGET of group 16, which is not there, and of group 0 with an empty register; ERD of the rounds; WPGET with and without a channel. -/
theorem wit_ReadsOfOtherUnitsInFlight_perform :
    flying (.kget (fw 12 0x81 9 0 0)) oneLane (fun s g fl op => fl.kind == .kget && s.groups.all fun x => !(x.bid == g.bid && x.index == op.ea)) = true
    ∧ flying (.kget (fw 12 0x81 0 0 0)) (onGroup (fun g => { g with k := g.k.set 1 ⟨0, false, false⟩ }) oneLane) (fun s g fl op => fl.kind == .kget
      && match s.groups.find? (fun y => y.bid == g.bid && y.index == op.ea && y.fibres.any fun z => z.live) with
        | some x => !(nth x.k ((fieldsOfInstr fl.instr).sa.toNat - 0x80)).full
        | none => false) = true
    ∧ flying (.kget (fw 12 0x81 0 0 0)) (onGroup (fun g => { g with k := g.k.set 1 ⟨5, true, false⟩ }) oneLane) (fun s g fl op => fl.kind == .kget
      && match s.groups.find? (fun y => y.bid == g.bid && y.index == op.ea && y.fibres.any fun z => z.live) with
        | some x => (nth x.k ((fieldsOfInstr fl.instr).sa.toNat - 0x80)).full
        | none => false) = true
    ∧ flying (.sread (iw 12 0 0)) oneLane (fun _ _ fl _ => fl.kind == .sread) = true
    ∧ flying (.erd (iw 12 0 4)) oneLane (fun s g fl op => fl.kind == .erd && (s.context? g.ctx).isSome && (s.block? g.bid).isSome && decide (op.ea < 5)) = true
    ∧ flying (.wpget (fw 12 0 0 0 0)) { oneLane with channels := [⟨4096, 0, 0, 7, 0x1234, none, []⟩] } (fun s g fl op => fl.kind == .wpget
      && (s.channels.find? fun c => c.ctx == g.ctx && c.cluster == g.core / 8 && c.chan == op.ea).isSome) = true
    ∧ flying (.wpget (fw 12 0 0 0 0)) oneLane (fun s _ fl _ => fl.kind == .wpget && s.channels.isEmpty) = true := by decide

/-- A linear packet of 64 bytes from 0x22000 to 0x23000 on channel 3, with its phase; no signal. -/
def copyPacket (dsp dst : Nat) : List Byte :=
  toBytes (1 + dsp * 2 ^ 8 + 3 * 2 ^ 16 + 0x22000 * 2 ^ 32 + dst * 2 ^ 96 + 64 * 2 ^ 224) 60 ++ toBytes 1 4

/-- A copy queue of cluster 0 at 0x20000 with 16 slots at 0x21000, the packet in slot 0. -/
def copyQueue : QueueReg :=
  { ctx := 4096, header := 0x20000, cls := 0, clu := 0, base := 0x21000, log2c := 4, next := 0, openIdx := [], bound := none, puts := [], closing := false }
def copying (p : List Byte) : State := { oneLane with queues := [copyQueue] }.writePa (placedFrame + 0x21000) p

/-- QPUT of the packet in v16 to v23 to the queue. -/
def putting : State :=
  onGroup (fun g => (List.range 8).foldl (fun g j => setV 0 (16 + j) (BitVec.ofNat 64 (byteField ((copyPacket 0 0x23000).take 60 ++ toBytes 0 4) (8 * j) 8)) g) g) (copying [])

theorem wit_QputClaimsThenPublishes :
    let i := Instr.qput (fw 0 8 16 0 0)
    meets i (qputReady i) (qputBar i) putting (fun e b g p => clearMem e g && g.actors p (fw 0 8 16 0 0) == laneBit 0 && (e.contexts.all fun c => c.fpol != 1)
      && e.groups.all (fun x => x.flights.all fun fl => fl.batch != b.id || fl.kind != .qput)
      && !pkTensor (packetBytes (qputPacket i e (srcCtx e b g) g 0))
      && (match portXl e g (srcA e (srcCtx e b g) g 0 i).toNat .atomic 8 [] with | (s1, .ok (.local pa)) => !s1.poisoned pa 8 | _ => false)
      && (match e.queue? g.ctx (srcA e (srcCtx e b g) g 0 i).toNat with | some q => q.cls == 0 && !q.closing | none => false)
      && locksFit e (qputLocks e g (srcA e (srcCtx e b g) g 0 i).toNat (packetBytes (qputPacket i e (srcCtx e b g) g 0)) [])
      && match e.core? g.core with | some c => c.pend.isEmpty | none => false) = true := by decide

theorem wit_QputClaimsThenPublishes_publish :
    flying (.qput (fw 0 8 16 0 0)) putting (fun s g fl o => s.group? g.gid == some g
      && (g.flights.find? fun e => e.seq == fl.seq && e.kind == .qput && flightMay s g.gid fl.seq) == some fl && fl.pendingOps == [o]
      && fl.pending == laneBit o.lane && o.tgt != 0 && fl.held.isEmpty && g.held.isEmpty && g.flights == [fl]
      && match qputPublish s g o.lane (Scope.ofCode ((fieldsOfInstr fl.instr).sc.toNat % 8)) o.ea (o.tgt - 1) (packetBytes o.data) with
        | (_, .ok true) => true
        | _ => false) = true
    ∧ (match (copying []).groups with
      | [g] => (match (copying []).queue? g.ctx 0x20000, engineRead (copying []) g.core g.ctx (0x20000 + 128) 8 with
        | some q, (_, .ok r) => decide (ofBytes r + 2 ^ q.log2c ≤ 16)
        | _, _ => false)
      | _ => false) = true := by decide +kernel

theorem wit_TransactionBarrierWords :
    meets (.tbinit (fw 0 9 10 9 0)) memReady (tbBar (.tbinit (fw 0 9 10 9 0)) true fun a n => a.toNat == 0 || decide (a.toNat > 65535) || decide (n.toNat ≥ 2 ^ 31)) oneLane
      (fun e b g p => e.wps.all (fun w => w.isNone) && g.actors p (fw 0 9 10 9 0) == laneBit 0
        && (match tbTarget e g (srcA e (srcCtx e b g) g 0 (.tbinit (fw 0 9 10 9 0))) with
          | some bid => (match e.block? bid with | some blk => Memory.wf blk.scratch | none => false)
          | none => false)
        && decide ((srcB e (srcCtx e b g) g 0 (.tbinit (fw 0 9 10 9 0))).toNat ≤ 65535)
        && decide ((srcC e (srcCtx e b g) g 0 (.tbinit (fw 0 9 10 9 0))).toNat < 2 ^ 31)) = true
    ∧ meets (.tbarr (fw 0 9 10 0 0)) (tbReady (.tbarr (fw 0 9 10 0 0))) (tbBar (.tbarr (fw 0 9 10 0 0)) true fun n _ => decide (n.toNat ≥ 2 ^ 31)) oneLane
      (fun e b g p => e.wps.all (fun w => w.isNone) && g.flights.isEmpty && g.held.isEmpty && g.actors p (fw 0 9 10 0 0) == laneBit 0
        && match tbTarget e g (srcA e (srcCtx e b g) g 0 (.tbarr (fw 0 9 10 0 0))) with
          | some bid => (match e.block? bid with | some blk => Memory.wf blk.scratch && blk.scratchPoison.isEmpty | none => false)
            && !tbPoisoned e bid ((srcA e (srcCtx e b g) g 0 (.tbarr (fw 0 9 10 0 0))).toNat % 2 ^ 19)
          | none => false) = true
    ∧ Met (.tbwait (fw 0 9 10 0 0)) tbwaitReady (tbBar (.tbwait (fw 0 9 10 0 0)) false fun _ _ => false) (fun e b _ _ => e.batch? b.id = some b)
    ∧ atIssue (.tbwait (fw 0 9 10 0 0)) (oneLane) (fun _ _ _ _ => true) = true
    ∧ (match issuerBatch (waiting (.tbwait []) oneLane) with
      | some b => b.wait == some (.tbwait []) && oneLane.wps.all (fun w => w.isNone) && oneLane.blocks.all (fun x => x.scratchPoison.isEmpty) && (match b.members with
        | [m] => m.present false != 0 && (match (tickBatch (waiting (.tbwait []) oneLane) b).group? m.gid with
          | some g => g.flights.isEmpty && g.held.isEmpty && wordVerdict (tickBatch (waiting (.tbwait []) oneLane) b) b g (m.present false) (.tbwait (fw 0 9 10 0 0)) == .ok
          | none => false)
        | _ => false)
      | none => false) = true :=
  ⟨by decide, by decide, met_dec oneLane (by decide), by decide, by decide⟩

/-- A change of a barrier that leaves an arrival, and one that turns the phase. -/
theorem wit_TransactionBarrierWords_change :
    (0 ≤ (0 : Int) ∧ -(2 ^ 31) ≤ (-(2 ^ 31) : Int) + 0 ∧ (-(2 ^ 31) : Int) + 0 < 2 ^ 31 ∧ 1 ≤ 2 ∧ (2 ≠ 1))
    ∧ (0 ≤ (5 : Int) ∧ -(2 ^ 31) ≤ (-5 : Int) + 5 ∧ (-5 : Int) + 5 < 2 ^ 31 ∧ (-5 : Int) + 5 = 0) := by decide

/-- The next packet of the queue and what its acceptance needs. -/
def accepts (s : State) (q : State → QueueReg → List Byte → Bool) : Bool :=
  match s.queue? 4096 0x20000 with
  | none => false
  | some k => k.cls == 0 && !k.closing && engineMay s 4096 .copy (stepPacket s 4096 0x20000 k.next) && match nextPacket s k with
    | (s1, some bs) => (match canEnd s1 k k.next with
      | (s2, true) => q s2 k bs
      | _ => false)
    | _ => false

theorem wit_CopyEngineTakesPackets :
    accepts (copying (copyPacket 0 0x23000)) (fun s2 q bs => pkErr bs == 0 && !pkTensor bs
      && copyErr s2 q.clu (boundLid s2 q) none bs [] == 0 && locksFit s2 (copyLocks none q.clu bs [])) = true
    ∧ accepts (copying (toBytes 9 60 ++ toBytes 1 4)) (fun _ _ bs => pkErr bs != 0) = true := by decide

/-- Its channel, once it has taken the packet, and once it runs. -/
def accepted : State := after (.cpePacketAccept 4096 0x20000) (copying (copyPacket 0 0x23000))
def started (s : State) : State := after (.channelPacketStart 4096 0 3) s

theorem wit_CopyEngineTakesPackets_starts : (match accepted.channel? 4096 0 3 with
    | some c => c.running.isNone && (match c.waiting with | j :: _ => jobMay accepted 4096 j | [] => false)
    | none => false) = true := by decide

/-- A packet of the same queue to the block's own scratchpad. -/
def acceptedLocal : State := after (.cpePacketAccept 4096 0x20000)
  { copying (copyPacket 1 0x100) with queues := [{ copyQueue with puts := [(0, 1, 2)] }] }

/-- The channel's job and what a delivery needs. -/
def delivers (s : State) (q : State → CopyJob → List Byte → Bool) : Bool :=
  match s.channel? 4096 0 3 with
  | none => false
  | some c => (match c.running with
    | none => false
    | some j => jobMay s 4096 j && !j.failed && j.fault.isNone && j.known && !((ownerCores s j.owner).any fun n => lockWaits s n j.owner fun _ => true)
      && decide (j.rsec < j.total)
      && match copyBytes 0 4096 j.packet j.tdesc ((List.range (j.done (j.rsec + 1) - j.done j.rsec)).map (j.done j.rsec + ·)) s with
        | (s1, .ok bs) => q s1 j bs
        | _ => false)

theorem wit_CopySectorsAndCompletion :
    delivers (started accepted) (fun s1 j bs => pkDsp j.packet == 0 && match engineWrite s1 (cpeAgent 0) 4096 (pkBase j.packet + j.done j.rsec) bs with
      | (_, .ok ()) => true | _ => false) = true
    ∧ delivers (started acceptedLocal) (fun _ j _ => pkDsp j.packet == 1 && match j.bid with
      | some bid => ((started acceptedLocal).block? bid).isSome
      | none => false) = true := by decide

/-- A change of the running job. -/
def onJob (f : CopyJob → CopyJob) (s : State) : State := { s with channels := s.channels.map fun c => { c with running := c.running.map f } }

/-- The same delivery into an activation buffer and into a weight slot of the block's engine. -/
theorem wit_CopySectorsAndCompletion_engine : ([2, 3].all fun dsp =>
    let s := onJob (fun j => { j with packet := copyPacket dsp 0x100 }) (started acceptedLocal)
    delivers s fun _ j _ => pkDsp j.packet == dsp && match j.bid with
      | some bid => (match s.block? bid with | some blk => blk.engine.isSome | none => false)
      | none => false) = true := by decide

/-- The job parked at a page with an open record, and the job with every sector delivered. -/
def parked : State :=
  { onJob (fun j => { j with fault := some 0x23000 }) (started accepted) with faults := [⟨4096, 2, 1, 0, 0, true, 0, none, false⟩] }
def delivered : State := onJob (fun j => { j with rsec := j.total }) (started accepted)

theorem wit_CopySectorsAndCompletion_parked : (match parked.channel? 4096 0 3 with
    | some c => (match c.running with
      | some j => jobMay parked 4096 j && !j.failed && j.fault == some 0x23000 && parked.faults.any (sameFault 4096 0x23000)
      | none => false)
    | none => false) = true := by decide

theorem wit_CopySectorsAndCompletion_completes : (match delivered.channel? 4096 0 3 with
    | some c => (match c.running with
      | some j => jobMay delivered 4096 j && j.known && decide (j.total ≤ j.rsec) && pkSig j.packet / 2 ^ 30 != 2
        && (match delivered.queue? 4096 j.header with | some q => (canEnd delivered q j.index).2 | none => false)
      | none => false)
    | none => false) = true := by decide

/-- A tile packet of shape 2 by 3 by 1 over 2-byte elements, and an element in it. -/
theorem wit_CopyEngineTakesPackets_tile :
    (let bs := toBytes (2 + 2 * 2 ^ 320 + 3 * 2 ^ 336 + 2 ^ 352) 64
     let td := toBytes (2 * 2 ^ 64 + 2 ^ 72) 64
     pkTensor bs && decide (1 < pkShape bs 0) && decide (2 < pkShape bs 1) && decide (1 < tdSize td)) = true := by decide

/-- A completion that signals event 5, one that counts counter 5 down, and one that posts a transaction barrier. -/
def signals (n : Nat) : State := onJob (fun j => { j with packet := ((copyPacket 0 0x23000).set 59 (BitVec.ofNat 8 (64 * n))).set 56 5 }) delivered

theorem wit_CopySectorsAndCompletion_signals :
    ([signals 1, signals 2, onJob (fun j => { j with packet := copyPacket 4 0x23000, tbid := some 2 }) delivered].all fun s => match s.channel? 4096 0 3 with
      | some c => (match c.running with
        | some j => jobMay s 4096 j && j.known && decide (j.total ≤ j.rsec) && (match s.queue? 4096 j.header with
          | some q => (canEnd s q j.index).2
          | none => false)
          && (pkSig j.packet / 2 ^ 30 == 1 || pkSig j.packet == 2 ^ 31 + 5 || (pkTB j.packet && j.tbid.isSome))
        | none => false)
      | none => false) = true := by decide


/-! ### The matrix engine -/

def onEngine (f : Engine → Engine) (s : State) : State := { s with blocks := s.blocks.map fun b => { b with engine := b.engine.map f } }

theorem wit_VectorWordsOfTheMatrixEngine :
    meets (.mbara (fw 0 0 0 15 0)) (mbaraReady (.mbara (fw 0 0 0 15 0))) (engineBar (.mbara (fw 0 0 0 15 0)) true fun _ _ _ _ _ => none) (placed 0)
      (fun e _ g p => (match e.engine? g.bid with | some en => en.state != 3 && decide (barIdx (.mbara (fw 0 0 0 15 0)) < en.mbars.length) | none => false)
        && g.actors p (fw 0 0 0 15 0) != 0 && g.workers != 0 && decide (e.groups.map Group.gid).Nodup
        && e.groups.all fun x => x.mbars.all fun a => a.lanes == 0) = true
    ∧ Met (.mbarw (fw 0 0 0 1 0)) (mbarwReady (.mbarw (fw 0 0 0 1 0))) (engineBar (.mbarw (fw 0 0 0 1 0)) true fun _ _ _ _ _ => none) (fun e b _ _ => e.batch? b.id = some b)
    ∧ Met (.mmove (fw 12 9 0 0x0CA 0)) (mmoveReady (.mmove (fw 12 9 0 0x0CA 0))) (mmoveBar (.mmove (fw 12 9 0 0x0CA 0)))
      (fun _ _ g p => mmoveLanes (.mmove (fw 12 9 0 0x0CA 0)) g p ≠ 0)
    ∧ flying (.mmove (fw 12 9 0 0x0CA 0)) oneLane (fun s g fl _ => fl.kind == .mmove && match s.engine? g.bid with | some en => en.ops.isEmpty | none => false) = true
    ∧ meets (.mstart (fw 0 0 9 0 0)) (mstartReady (.mstart (fw 0 0 9 0 0))) (mstartBar (.mstart (fw 0 0 9 0 0))) (placed 0)
      (fun e _ g p => (e.engine? g.bid).isSome && g.actors p (fw 0 0 9 0 0) != 0) = true :=
  ⟨by decide, met_dec (placed 0) (by decide), met_dec oneLane (by decide), by decide, by decide⟩

/-- Matrix barrier 1 has turned since the group arrived, and its batch waits there. -/
def mturned : State :=
  onEngine (fun e => { e with mbars := e.mbars.set 1 { MBar.reset with phase := 1 } }) (onGroup (fun g => { g with mbars := [⟨1, 0, some 0, none⟩] }) (waiting (.mbar 1 [(3, 0)]) (placed 0)))

theorem wit_VectorWordsOfTheMatrixEngine_leaves : leaves (.mbarw (fw 0 0 0 1 0)) (mbarwReady (.mbarw (fw 0 0 0 1 0)))
    (engineBar (.mbarw (fw 0 0 0 1 0)) true fun _ _ _ _ _ => none) mturned (fun _ b _ => b.wait == some (.mbar 1 [(3, 0)])) = true := by decide

/-- A word of the MSQ stands at issue: the engine runs stream 0. -/
def matrixAt (s : State) : State := onEngine (fun e => { e with state := 1, sidx := 0 }) { s with issue := some (.msq 2) }
def matrixState : State := matrixAt (placed 0)

/-- The sums and bounds of one word of each kind, at storage's edge; four levels open. -/
theorem wit_MatrixStreamWordsIssue :
    matrixState.issue = some (.msq 2) ∧ (match matrixState.block? 2 with
      | none => false
      | some blk => (match blk.engine with
        | none => false
        | some e => decide (e.sum 65535 0 + (0 + 1) ≤ e.accn) && decide (e.accn < e.sum 65535 0 + (1 + 1))
          && decide (32 * e.sum 0 0 + (15 + 1) * 32 * (7 + 1) * 64 ≤ blk.scr)
          && matPair (default : MMul).fmt.toNat (slotFormat e 0) && decide (32 * e.sum 0 0 + mulM default * mulPitch default ≤ 65536)
          && decide (512 * e.sum 0 0 + mulM default * mulN default ≤ e.accn)
          && decide (e.sum 0 0 + Machine.stM default * stCn default ≤ e.accn) && decide (32 * e.sum 0 0 + Machine.stM default * stCn default * storeSize (default : MStore).out.toNat ≤ blk.scr)
          && decide (15 < e.mbars.length)
          && (match streamSec matrixState blk e with
            | some (_, sec) => decide (e.loops.length < 4) && decide (e.woff + 1 + (0 + 1) ≤ sec.len) && e.loops.isEmpty && !hasMend matrixState blk e (e.woff + 1) 1
            | none => false))) = true
    ∧ (match (onEngine (fun e => { e with loops := List.replicate 4 ⟨1, 0, 1, 0, 0, 0, 0⟩ }) matrixState).engine? 2 with
      | some e => decide (4 ≤ e.loops.length) | none => false) = true := by decide

/-- A stream whose first word is MEND and one whose word is no matrix word. -/
def mfetching (w : Nat) (s : State) : State := cached { (matrixAt (s.withFetchWord 64 w)) with issue := none }

theorem wit_MatrixStreamWordsIssue_fetches :
    (match msqNext (mfetching 0x39C0000000000000 State.reset) 2 with
     | some (blk, e) => (match msqFetch (mfetching 0x39C0000000000000 State.reset) blk e with
       | (s1, .ok i) => msqReady s1 blk e i
       | _ => false)
     | none => false) = true
    ∧ (match msqNext (mfetching 0 State.reset) 2 with
     | some (blk, e) => (match msqFetch (mfetching 0 State.reset) blk e with
       | (s1, .error _) => s1.blocks == (mfetching 0 State.reset).blocks
       | _ => false)
     | none => false) = true := by decide

/-- A word in flight that may act. -/
def working (i : Instr) (q : State → Block → Engine → MatOp → Bool) : Bool :=
  let s := after i matrixState
  match s.block? 2 with
  | none => false
  | some blk => (match blk.engine with
    | none => false
    | some e => (match e.ops with
      | [o] => (e.ops.find? fun p => p.seq == o.seq) == some o && matOpFree s blk e o && o.instr == i && q s blk e o
      | _ => false))

theorem wit_MatrixWorkCompletes :
    working (.mzero default) (fun _ _ _ _ => true) = true
    ∧ working (.mstore default) (fun _ _ e _ => e.accPoison.isEmpty) = true
    ∧ working (.mmul default) (fun _ _ e _ => (nth e.bufs 0).poison.isEmpty && (nth e.slots 0).poison.isEmpty) = true
    ∧ working (.mbload default) (fun _ blk e _ => blk.scratchPoison.isEmpty && decide (0 < e.slots.length) && Memory.wf (nth e.slots 0).mem
        && decide (0 * 64 + (0 + 1) * 64 ≤ 384)) = true := by decide

/-- Matrix barrier 15 with every arrival in, and a body at its end. -/
def mready : State := onEngine (fun e => { e with mbars := e.mbars.set 15 { MBar.reset with sarr := true, arr := 62 } }) matrixState
def mlooping (n : Nat) : State := onEngine (fun e => { e with woff := 1, loops := [⟨n, 0, 1, 0, 5, 7, -1⟩] }) matrixState

theorem wit_MatrixWorkCompletes_turns :
    (match mready.block? 2 with
     | some blk => (match blk.engine with
       | some e => decide (15 < e.mbars.length) && engineMay mready blk.ctx .msq (fun _ => true) && (nth e.mbars 15).sarr && mbarMet mready 2 (nth e.mbars 15)
         && (nth e.mbars 15).waits.isEmpty && mready.groups.all fun x => x.mbars.all fun a => a.lanes == 0
       | none => false)
     | none => false) = true
    ∧ ([1, 2].all fun n => match (mlooping n).engine? 2 with
      | some e => e.state == 1 && (match e.loops with | [l] => e.woff == l.first + l.len | _ => false)
      | none => false) = true
    ∧ (0 < 7 ∧ 7 < (List.replicate 8 0).length) := by decide


/-! ### The marcher and the raster unit -/

theorem wit_MarchStartsRayJobs : meets (.march (fw 12 16 8 0x0CA 0)) (marchReady (.march (fw 12 16 8 0x0CA 0))) (marchBar (.march (fw 12 16 8 0x0CA 0))) oneLane
    (fun e _ g p => g.flights.isEmpty && e.nextId != 0 && g.participants p (fw 12 16 8 0x0CA 0) == laneBit 0 && !(g.fibre 0).helper && (e.core? g.core).isSome) = true := by decide

/-- One ray job in slot 0 of core 0. -/
def marching (f : RayJob → RayJob) : State :=
  let s := after (.march (fw 12 16 8 0x0CA 0)) oneLane
  { s with cores := s.cores.map fun c => { c with rays := c.rays.map f } }

/-- A check of that job, which runs. -/
def rayIs (f : RayJob → RayJob) (q : State → RayJob → Bool) : Bool :=
  match (marching f).rayJob? 0 0 with
  | some j => engineMay (marching f) j.ctx .marcher (fun st => decide (st.first ≤ j.id)) && j.fault.isNone && q (marching f) j
  | none => false

/-- At its cap. -/
theorem wit_MarchStartsRayJobs_cap : rayIs (fun j => { j with desc := some (List.replicate 64 0), count := j.cap, result := none }) (fun s j => !jobDropped s j && j.result.isNone
    && j.desc == some (List.replicate 64 0) && (jobNew? s j).isNone && j.tag.isNone && !j.room && !j.begun && j.count == j.cap
    && !jobLockWaits s 0 j.ctx (codeRange 4 (sceneOf (List.replicate 64 0)))) = true := by decide +kernel

/-- With a TAG whose reply area can be read. -/
theorem wit_MarchStartsRayJobs_reply : rayIs (fun j => { j with tag := some (7, 0x22000), result := none }) (fun s j => j.tag == some (7, 0x22000)
    && match jobRead s 0 j.ctx j.gid j.lane 0x22000 16 with
      | (s1, .ok _) => s1.rayJob? 0 0 == some j
      | _ => false) = true := by decide +kernel

/-- With a result other than a hit. -/
theorem wit_MarchStartsRayJobs_end : rayIs (fun j => { j with result := some (5, 2) }) (fun s j => j.result == some (5, 2) && !jobAside s j && (jobNew? s j).isNone
    && match jobFlight s j with
      | some (g, fl) => !fl.uniform && opOf fl.instr == 0xC9 && (g.fibre j.lane).live && decide (j.lane < g.fibres.length)
      | none => false) = true := by decide +kernel

theorem wit_MarchStartsRayJobs_apply : (XR.ofInt (-1)).sign ≤ 0 ∧ (XR.ofInt (-1)).sign < 0 ∧ (XR.ofInt 1).sign > 0 := by decide

/-- A pipeline whose queue 0 leads from stage 0 to stage 0. -/
def loopQueue : StageQueue :=
  { index := 0, src := 0, dst := 0, nrec := 4, rsz := 64, base := 0x24000, hwm := 75, lwm := 25, head := 0, tail := 0, unpublished := [], copying := [], high := false }
def loopPipe (f : StageQueue → StageQueue) : Pipe := ⟨50, 4096, 0x20000, 2, [0], [⟨0, 0, 1, 1, 0, [0], some 1, true, false⟩], [f loopQueue], 0⟩
def piped (f : StageQueue → StageQueue) (s : State) : State := { s with pipes := [loopPipe f], launches := s.launches.map fun l => { l with pipe := some 50 } }

/-- The job's bytecode stands at 0x20000: a push of x, then END. -/
def evaluating (f : RayJob → RayJob) : State := (marching f).writePa (placedFrame + 0x20000) (toBytes 0x0200 2)
def evalDesc : List Byte := toBytes (0x20000 + 2 * 2 ^ 64) 64

theorem wit_MarchStartsRayJobs_eval : (let s := evaluating fun j => { j with desc := some evalDesc, result := none, cap := 9 }
    match s.rayJob? 0 0 with
    | none => false
    | some j => engineMay s j.ctx .marcher (fun st => decide (st.first ≤ j.id)) && !jobDropped s j && (jobNew? s j).isNone && j.fault.isNone && j.result.isNone
      && j.tag.isNone && !j.room && !jobLockWaits s 0 j.ctx (codeRange 4 (sceneOf evalDesc)) && !j.begun && j.count != j.cap
      && match evGo (codeFetch (jobRd 0 j.ctx j.gid j.lane) (sceneOf evalDesc) j.bid) (jobRd 0 j.ctx j.gid j.lane) (sceneOf evalDesc) 2 0
          (evStart (sceneOf evalDesc) (j.org.map fun p => (xr32 p).getD XR.zero) (j.dir.map fun p => (xr32 p).getD XR.zero) ((xr32 j.ta).getD XR.zero) ((xr32 j.tb).getD XR.zero) [])
          (countEvent (chargeCtx s j.ctx 24000) j.ctx 7 1) with
        | (s1, .fin _) => s1.rayJob? 0 0 == some j
        | _ => false) = true := by decide +kernel

/-- A span from 1 to 2 that is too long to stop at and has a middle; a depth address whose word is local. -/
theorem wit_MarchStartsRayJobs_split :
    (match xr32 0x3F800000, xr32 0x40000000 with
     | some (.fin a), some (.fin b) => !(XR.fin (b.add a.neg)).le ((xr32 0).getD XR.zero) && (XR.fin (b.add a.neg)).le ((xr32 0x3F800000).getD XR.zero)
       && (match rne32 (b.add a.neg), xr32 (fp32.encode (fp32.roundDy ctxRNE false ((a.add b).scale (-1))).1) with
         | .fin _, some m => !m.le (.fin a) && !(XR.fin b).le m && m != .fin b
         | _, _ => false)
     | _, _ => false) = true := by decide +kernel

theorem wit_MarchStartsRayJobs_depth : rayIs (fun j => { j with desc := some (List.replicate 64 0), depth := some 0x22000 }) (fun s j =>
    s.cores.all (fun c => c.pend.isEmpty) && (match portParts s 0 j.ctx 0x22000 4 .reduce [] with | (s1, .ok [(_, 4, .local a)]) => !s1.poisoned a 4 && Memory.wf s1.mem | _ => false)) = true
    ∧ rayIs (fun j => { j with result := some (5, 0) }) (fun s j => !jobAside s j && (jobNew? s j).isNone && match depthUpdate s 0 j 5 with
        | (s1, .ok _) => (match jobFlight s1 j with | some (g, fl) => !fl.uniform && (g.fibre j.lane).live && decide (j.lane < g.fibres.length) | none => false)
        | _ => false) = true := by decide +kernel

/-- One triangle over a viewport of 1 by 1, its vertices all at the origin. -/
def drawBytes : List Byte := toBytes (0x22000 + 1 * 2 ^ 128 + 1 * 2 ^ 160 + 1 * 2 ^ 176 + 0x23000 * 2 ^ 192 + 1 * 2 ^ 288) 64
def rasterJob : RasterJob :=
  { id := 9, ctx := 4096, gid := 3, lane := 0, lid := 1, bid := 2, core := 0, descAddr := 0x20000, desc := some drawBytes, locked := true, tri := 0,
    records := [], slots := [], done := false, quads := [], users := [], past := [], before := [(3, 0)], released := [], fault := none, failed := false }

theorem wit_PruneAndRasterUnit :
    Met (.prune (fw 0x85 0x82 12 0x83 0)) pruneReady (pruneBar (.prune (fw 0x85 0x82 12 0x83 0))) always
    ∧ Met (.rdraw (fw 0 8 0 0 0)) (rdrawReady (.rdraw (fw 0 8 0 0 0))) (rdrawBar (.rdraw (fw 0 8 0 0 0))) always
    ∧ Met (.rrel (fw 0 0 0 3 0)) memReady noBar (fun e _ g p => clearMem e g = true ∧ e.rasters = [] ∧ g.actors p (fw 0 0 0 3 0) ≠ 0)
    ∧ meets (.rrel (fw 0 0 0 3 0)) memReady noBar { oneLane with rasters := [{ rasterJob with id := 0 }] } (fun e _ g p => g.flights.isEmpty
      && (lanesOf (g.actors p (fw 0 0 0 3 0))).any fun l => e.rasters.any fun r => r.ctx == g.ctx && r.before.contains (g.gid, l) && decide (r.id < e.nextId) && r.open_) = true :=
  ⟨met_always oneLane (by decide), met_always oneLane (by decide), met_dec oneLane (by decide), by decide⟩

/-- A triangle that covers the one pixel. -/
def drawing (f : RasterJob → RasterJob) (q : StageQueue → StageQueue) : State :=
  piped q ({ oneLane with rasters := [f rasterJob] }.writePa (placedFrame + 0x22000) (toBytes (0x40000000 * 2 ^ 128 + 0x40000000 * 2 ^ 288) 48))

/-- A check of the unit's batch, its queue and the pipeline. -/
def drawIs (f : RasterJob → RasterJob) (q : StageQueue → StageQueue) (head : State → Nat → Option RasterJob) (p : State → RasterJob → Pipe → StageQueue → Bool) : Bool :=
  match head (drawing f q) 0 with
  | none => false
  | some j => j.fault.isNone && j.desc == some drawBytes && match engineQueue (drawing f q) j.lid (drawOf drawBytes).fq with
    | some (k, x) => p (drawing f q) j k x
    | none => false

/-- A triangle to draw, with room for its record and without; the last one drawn. -/
theorem wit_PruneAndRasterUnit_draws :
    ([(fun q => q, true), (fun q => { q with tail := 4 }, false)].all fun (c : (StageQueue → StageQueue) × Bool) => drawIs id c.1 rasterHead fun s j _ q =>
      !drawBad drawBytes && j.locked && !lockWaits s j.core j.id (fun _ => true) && j.records.isEmpty && decide (j.tri < (drawOf drawBytes).count)
        && match drawTriangle (drawOf drawBytes) (jobRd j.core j.ctx j.gid j.lane) j.core j.ctx j.tri s with
          | (s1, .ok (rs, _)) => s1.rasters == s.rasters && (match (recordRoom s j q rs.length).2 with | .ok r => r == c.2 | .error _ => false)
          | _ => false) = true
    ∧ drawIs (fun j => { j with tri := 1 }) id rasterHead (fun _ j _ _ => j.locked && j.records.isEmpty && decide ((drawOf drawBytes).count ≤ j.tri)) = true := by
  decide +kernel

/-- A record to append at its claimed index, at the tail, and to a full queue. -/
theorem wit_PruneAndRasterUnit_appends :
    drawIs (fun j => { j with records := [List.replicate 64 1], slots := [0] }) id recordHead (fun s j p q => match j.records, j.slots with
      | r :: _, n :: _ => (match fragPublish s j p q n r with | (s1, .ok _) => s1.rasters.map RasterJob.id == s.rasters.map RasterJob.id | _ => false)
      | _, _ => false) = true
    ∧ drawIs (fun j => { j with records := [List.replicate 64 1] }) id recordHead (fun s j p q => j.slots.isEmpty && match j.records with
      | r :: _ => (match engineAppend s j.core j.ctx j.gid j.lane p q r with | some (s1, .ok _) => s1.rasters.map RasterJob.id == s.rasters.map RasterJob.id | _ => false)
      | _ => false) = true
    ∧ drawIs (fun j => { j with records := [List.replicate 64 1] }) (fun q => { q with tail := 4 }) recordHead (fun _ j _ q =>
      !j.records.isEmpty && j.slots.isEmpty && decide (q.nrec ≤ q.occupancy)) = true := by decide +kernel


/-! ### Stage queues, events, tasks, system words -/

/-- The word of an instruction placed at issue, with its page's neighbour GiB readable and writable. -/
def placedI (i : Instr) : State :=
  onLanes 1 ((placed ((encode i).headD 0).toNat).writePa (placedFrame + 0x400008) (toBytes (190 * 2 ^ 30 + 0xCF) 8))

/-- ENQ from v8 on to queue k2, DEQ to v8 on from it. -/
def enqF : Fields := fw 0 8 0x82 0x0CA 0
def deqF : Fields := fw 8 0 0x82 0x0CA 0
def enqState : State := piped id oneLane

theorem wit_StageQueueWords :
    Met (.enq enqF) (enqReady (.enq enqF)) (enqBar (.enq enqF)) (fun e b _ _ => e.batch? b.id = some b)
    ∧ leaves (.enq enqF) (enqReady (.enq enqF)) (enqBar (.enq enqF)) (waiting .enq enqState) (fun s b g => b.wait == some .enq
      && acting (.enq enqF) g 1 == laneBit 0 && s.group? g.gid == some g && g.flights.isEmpty && g.held.isEmpty && s.wps.all (fun w => w.isNone)
      && s.contexts.all (fun c => c.fpol != 1) && fullVerdict (.enq enqF) (enqReady (.enq enqF)) (enqBar (.enq enqF)) s b g 1 == .ok
      && match groupPipe s g, stageQueue (.enq enqF) s b g with
        | some p, some q => q.index == queueNo (.enq enqF) s b g && p.queues.length == 1 && (nth p.queues 0).index == 0
        | _, _ => false) = true
    ∧ meets (.deq deqF) (deqReady (.deq deqF)) (deqBar (.deq deqF)) enqState (fun e b g p => e.batch? b.id == some b && acting (.deq deqF) g p != 0) = true
    ∧ leaves (.deq deqF) (deqReady (.deq deqF)) (deqBar (.deq deqF)) (waiting (.deq []) enqState) (fun s b g => b.wait == some (.deq []) && s.wps.all (fun w => w.isNone) && g.flights.isEmpty && g.held.isEmpty) = true :=
  ⟨met_dec enqState (by decide), by decide, by decide, by decide⟩

/-- A claimed record of v8 on that can be written; a record that a DEQ in flight can take. -/
theorem wit_StageQueueWords_records :
    flying (.enq enqF) (waiting .enq enqState) (fun s g fl o => flightMay s g.gid fl.seq && g.flights == [fl] && fl.kind == .enq && fl.held.isEmpty && fl.void == 0
      && fl.parts.isEmpty && (fl.ops.find? fun o => o.lane == 0) == some o && inMask fl.pending 0 && g.held.isEmpty && g.trap.isNone && Memory.wf s.mem
      && s.cores.all (fun c => c.pend.isEmpty) && match groupPipe s g with
        | some p => (match p.queues[o.ea]? with
          | some q => q.index == o.ea && p.queues.length == 1
            && (match portParts s g.core g.ctx (q.base + o.tgt % q.nrec * q.rsz) 64 .write ((o.data.drop 1).flatMap fun w => toBytes w.toNat 8) with
              | (_, .ok [(_, 64, .local _)]) => true
              | _ => false)
          | none => false)
        | none => false) = true
    ∧ (flying (.deq deqF) (piped (fun q => { q with tail := 1 }) oneLane) fun s g fl o => flightMay s g.gid fl.seq && fl.kind == .deq && fl.held.isEmpty
      && fl.pending == laneBit 0 && !deqQuad fl.instr && (g.fibre 0).live && !(g.fibre 0).helper && decide (0 < g.wg) && decide (0 < g.fibres.length)
      && match groupPipe s g with
        | some p => deqMates s g fl p.pid o.ea == [(g, fl)] && (match p.queues[o.ea]? with
          | some q => decide (1 ≤ q.available) && q.index == o.ea && (match recordBytes s g q q.head with | (_, .ok _) => true | _ => false)
          | none => false)
        | none => false) = true := by decide +kernel

/-- A task: one group, no scratchpad, a context with four records, both segments suspendable. -/
def tasked (s : State) : State :=
  { s with
    launches := s.launches.map fun l => { l with scr := 0, flags := 0 }
    objects := s.objects.map fun o => { o with segs := [⟨0, 2, 2, 0, 0⟩] }
    contexts := s.contexts.map fun c => { c with cpool := 2 ^ 30 + 0x40000, ccount := 4 } }

/-- The batch of a word with a successor has waited 4096 clocks. -/
def longWaiting (w : Wait) (s : State) : State := { waiting w s with clock := 5000 }
def enqLong : Fields := fw 0 8 0x82 0x83 0
def longEnq (t : State → State) : State := longWaiting .enq (piped (fun q => { q with tail := 4 }) (t (placedI (.enq enqLong))))

/-- The queue is full and the group may suspend, or may not. -/
def enqSuspends (s : State) (q : State → Batch → Group → Mask → StageQueue → Bool) : Bool :=
  match s.batches with
  | [b] => b.wait == some .enq && (match longWait s b ((b.members.map Member.gid).headD 0) with
    | some (i, g, m) => i == .enq enqLong && b.members.map Member.gid == [g.gid] && (match stageQueue i s b g with
      | some x => decide (x.nrec - x.occupancy < enqCount i s b x) && q s b g m x
      | none => false)
    | none => false)
  | _ => false

theorem wit_StageQueueWords_suspends :
    enqSuspends (longEnq id) (fun s b g _ _ => (suspendRecord s g b.seg (succVal (.enq enqLong) s b g)).isNone) = true
    ∧ enqSuspends (longEnq tasked) (fun s b g m q => let n := (lanesOf (acting (.enq enqLong) g m)).length
      waitMay s g.gid && decide (q.index < 64) && decide (1 ≤ n) && (trySuspend s g b.seg (succVal (.enq enqLong) s b g) (waitRoom q.index n)).isSome) = true := by decide +kernel

def evF : Fields := fw 0 9 10 0 0
def evwF : Fields := fw 0 9 10 0x83 0

theorem wit_EventWords :
    meets (.evsig evF) (syncReady (.evsig evF)) (nameBar (.evsig evF) fun _ _ _ _ => false) oneLane
      (fun e _ g p => acting (.evsig evF) g p == laneBit 0 && (e.context? g.ctx).isSome) = true
    ∧ Met (.evwait evwF) evwaitReady (nameBar (.evwait evwF) fun _ _ _ _ => false) (fun e b _ _ => e.batch? b.id = some b)
    ∧ leaves (.evwait evwF) evwaitReady (nameBar (.evwait evwF) fun _ _ _ _ => false) (waiting (.event true) oneLane)
      (fun _ b g => b.wait == some (.event true) && g.flights.isEmpty && g.held.isEmpty) = true :=
  ⟨by decide, met_dec oneLane (by decide), by decide⟩

/-- A batch in EVWAIT for event 16 to reach 32, unmet, or for event 0 to reach 0, met. -/
def longEvent (a b : Word) (t : State → State) : State := longWaiting (.event false) (onGroup (fun g => setV 0 9 a (setV 0 10 b g)) (t (placedI (.evwait evwF))))

def evWaits (s : State) (q : State → Batch → Bool) : Bool :=
  match s.batches with
  | [b] => b.wait == some (.event false) && (match (fetchInstr s b).2 with | .ok i => i == .evwait evwF | .error _ => false) && q s b
  | _ => false

theorem wit_EventWords_releases :
    evWaits (longEvent 0 0 id) (fun s b => (evUnmet (.evwait evwF) s b).isEmpty) = true
    ∧ evWaits (longEvent 16 32 id) (fun s b => !(evUnmet (.evwait evwF) s b).isEmpty) = true := by decide +kernel

def evSuspends (t : State → State) (q : State → Batch → Group → Nat → Nat → Bool) : Bool :=
  evWaits (longEvent 16 32 t) fun s b => match longWait s b ((b.members.map Member.gid).headD 0) with
    | some (i, g, m) => i == .evwait evwF && b.members.map Member.gid == [g.gid] && (match evUnmetIn (.evwait evwF) s b g m with
      | (n, tgt) :: _ => q s b g n tgt
      | [] => false)
    | none => false

theorem wit_EventWords_suspends :
    evSuspends id (fun s b g _ _ => (suspendRecord s g b.seg (succVal (.evwait evwF) s b g)).isNone) = true
    ∧ evSuspends tasked (fun s b g n tgt => waitMay s g.gid && decide (n < 0xFFFF) && decide (tgt < 2 ^ 32)
      && (trySuspend s g b.seg (succVal (.evwait evwF) s b g) (waitEvent n tgt)).isSome) = true := by decide +kernel

def susF : Fields := fw 0 0x82 0x83 0 0
def susState : State := tasked (placedI (.suspend susF))

/-- The successor field is zero: no suspension. -/
def susZero : Fields := fw 0 0x82 0x0CA 0 0

theorem wit_TaskWords :
    meets (.suspend susF) (suspendWordReady (.suspend susF)) (suspendBar (.suspend susF)) susState (fun e b g _ =>
      match suspendRecord e g b.seg (suspendSucc (.suspend susF) e b g) with
      | some n => (match suspendPage e g n with | .ok () => true | _ => false)
        && (suspendGroup e g.gid (suspendSucc (.suspend susF) e b g) (suspendWait (.suspend susF) e b g) n).isSome
        && (contWait (srcA e (srcCtx e b g) g 0 (.suspend susF))).isSome
      | none => false) = true
    ∧ susF.sb ≠ 0x0CA ∧ susZero.sb = 0x0CA
    ∧ Met (.suspend susZero) (suspendWordReady (.suspend susZero)) (suspendBar (.suspend susZero)) (fun e b _ _ => e.batch? b.id = some b) :=
  ⟨by decide +kernel, by decide, by decide, met_dec susState (by decide)⟩

/-- Four words to spawn with: name 16 and count 1 in v9. -/
theorem wit_TaskWords_counters :
    meets (.spawn (fw 0 9 16 0 0)) memReady (spawnBar (.spawn (fw 0 9 16 0 0))) (onGroup (setV 0 9 0x10010) oneLane) (fun e b g p =>
      acting (.spawn (fw 0 9 16 0 0)) g p == laneBit 0 && (srcA e (srcCtx e b g) g 0 (.spawn (fw 0 9 16 0 0))).toNat / 2 ^ 16 % 2 ^ 32 != 0) = true
    ∧ meets (.dcdec evF) (syncReady (.dcdec evF)) (nameBar (.dcdec evF) fun _ _ _ _ => false) oneLane (fun _ _ g p => acting (.dcdec evF) g p == laneBit 0) = true := by decide

/-- A task's packet in v16 on: one block of the placed code object. -/
def taskPacket : List Byte := toBytes (0x10 + 2 * 2 ^ 32 + 2 ^ 128 + 2 ^ 160 + 2 ^ 192 + 0xFFFF * 2 ^ 240) 64
def spawning : State :=
  onGroup (fun g => (List.range 8).foldl (fun g j => setV 0 (16 + j) (BitVec.ofNat 64 (byteField taskPacket (8 * j) 8)) g) (setV 0 9 16 g)) oneLane

/-- A count of 0 launches the task at once. -/
theorem wit_TaskWords_at_once :
    let i := Instr.spawn (fw 0 9 16 0 0)
    meets i memReady (spawnBar i) spawning (fun e b g p => decide (e.launches.length < 1024) && acting i g p == laneBit 0
      && (srcA e (srcCtx e b g) g 0 i).toNat / 2 ^ 16 % 2 ^ 32 == 0 && e.counters.isEmpty
      && (let bs := (List.range 8).flatMap fun j => toBytes (spanVal e (srcCtx e b g) g 0 16 j).toNat 8
        packetErr e g.ctx true bs == 0 && packetErrFor (e.object? g.ctx) true bs == 0 && (launchOf bs).stage == 0xFFFF)) = true := by decide

/-- The task has a record in the pool, its bytes all zero, and no core holds a group. -/
def resumable : State :=
  { susState with issue := none, groups := [], blocks := [], batches := [], conts := [⟨4096, 0, .ready, 1, []⟩], cores := susState.cores.map fun c => { c with carve := 4 } }

theorem wit_TaskWords_resumes : (match decision resumable with
    | some (l, .cont n, core) => l.ctx == 4096 && ((resumable.core? core).getD default).carve == l.carve
      && (resumable.conts.find? fun k => k.ctx == 4096 && k.record == n).isSome
      && (match homes resumable core l.wg l.win 1 with | some [_] => true | _ => false)
      && (match resumable.context? 4096 with
        | some c => (takeRuns c (l.priv * l.wg) 1 c.regions).isSome && (match parkRead resumable tscAgent 1 4096 (c.recordAddr n) 8192 with | (_, .ok _) => true | _ => false)
        | none => false)
    | _ => false) = true := by decide +kernel


/-- The group runs its handler in frame 0. -/
def privileged (s : State) : State := onGroup (fun g => { g with frame := some 0, frameVa := 2 ^ 30 + 0x40000, savedObj := 2 }) s

theorem wit_SystemWordsTakeTheirEffect :
    Met (.time (fw 4 0 0 0 0)) alwaysReady noBar always
    ∧ ([0, 5, 8, 0x10, 0x11].all fun n => sysNumber (iw 0 7 n) == n && meets (.swrite (iw 0 7 n)) (swriteReady (iw 0 7 n)) (sysBar (.swrite (iw 0 7 n)) true) (privileged (placed 0))
      (fun e _ g _ => (e.context? g.ctx).isSome && decide (g.fibres.length ≤ 32))) = true
    ∧ meets (.dbgmb (fw 0 3 0 0 0)) alwaysReady dbgmbBar (onGroup (fun g => { g with dbg := true }) (placed 0)) (fun e _ g _ => e.mailbox.length == 32 && (e.context? g.ctx).isSome) = true
    ∧ ([Instr.pmcapStart (fw 0 0x85 0 0 0), .pmcapStop (fw 0 0x85 0 1 0)].all fun i => meets i alwaysReady noBar (placed 0)
      (fun e _ g p => g.actors p (fieldsOfInstr i) != 0 && (e.context? g.ctx).isSome)) = true
    ∧ Met (.publish (fw 0x82 0x85 0 0 0)) (syncReady (.publish (fw 0x82 0x85 0 0 0))) (publishBar (.publish (fw 0x82 0x85 0 0 0))) always :=
  ⟨met_always (placed 0) (by decide), by decide, by decide, by decide, met_always oneLane (by decide)⟩

/-- A request of zeros at 0x20000, which breaks R415; its turn comes with any number. -/
theorem wit_SystemWordsTakeTheirEffect_request :
    flying (.publish (fw 0x82 0x85 0 0 0)) (onGroup (fun g => { g with k := g.k.set 5 ⟨0x20000, true, false⟩ }) oneLane) (fun s g _ op => (s.context? g.ctx).isSome
      && match engineRead s g.core g.ctx op.ea 64 with
        | (s1, .ok bs) => requestBad bs && op.pubFail == 0 && op.pubReq.isNone && op.tgt != 3
          && (match engineWrite (unsealAll s1 op.ownSeals) g.core g.ctx (op.ea + 48) (toBytes 1 4 ++ toBytes 0 4) with | (_, .ok ()) => true | _ => false)
        | _ => false) = true := by decide

theorem wit_SystemWordsTakeTheirEffect_access : (match (placed 0).groups with | [g] => !g.privileged && !g.dbg | _ => false) = true := by decide

theorem wit_BrkStopsOrTraps :
    (wordBits 0x3D80000000000000 54 8 = 0xF6 ∧ (0x3D80000000000000 : Word).getLsbD 62 = false ∧ (0x3D80000000000000 : Word).getLsbD 63 = false)
    ∧ (wordBits 0xBD80000080000000 54 8 = 0xF6 ∧ (0xBD80000080000000 : Word).getLsbD 62 = false ∧ wordBits 0xBD80000080000000 30 2 ≠ 0)
    ∧ Met (.brk (iw 0 0 0x12)) alwaysReady noBar (fun e _ g p => g.actors p (iw 0 0 0x12) ≠ 0 ∧ armed e g.ctx 0 = false)
    ∧ Met (.brk (iw 0 0 0x12)) alwaysReady noBar (fun e _ g p => g.actors p (iw 0 0 0x12) ≠ 0 ∧ armed e g.ctx 0 = true ∧ jobRuns e g.ctx = true ∧ e.trigs = [])
    ∧ Met (.brk { iw 0 0 0x12 with g := 1 }) alwaysReady noBar (fun _ _ g p => g.actors p { iw 0 0 0x12 with g := 1 } = 0) :=
  ⟨by decide, by decide, met_dec (placed 0) (by decide),
   met_dec { placed 0 with contexts := (placed 0).contexts.map fun c => { c with trig := 1 } } (by decide), met_dec (placed 0) (by decide)⟩

/-! ### Traps -/

def softTrap : TrapInfo := ⟨.soft, 0, 1, 0x42, 0, 2, 0, 1, 0, 0⟩
def frozenJob (s : State) : State := { s with jobs := [⟨0, .frozen, none, false, [], 0, []⟩] }
def runs (s : State) : State := { s with jobs := [] }

/-- A raised trap, with the handler set up in object 2 and one frame. -/
def trapped (f : Context → Context) : State :=
  let s := runs (raiseTrap (frozenJob (placedI (.nop default))) 3 softTrap 1)
  { s with issue := none, contexts := s.contexts.map fun c => f { c with trapbase := w64 (2 ^ 63 + 2), trapframe := w64 (2 ^ 30 + 0x40000 + 1) } }

theorem wit_TrapsAreTakenAndLeft :
    Met (.trap (iw 0 0 0x42)) alwaysReady noBar (fun _ _ g p => g.actors p (iw 0 0 0x42) ≠ 0)
    ∧ Met (.trap { iw 0 0 0x42 with g := 1 }) alwaysReady noBar (fun _ _ g p => g.actors p { iw 0 0 0x42 with g := 1 } = 0)
    ∧ (match (frozenJob (placed 0)).group? 3 with | some g => g.trap.isNone && !jobRuns (frozenJob (placed 0)) g.ctx | none => false) = true
    ∧ (match (trapped id).group? 3 with | some g => g.trap.isSome | none => false) = true :=
  ⟨met_dec (placed 0) (by decide), met_dec (placed 0) (by decide), by decide, by decide +kernel⟩

/-- What the three clauses on TRAP_TAKE share, and one of them. -/
def takes (s : State) (q : State → Group → Context → Bool) : Bool :=
  match s.group? 3 with
  | none => false
  | some g0 => g0.trap.isSome && g0.stop == .trapping && jobRuns s g0.ctx && !trigWaits s g0.ctx && !armed s g0.ctx 3
    && let s1 := settleStreams (sweepHeld s 3) 3
      match s1.group? 3 with
      | none => false
      | some g => (match g.trap, s1.context? g.ctx with
        | some tr, some c => tr.cause != .pageFault && tr.cause != .brk && decide (tr.flags < 512) && g0.trap == some tr && c.run == .running && g.flights.isEmpty && q s1 g c
        | _, _ => false)

theorem wit_TrapsAreTakenAndLeft_takes :
    takes (trapped id) (fun s1 g c => c.tbEN && (s1.loaded? g.ctx c.tbHANDLE).isSome && c.tfBASE != 0 && c.tfNFR != 0 && !g.privileged && !savesPoison g && match c.freeFrame with
      | some n => (match portXl s1 g (c.frameAddr n) .write 65536 [] with | (s2, .ok (.local _)) => Memory.wf s2.mem && !traced s2 g | _ => false)
      | none => false) = true
    ∧ takes (trapped fun c => { c with frames := [0] }) (fun s1 g c => c.tbEN && (s1.loaded? g.ctx c.tbHANDLE).isSome && c.tfBASE != 0 && c.tfNFR != 0 && !g.privileged
      && c.freeFrame.isNone) = true
    ∧ takes (trapped fun c => { c with trapbase := 0 }) (fun _ _ c => !c.tbEN) = true := by decide +kernel

/-- RFT of the last live lane, and of one of eight. -/
theorem wit_TrapsAreTakenAndLeft_returns :
    Met (.rft (fw 0 0 0 0 0)) rftReady rftBar (fun _ _ g p => g.liveMask &&& ~~~(g.rft ||| p) = 0)
    ∧ Met (.rft (fw 0 0 0 0 0)) rftReady rftBar (fun _ _ g p => g.liveMask &&& ~~~(g.rft ||| p) ≠ 0) :=
  ⟨met_dec (privileged (placed 0)) (by decide), met_dec (privileged (onLanes 1 (placed 0))) (by decide)⟩

/-- Back in the frame: it holds zeros. -/
def returning : State :=
  let s := privileged (placedI (.nop default))
  { s with contexts := s.contexts.map fun c => { c with trapframe := w64 (2 ^ 30 + 0x40000 + 1), frames := [0] } }

/-- Every lane's release and acquire before the frame is read. -/
def settled (s : State) (g : Group) : State :=
  (lanesOf g.liveMask).foldl (fun s l => acquireAt (releaseAt s g.core g.ctx g.gid l .device) g.core g.ctx g.gid l .device) s

/-- A read where no write waits in the core is what stands at the homes. -/
theorem engineRead_of_alone {s s1 : State} {core ctx va n : Nat} {parts : List (Nat × Nat × Target)} (hp : portParts s core ctx va n .read [] = (s1, .ok parts))
    (hh : (homeBytes s1 parts).2 = false) (hw : ∀ c, s1.core? core = some c → c.pend = []) :
    engineRead s core ctx va n = (chargeHome s1 ctx 7600 0 parts, .ok (homeBytes s1 parts).1) := by
  obtain ⟨l, c, hd⟩ := chargeHome_does s1 ctx 7600 0 parts
  have hs : ∀ pick, performSome { s1 with llc := l, contexts := c } core pick = { s1 with llc := l, contexts := c } := by
    intro pick
    have hc : ({ s1 with llc := l, contexts := c } : State).core? core = s1.core? core := rfl
    unfold performSome
    rw [hc]
    cases h : s1.core? core with
    | none => rfl
    | some k => simp [hw k h]
  have hb : homeBytes { s1 with llc := l, contexts := c } parts = homeBytes s1 parts := rfl
  simp [engineRead, hp, hh, hd, hs, hb, State.choose]

def frameReads (s : State) (gid : Nat) : Bool :=
  match s.group? gid with
  | none => false
  | some g => g.frame == some 0 && g.held.isEmpty && g.flights.isEmpty && g.rqn == 0 && match s.context? g.ctx with
    | none => false
    | some _ => (match portParts (settled s g) g.core g.ctx g.frameVa 0xD600 .read [] with
      | (s1, .ok parts) => (chargeHome s1 g.ctx 7600 0 parts).group? gid == some g && ((chargeHome s1 g.ctx 7600 0 parts).context? g.ctx).isSome
        && !(homeBytes s1 parts).2 && s1.cores.all fun k => k.pend.isEmpty
      | _ => false)

theorem wit_TrapsAreTakenAndLeft_frame : ∃ g c s1 c1 fr, returning.group? 3 = some g ∧ g.frame = some 0 ∧ returning.context? g.ctx = some c ∧ g.held = []
    ∧ g.flights = [] ∧ engineRead (settled returning g) g.core g.ctx g.frameVa 0xD600 = (s1, .ok fr) ∧ s1.group? 3 = some g
    ∧ s1.context? g.ctx = some c1 ∧ g.rqn = 0 := by
  have h : frameReads returning 3 = true := by decide +kernel
  unfold frameReads at h
  split at h
  · exact absurd h (by decide)
  · rename_i g hg
    simp only [Bool.and_eq_true, beq_iff_eq, List.isEmpty_iff] at h
    obtain ⟨⟨⟨⟨hf, hh⟩, hl⟩, hr⟩, h⟩ := h
    split at h
    · exact absurd h (by decide)
    · rename_i c hc
      split at h
      · rename_i s1 parts hp
        simp only [Bool.and_eq_true, beq_iff_eq, List.isEmpty_iff, Bool.not_eq_true', List.all_eq_true, Option.isSome_iff_exists] at h
        obtain ⟨⟨⟨h1, c1, h2⟩, h3⟩, h4⟩ := h
        exact ⟨g, c, _, c1, _, hg, hf, hc, hh, hl, engineRead_of_alone hp h3 fun k hk => h4 k (List.mem_of_find?_eq_some hk), h1, h2, hr⟩
      · exact absurd h (by decide)


/-! ### Launches and pipelines -/

/-- A launch queue with a packet of one block of one group on object 2, and with one of zeros. -/
def launchPacket (op : Nat) : List Byte :=
  toBytes (op + (4 * 2) * 2 ^ 16 + 2 * 2 ^ 32 + 1 * 2 ^ 128 + 1 * 2 ^ 160 + 1 * 2 ^ 192 + 1 * 2 ^ 232 + 0xFFFF * 2 ^ 240) 60 ++ toBytes 1 4
def launching (op : Nat) : State := { oneLane with queues := [{ copyQueue with cls := 1 }] }.writePa (placedFrame + 0x21000) (launchPacket op)

def offers (s : State) (q : State → List Byte → Bool) : Bool :=
  match s.queue? 4096 0x20000, s.context? 4096 with
  | some k, some c => k.cls == 1 && !k.closing && decide (s.launches.length < 1024) && c.run == .running && jobRuns s 4096 && (match nextPacket s k with
    | (s1, some bs) => (match canEnd s1 k k.next with
      | (s2, true) => q s2 bs
      | _ => false)
    | _ => false)
  | _, _ => false

theorem wit_LaunchesRunTheirBlocks_accepts :
    offers (launching 0x10) (fun s2 bs => match acceptPacket s2 4096 (some (0x20000, 0)) true bs s2.clock none with | (_, some (.ok _)) => true | _ => false) = true
    ∧ offers (launching 0x11) (fun s2 bs => packetErr s2 4096 true bs != 0) = true := by decide +kernel

/-- The launch's one block is still to admit, and the core stands at its carve-out or at another. -/
def admitting (carve : Nat) : State :=
  { placed 0 with issue := none, groups := [], blocks := [], batches := [], launches := (placed 0).launches.map fun l => { l with next := 0 },
                  cores := (placed 0).cores.map fun c => { c with carve := carve } }

theorem wit_LaunchesRunTheirBlocks_admits : (match decision (updateReserved (admitting 4)) with
    | some (l, .fresh _, core) => (((updateReserved (admitting 4)).core? core).getD default).carve == l.carve
      && (homes (updateReserved (admitting 4)) core l.wg l.win l.gpb).isSome
      && (match (updateReserved (admitting 4)).context? l.ctx with | some c => (takeRuns c (l.priv * l.wg) l.gpb c.regions).isSome | none => false)
      && ((updateReserved (admitting 4)).object? l.ctx l.code).isSome
    | _ => false) = true := by decide +kernel

theorem wit_LaunchesRunTheirBlocks_carves : (match decision (admitting 2) with
    | some (l, _, core) => (match (admitting 2).core? core with | some c => c.carve != l.carve | none => false) && (admitting 2).groups.all fun g => g.core != core
    | none => false) = true := by decide +kernel

/-- The launch has no more block, and a pipeline's one stage is drained. -/
def emptied : State := { placed 0 with issue := none, groups := [], blocks := [], batches := [] }

theorem wit_LaunchesRunTheirBlocks_ends :
    (match emptied.launch? 1 with
     | some l => launchDone emptied l && engineRuns emptied l.ctx .issue && (emptied.context? l.ctx).isSome && emptied.counters.isEmpty && l.queue.isNone
     | none => false) = true
    ∧ ({ emptied with clock := 65536 } : State).rounds < (({ emptied with clock := 65536 } : State).clock - emptied.resetClock) / 65536
    ∧ (emptied.clock - emptied.resetClock) / 65536 ≤ emptied.rounds
    ∧ (match (piped id emptied).pipe? 50 with
     | some p => (match p.stages[0]? with
       | some st => !st.ended && engineRuns (piped id emptied) p.ctx .issue && stageMayEnd (piped id emptied) p st
       | none => false)
     | none => false) = true := by decide

/-! ### The host -/

/-- A part that is ready, with context 5, its loader and one queue. -/
def hosted : State :=
  { State.reset with host := { State.reset.host with ready := true }, contexts := [contextOf 5 (List.replicate 128 0)], objects := [loaderObj 5] }

/-- A command under way. -/
def cmd (code a0 a1 a2 a3 : Nat) (s : State) : State := { s with hostCmd := some ⟨code, w64 a0, w64 a1, w64 a2, w64 a3, none⟩ }

theorem wit_HostAccessesAndTheControlWindow :
    ((gddrSize - 8) + [1#8, 2, 3, 4, 5, 6, 7, 8].length ≤ gddrSize ∧ hosted.host.ready = true ∧ Memory.wf hosted.mem = true)
    ∧ (0x1000 % 16 = 0 ∧ hosted.isSealed 0x1000 = false)
    ∧ (({ hosted with sealed := [15] } : State).isSealed (15 * 65536 + 65528) = true ∧ (15 * 65536 + 65528) % 65536 + 8 ≤ 65536) ∧ (gddrSize < (gddrSize - 8) + 16) ∧ State.reset.host.ready = false
    ∧ (hosted.host.busy = false ∧ hosted.contexts ≠ [] ∧ State.reset.contexts = [])
    ∧ ({ hosted with host := { hosted.host with busy := true } } : State).host.busy = true
    ∧ (knownCommand 0xFF = false) ∧ (cmdNow (cmd 0x0B 7 0 0 0 hosted) 0x0B).isSome = true ∧ (w64 7).toNat < 2 ^ 32 ∧ 2 ^ 32 ≤ (w64 (2 ^ 32)).toNat := by decide

/-! ### Walks, faults, peers, seals -/

def someRecord : FaultRec := ⟨5, 3, 1, 0, 1, true, 0, none, false⟩
def ringed (r : FaultRec) (tail : Nat) (s : State) : State := { s with faults := [r], host := { s.host with frbase := 0x8000, frlog := 4, frtail := tail } }

/-- Context 5 maps nothing; the placed context maps its GiB. -/
theorem wit_WalksFaultsAndPeerRequests_walks :
    (match hosted.context? 5 with
     | some c => (match translate hosted 578 c 0x20000 .read 0 [] with | (s1, .error (.page _)) => s1.faults.isEmpty | _ => false)
     | none => false) = true
    ∧ (match (placed 0).context? 4096 with
     | some c => (match translate (placed 0) 578 c 0x20000 .fetch 0 [] with | (_, .ok _) => true | _ => false)
     | none => false) = true
    ∧ (match (placed 0).context? 4096 with
     | some c => (match translate (placed 0) 578 c 0x20000 .write 0 [] with | (_, .error .access) => true | _ => false)
     | none => false) = true
    ∧ (match (ringed someRecord 0 hosted).context? 5 with
     | some c => (match translate (ringed someRecord 0 hosted) 578 c 0x30000 .read 0 [] with
       | (s1, .error (.page _)) => (s1.faults.find? fun r => r.ctx == 5 && r.vpage == 0x30000 / 65536) == some someRecord
       | _ => false)
     | none => false) = true := by decide

theorem wit_WalksFaultsAndPeerRequests_records :
    ((((ringed someRecord 0 hosted).faults.find? fun r => r.slot.isNone) == some someRecord) && ringUsable (ringed someRecord 0 hosted).host && !ringFull (ringed someRecord 0 hosted).host) = true
    ∧ ringFull (ringed someRecord 15 hosted).host = true
    ∧ ((cmdNow (cmd 0x07 2 0 0 0 (ringed { someRecord with slot := some 2 } 3 hosted)) 0x07).isSome
      && recordAt (cmd 0x07 2 0 0 0 (ringed { someRecord with slot := some 2 } 3 hosted)) 2 == some { someRecord with slot := some 2 }) = true
    ∧ ((cmdNow (cmd 0x08 2 0 0 0 (ringed { someRecord with slot := some 2 } 3 hosted)) 0x08).isSome
      && recordAt (cmd 0x08 2 0 0 0 (ringed { someRecord with slot := some 2 } 3 hosted)) 2 == some { someRecord with slot := some 2 }) = true
    ∧ recordAt (cmd 0x07 2 0 0 0 hosted) 2 = none ∧ hosted.heldPeers = [] ∧ hosted.parks = [] ∧ hosted.counters = [] ∧ hosted.groups = [] := by decide

/-- A peer's read in job 0 of the placed context, of a job that is frozen, of one that is not here. -/
def peerRead (job : Nat) : PeerReq := ⟨job, 1, .read, 0x20000, 8, [], 0, .b64, 1, false⟩
def readyPart (s : State) : State := { s with host := { s.host with ready := true } }

theorem wit_WalksFaultsAndPeerRequests_peers :
    (match (readyPart (rwx (placed 0))).jobContext? 0 with
     | some c => (readyPart (rwx (placed 0))).jobState c.jobKey == .running && (match portParts (readyPart (rwx (placed 0))) 579 c.ctx 0x20000 8 .read [] with
       | (s1, .ok _) => s1.jobState 0 == .running
       | _ => false)
     | none => false) = true
    ∧ (match (frozenJob (placed 0)).jobContext? 0 with | some c => (frozenJob (placed 0)).jobState c.jobKey != .running | none => false) = true
    ∧ ((placed 0).jobContext? 7).isNone = true ∧ (placed 0).jobState 7 = .running := by decide

theorem wit_WalksFaultsAndPeerRequests_seals :
    ((cmdNow (cmd 0x06 5 0 0 0 hosted) 0x06).isSome && (hosted.context? 5).isSome && hosted.tlb.isEmpty) = true
    ∧ ((cmdNow (cmd 0x09 0x10000 2 0 0 hosted) 0x09).isSome) = true ∧ ((w64 0x10000).toNat % 65536 = 0 ∧ (w64 0x10000).toNat + 65536 * (w64 2).toNat ≤ gddrSize)
    ∧ (w64 0x10001).toNat % 65536 ≠ 0 ∧ ((cmdNow (cmd 0x0A 0x10000 2 0 0 hosted) 0x0A).isSome) = true := by decide

/-! ### Contexts -/

/-- A descriptor that CTX_CREATE takes: job none, vector 4; and a queue's header. -/
def goodDescriptor : List Byte := toBytes (2 ^ 21 + 0xFFFF * 2 ^ 80 + 4 * 2 ^ 96) 128
def goodHeader : List Byte := List.replicate 136 0 ++ toBytes 0x21000 8 ++ toBytes 4 48
def describedAt : State := hosted.writePa (128 * 7) goodDescriptor

theorem wit_ContextsAreMadeStoppedAndSaved_makes :
    ((cmdNow (cmd 0x01 5 0 0 0 hosted) 0x01).isSome && (hosted.context? 5).isSome && decide (5 < 4096) && decide (hosted.host.ctxt + 128 * 5 + 128 ≤ gddrSize)) = true
    ∧ ((cmdNow (cmd 0x01 7 0 0 0 describedAt) 0x01).isSome && (describedAt.context? 7).isNone && !describedAt.poisoned (describedAt.host.ctxt + 128 * 7) 128
      && descriptorOk describedAt (describedAt.readPa (describedAt.host.ctxt + 128 * 7) 128)) = true
    ∧ ((cmdNow (cmd 0x02 7 0 0 0 hosted) 0x02).isSome && (hosted.context? 7).isNone && (cmdNow (cmd 0x02 5 0 0 0 hosted) 0x02).isSome && hosted.counters.isEmpty) = true
    ∧ ((cmdNow (cmd 0x12 5 0x10 0 0 hosted) 0x12).isSome) = true := by decide

/-- Queues: a good and a bad header in memory, a copy queue and a launch queue, a packet in hand. -/
def queued (h : List Byte) : State := cmd 0x03 4096 0x20000 0 0 (oneLane.writePa (placedFrame + 0x20000) h)
def twoQueues (o : List Nat) : State := { oneLane with queues := [{ copyQueue with openIdx := o }, { copyQueue with cls := 1, header := 0x20100 }] }

def registers (s : State) (q : List Byte → Bool) : Bool :=
  match cmdNow s 0x03 with
  | none => false
  | some k => (s.context? k.a0.toNat).isSome && k.a1.toNat % 128 == 0 && decide (s.queues.length < 8192) && (s.queue? k.a0.toNat k.a1.toNat).isNone
    && match engineRead s tscAgent k.a0.toNat k.a1.toNat 192 with
      | (s1, .ok bs) => s1.hostCmd == some k && q bs
      | _ => false

theorem wit_ContextsAreMadeStoppedAndSaved_queues :
    registers (queued goodHeader) headerOk = true ∧ registers (queued (toBytes 0 192)) (fun bs => !headerOk bs) = true
    ∧ ((cmdNow (cmd 0x04 0x20000 0x20100 3 0 (twoQueues [])) 0x04).isSome && ((twoQueues []).queues.find? fun q => q.header == 0x20000 && q.cls == 0).isSome
      && match (twoQueues []).queue? 4096 0x20100 with | some l => l.cls == 1 | none => false) = true
    ∧ ([[], [3]].all fun o => (cmdNow (cmd 0x05 0x20000 0 0 0 (twoQueues o)) 0x05).isSome
      && match (twoQueues o).queues.find? (fun q => q.header == 0x20000) with | some q => q.openIdx == o | none => false) = true := by decide

def stoppingAt (s : State) (a : List EngineId) (arg : Option (Nat × Nat)) : State :=
  { s with contexts := s.contexts.map fun c => { c with run := .stopping, acks := a, stopArg := arg } }
def idle (s : State) : State := { s with issue := none }
def allEngines : List EngineId := [.issue, .msq, .copy, .marcher, .raster, .grinder, .fabric]

theorem wit_ContextsAreMadeStoppedAndSaved_stops :
    (match (placed 0).context? 4096 with
     | some c => c.stopArg.isNone && c.run == .running && jobRuns (placed 0) 4096 && (cmdNow (cmd 0x10 4096 0x10000 0x10000 0 (placed 0)) 0x10).isSome
     | none => false) = true
    ∧ (match (stoppingAt emptied [] none).context? 4096 with
     | some c => c.run == .stopping && allEngines.all fun e => !c.acks.contains e && engineQuiet (stoppingAt emptied [] none) 4096 e
     | none => false) = true
    ∧ ([0, 65536].all fun n =>
      let s := stoppingAt { idle (placed 0) with clock := n } [] none
      match s.group? 3 with
      | some g => (match s.context? g.ctx with
        | some c => c.run == .stopping && !c.acks.contains .issue && !issueOf s g.ctx && !debugBusy s g.ctx && g.stop == .running
          && (if n = 0 then decide (s.clock < c.stopAt + 65536) else decide (c.stopAt + 65536 ≤ s.clock)
            && (match (raiseHeld (qputSweep (settleStreams (sweepHeld s 3) 3) 3) 3).group? 3 with | some g1 => g1.stop == .running | none => false))
        | none => false)
      | none => false) = true
    ∧ (match (stoppingAt (idle (placed 0)) allEngines none).context? 4096 with
     | some c => c.run == .stopping && allEngines.all (fun e => c.acks.contains e) && c.stopArg.isNone
     | none => false) = true := by decide +kernel

/-- A saved context, its image in place or lost, and one that starts with every block back. -/
def someImage (bs : List Block) : SaveImage := ⟨5, 0x10000, 16, List.replicate 16 0, [], bs, [], [], [], []⟩
def saved (r : RunState) (bs : List Block) : State := { hosted with images := [someImage bs], contexts := hosted.contexts.map fun c => { c with run := r } }

theorem wit_ContextsAreMadeStoppedAndSaved_starts :
    (match (saved .saved []).context? 5 with | some c => c.run == .saved && jobRuns (saved .saved []) 5 && (cmdNow (cmd 0x11 5 0x10000 0 0 (saved .saved [])) 0x11).isSome | none => false) = true
    ∧ (imageAt (saved .saved (placed 0).blocks) 5 0x10000).isSome = true ∧ (placed 0).blocks ≠ []
    ∧ imageAt ((saved .saved []).writePa 0x10000 [1]) 5 0x10000 = none
    ∧ (match (saved .starting []).context? 5, (saved .starting []).images.find? (fun im => im.ctx == 5) with
     | some c, some im => c.run == .starting && im.blocks.isEmpty && imageFits (saved .starting []) im
     | _, _ => false) = true := by decide +kernel

/-- A save into an area as large as the image, whatever its size: the blocks may not be discarded. -/
theorem wit_ContextsAreMadeStoppedAndSaved_saves :
    (cmd 0x10 4096 0x10000 0 0 (placed 0)).hostCmd.isSome = true ∧ ((placed 0).context? 4096).isSome = true
    ∧ (∀ b ∈ (placed 0).blocks, b.ctx = 4096 → discardable (placed 0) b = false)
    ∧ Config.imageSize (placed 0).free ≤ Config.imageSize (placed 0).free ∧ Config.imageSize (placed 0).free < Config.imageSize (placed 0).free + 1 :=
  ⟨by decide, by decide, by decide, Nat.le_refl _, Nat.lt_succ_self _⟩


/-! ### Errors, debug -/

theorem wit_PartEventsBootHeatAndErrors :
    (1 ≤ 9 ∧ 9 < State.reset.secnt.length) ∧ (17 < 18 ∧ 8 < State.reset.secnt.length) ∧ 17 ∉ State.reset.linksDown ∧ (gddrSize - 1 < gddrSize)
    ∧ (match (placed 0).group? 3 with | some g => decide (7 < g.fibres.length) && decide (127 < (g.fibre 7).v.length) && decide (63 < g.k.length) | none => false) = true := by decide

/-- Context 5 in a job that is frozen since clock 0, freezing, or releasing at 9000. -/
def someTrigger : TrigRec := ⟨0, 0, 0, 0, 0, 0, 0x13⟩
def inJob (st : JobState) (s : State) : State := { s with jobs := [⟨0, st, some someTrigger, true, [], 9000, [haltKey someTrigger, (8000, 0)]⟩] }

theorem wit_DebugCommandsWavesAndTraces_halts :
    ((cmdNow (cmd 0x13 5 31 0 0 hosted) 0x13).isSome && (hosted.context? 5).isSome && jobRuns hosted 5) = true ∧ ((w64 31).toNat < 32 ∧ 32 ≤ (w64 32).toNat)
    ∧ (cmdNow (cmd 0x14 5 0 0 0 hosted) 0x14).isSome = true
    ∧ ((cmdNow (cmd 0x15 5 5000 0 0 (inJob .frozen hosted)) 0x15).isSome && (match (inJob .frozen hosted).context? 5 with
      | some c => (match lookupBy Job.job c.jobKey (inJob .frozen hosted).jobs with | some j => j.state == .frozen | none => false)
      | none => false)) = true
    ∧ hosted.gts + 4000 ≤ (w64 4000).toNat ∧ (w64 3999).toNat < hosted.gts + 4000 := by decide

/-- A stuff and a step of the placed group, frozen; a step that has stood still. -/
def frozenPlaced : State := frozenJob (idle (placed 0))

theorem wit_DebugCommandsWavesAndTraces_steps :
    (match debugGroup frozenPlaced 4096 0 0, frozenPlaced.context? 4096 with
     | some g, some c => frozenPlaced.stuff.isNone && frozenPlaced.issue.isNone && stuffable frozenPlaced c g && (frozenPlaced.group? g.gid).isSome
       && frozenPlaced.jobState c.jobKey == .frozen && frozenPlaced.stepping.isNone && (cmdNow (cmd 0x16 4096 0 (16 * 256) 0 frozenPlaced) 0x16).isSome
     | _, _ => false) = true
    ∧ (field (w64 (16 * 256)) 8 5 = 16 ∧ (w64 (16 * 256)).toNat = (w64 (16 * 256)).toNat % 32 + field (w64 (16 * 256)) 8 5 * 256)
    ∧ ((cmdNow (cmd 0x17 5 0 0 0 hosted) 0x17).isSome && hosted.stepping.isNone && (match hosted.context? 5 with | some c => hosted.jobState c.jobKey != .frozen | none => false)) = true
    ∧ stepStill { hosted with clock := 3 } ⟨5, 9, 0, [], [], 0, 0, [], some 1⟩ = true ∧ issueOf hosted 5 = false := by decide

theorem wit_DebugCommandsWavesAndTraces_tables :
    ((cmdNow (cmd 0x18 15 0x2005 7 1 hosted) 0x18).isSome = true ∧ hosted.bps.length = 16 ∧ field (w64 5) 12 20 = 0 ∧ field (w64 0x2005) 12 20 ≠ 0)
    ∧ ((cmdNow (cmd 0x19 7 5 0 0 hosted) 0x19).isSome = true ∧ hosted.wps.length = 8)
    ∧ (field (w64 0x1005) 26 38 = 0 ∧ field (w64 0x1005) 12 2 ≠ 3 ∧ field (w64 0x1005) 14 2 = 0 ∧ field (w64 0x5005) 14 2 ≠ 0)
    ∧ (cmdNow (cmd 0x1A 5 0 0x20 0 hosted) 0x1A).isSome = true ∧ (cmdNow (cmd 0x1B 5 0x20 0 0 hosted) 0x1B).isSome = true
    ∧ (match hosted.context? 5 with | some c => (match debugValue hosted c 0 0x7F with | .error _ => true | _ => false) | none => false) = true := by decide

theorem wit_DebugCommandsWavesAndTraces_waves :
    (match ({ hosted with trigs := [(5, someTrigger)] } : State).context? 5 with | some _ => jobRuns { hosted with trigs := [(5, someTrigger)] } 5 | none => false) = true
    ∧ (hosted.host.ready && decide (0 < 0xFFFF) && jobHere hosted 0 && hosted.jobState 0 == .running && !jobHere hosted 9) = true
    ∧ ((jobOr (inJob .frozen hosted) 0).waves.contains (haltKey someTrigger) && !(jobOr (inJob .frozen hosted) 0).waves.contains (haltKey { someTrigger with gts := 9 })
      && (jobOr (inJob .frozen hosted) 0).waves.contains (8000, 0) && !(jobOr (inJob .frozen hosted) 0).waves.contains (9000, 0)) = true
    ∧ ((inJob .frozen hosted).jobState 0 = .frozen ∧ jobHere (inJob .frozen hosted) 0 = true ∧ hosted.gts ≤ 9000 ∧ 3 < ({ hosted with gtsBase := 5 } : State).gts)
    ∧ ((inJob .freezing hosted).gts < someTrigger.gts + 2000 ∧ someTrigger.gts + 2000 ≤ ({ inJob .freezing hosted with gtsBase := 2000 } : State).gts
      ∧ jobQuiet (inJob .freezing hosted) 0 = true
      ∧ (jobContexts (inJob .freezing hosted) 0).all (fun x => matrixQuiet (inJob .freezing hosted) x.ctx && rastersQuiet (inJob .freezing hosted) x.ctx) = true)
    ∧ ((inJob .releasing hosted).gts < 9000 ∧ 9000 ≤ ({ inJob .releasing hosted with gtsBase := 9000 } : State).gts) := by decide

/-- A group with a SYNC due; a scheduler whose next word is to be tagged, and one with a tag. -/
def syncing : State := onGroup (fun g => { g with syncDue := some [1] }) (idle (placed 0))
def profiled (t : Option ProfTag) (s : State) : State :=
  onGroup (fun g => { g with trace := BitVec.allOnes 64 }) { s with prof := [⟨0, 4096, 1, 0, t⟩], contexts := s.contexts.map fun c =>
    { c with tracectl := BitVec.allOnes 64, pmctl := BitVec.allOnes 64, trbuf := 0x20000 } }

theorem wit_DebugCommandsWavesAndTraces_traces :
    (match syncing.group? 3, (placed 0).group? 3 with | some g, some h => g.syncDue == some [1] && h.syncDue.isNone | _, _ => false) = true
    ∧ (match issuerBatch (profiled none (placed 0)) with
     | some b => b.core == 0 && b.sched == 0 && (match profGroup (profiled none (placed 0)) (.nop default) [(3, 0xFF, .ok)] with | some (g, _, _) => g.ctx == 4096 | none => false)
     | none => false) = true
    ∧ (match (profiled (some ⟨3, 0, 0, 0, 5, 0, 0⟩) (idle (placed 0))).group? 3 with
     | some g => g.flights.isEmpty && ((profiled (some ⟨3, 0, 0, 0, 5, 0, 0⟩) (idle (placed 0))).context? 4096).isSome && (profiled (some ⟨3, 0, 0, 0, 5, 0, 0⟩) (idle (placed 0))).issue.isNone
     | none => false) = true := by decide


/-! ### Steps -/

/-- The bytes at the position of the word at issue, in the state the counter of free values has gone on in. -/
def issues (s : State) (q : State → Instr → Bool) : Bool :=
  match s.issue with
  | some (.batch n) => (match s.batch? n with
    | some b => (match b.members with
      | m :: _ => (match s.group? m.gid with
        | some g => (match s.object? g.ctx b.obj with
          | some o => !o.loader && b.rep.isNone && (match fetchVa { s with free := s.free + 1 } b.core o.ctx (o.addr b.seg b.woff) with
            | (e, some w) => (match decode false w 0 with | .ok i => q e i | .error _ => false)
            | _ => false)
          | none => false)
        | none => false)
      | [] => false)
    | none => false)
  | _ => false

/-- iadd.x8 v3 v4 v5; iadd with a literal as source B. -/
theorem wit_StepRunsTheDecodedWord :
    issues (placed 0x0838060402800008) (fun _ i => hasLiteral i == false) = true
    ∧ issues (State.reset.withFetchWord 128 (0x08040604FF800000 + 77 * 2 ^ 64)) (fun e i => hasLiteral i && (match fetchVa e 0 4096 0x10008 with
      | (_, some l) => l == 77 && (match decode false 0x08040604FF800000 l with | .ok (.iadd f) => f.lit == some 77 | _ => false)
      | _ => false)) = true
    ∧ (match fetchInstr { placed 0x0838060402800008 with free := 1 } (((placed 0x0838060402800008).batches).headD default) with
      | (_, .ok i) => (match withRep i ⟨2, 1, 1, 1, 1, 0, 4, 5, 6, 0⟩ with | .ok _ => true | _ => false)
      | _ => false) = true
    ∧ (match (mfetching 0x39C0000000000000 State.reset).block? 2 with
      | some blk => (match blk.engine with
        | some eng => (match streamSec { mfetching 0x39C0000000000000 State.reset with free := 1 } blk eng with
          | some (o, x) => decide (eng.woff < x.len) && (match fetchVa { mfetching 0x39C0000000000000 State.reset with free := 1 } blk.core blk.ctx (streamVa o x eng.woff) with
            | (_, some w) => (match decode true w 0 with | .ok i => i == .mend | _ => false)
            | _ => false)
          | none => false)
        | none => false)
      | none => false) = true
    ∧ hosted.issue = none := by decide

/-- 0xFF is no opcode; the job is frozen, so the trap is held. -/
theorem wit_RefusedWordTrapsEveryGroup : (match (frozenJob (placed (0xFF * 2 ^ 54))).batches with
    | [b] => decide (b.members.map Member.gid).Nodup && (match fetchInstr { frozenJob (placed (0xFF * 2 ^ 54)) with free := 1 } b with
      | (e, .error _) => b.members.all fun m => match e.group? m.gid with | some g => g.trap.isNone && !jobRuns e g.ctx | none => false
      | _ => false)
    | _ => false) = true := by decide

/-! ### Ill-formed terms: one for each check -/

theorem test_illformed_type : (Instr.hrand (fw 3 4 5 6 6)).WellFormed = false := by decide
theorem test_illformed_guard : (Instr.iadd { fw 0x85 0x81 0x82 0 1 with g := 2 }).WellFormed = false := by decide
theorem test_illformed_rounding : (Instr.iadd { fw 3 4 5 0 1 with rm := 6 }).WellFormed = false ∧ (Instr.elect { fw 3 0 0 0 0 with rm := 1 }).WellFormed = false := by decide
theorem test_illformed_saturation : (Instr.and { fw 3 4 5 0 0 with sat := true }).WellFormed = false := by decide
theorem test_illformed_flip : (Instr.iadd { fw 3 4 5 0 1 with fi := true }).WellFormed = false := by decide
theorem test_illformed_destination : (Instr.quit (fw 1 0 0 0 0)).WellFormed = false ∧ (Instr.icmp (fw 16 4 5 0 1)).WellFormed = false
    ∧ (Instr.sclose (fw 8 0 0 0 0)).WellFormed = false := by decide
theorem test_illformed_source : (Instr.brev (fw 3 4 5 0 0)).WellFormed = false := by decide
theorem test_illformed_immediate : (Instr.next { jw 0 (2 ^ 18) with safe := true }).WellFormed = false ∧ (Instr.sleep (iw 0 0 (2 ^ 16))).WellFormed = false := by decide
theorem test_illformed_wait : (Instr.iadd { fw 3 4 5 0 1 with w := 4 }).WellFormed = false := by decide
theorem test_illformed_condition : (Instr.icmp (fw 3 4 5 6 1)).WellFormed = false ∧ (Instr.icmp (fw 3 4 5 5 1)).WellFormed = true := by decide
theorem test_illformed_x8 : (Instr.iadd (fw 3 4 5 2 14)).WellFormed = false ∧ (Instr.fadd (fw 3 4 5 30 14)).WellFormed = false := by decide
theorem test_illformed_breakpoint : (Instr.brk (iw 0 0 5)).WellFormed = false ∧ (Instr.brk { iw 0 0 5 with safe := true }).WellFormed = true := by decide
theorem test_illformed_capture : (Instr.pmcapStart (fw 0 0x85 0 1 0)).WellFormed = false ∧ (Instr.pmcapStop (fw 0 0x85 0 0 0)).WellFormed = false := by decide
theorem test_illformed_reserved_code : (Instr.iadd (fw 3 0x0D0 5 0 1)).WellFormed = false := by decide
theorem test_illformed_constant : (Instr.iadd (fw 3 4 0x1C0 0 1)).WellFormed = false ∧ (Instr.fadd (fw 3 4 0x1C0 0 6)).WellFormed = true := by decide
theorem test_illformed_uniform : (Instr.iadd (fw 0x85 4 0x82 0 1)).WellFormed = false := by decide
theorem test_illformed_result : (Instr.idiv (fw 0x0C1 4 5 0 1)).WellFormed = false ∧ (Instr.iadd (fw 0x0CA 4 5 0 1)).WellFormed = false := by decide
theorem test_illformed_two_literals : (Instr.iadd { fw 3 0x1FF 0x1FF 0 1 with lit := some 7 }).WellFormed = false := by decide
theorem test_illformed_literal : (Instr.iadd (fw 3 4 0x1FF 0 1)).WellFormed = false ∧ (Instr.iadd { fw 3 4 5 0 1 with lit := some 7 }).WellFormed = false := by decide
theorem test_illformed_half : (Instr.dualWord false { halfA with f := true } halfB).WellFormed = false := by decide
theorem test_illformed_pair : (Instr.dualWord false { halfA with dst := 2 } halfB).WellFormed = false ∧ (Instr.dualWord false halfA halfB).WellFormed = true := by decide
theorem test_illformed_half_code : (Instr.dualWord false { halfA with src := 0x8A } halfB).WellFormed = false := by decide
theorem test_illformed_matrix : (Instr.mbload { (default : MBLoad) with k1 := 15, ks := 1 }).WellFormed = false
    ∧ (Instr.mmul { (default : MMul) with ns := 5, nc1 := 1 }).WellFormed = false ∧ (Instr.mstore { (default : MStore) with out := 30 }).WellFormed = false
    ∧ (Instr.marrive 0 33).WellFormed = false ∧ (Instr.mloop { (default : MLoop) with step1 := 1 }).WellFormed = false := by decide

/-! ### Words of the encodings -/

/-- The worked encodings of chapter 3: `^(!p3) fma.f32.rd.sat v8, v9, v10!, k2`, the dual word, the load; and the exchanged dual word. -/
theorem test_decodeWorked :
    ((match decodeTableWord 64 0x94D8100905208ECA with
      | some (.fma f) => f.safe && f.ty == 6 && f.dst == 8 && f.sa == 9 && f.sb == 10 && f.sc == 0x82 && f.g == 3 && f.gn && f.rm == 3 && f.sat && f.w == 2
      | _ => false)
    && (match decodeTableWord 64 0x4000C8805906C300 with
      | some (.dualWord false a b) => a.sop == 0 && a.dst == 1 && a.src == 0x91 && b.sop == 0x59 && b.dst == 6 && b.src == 0xC3
      | _ => false)
    && (match decodeTableWord 64 0x2800080806008000 with | some (.ld f) => f.dst == 4 && f.sa == 8 && f.sb == 12 && f.sc == 2 | _ => false)
    && (match decode false (0x4000000000000000#64 ||| (0x00029100#64 <<< 31) ||| 0x5905C300#64) 0 with | .error c => c == .illegalPair | _ => false)
    && (match decodeTableWord 64 0x1AF8140C42844C00 with | some (.scacc f) => f.ty == 14 && f.dst == 10 && f.sa == 12 && f.sb == 0x85 && f.sc == 17 && f.g == 3 | _ => false)) = true := by
  decide

/-- The matrix stream's words (R282) and PMCAP.STOP. -/
theorem test_decodeMatrix :
    ((match decodeTableWord 64 0x3880241300834081 with
      | some (.mmul x) => encode (.mmul x) == [0x3880241300834081#64]
      | _ => false)
    && (match decodeTableWord 64 0x39C0000000000000 with | some .mend => true | _ => false)
    && (match decodeTableWord 64 0x3900000000000000 with | some (.mwait n) => n == 0 | _ => false)
    && (match decodeTableWord 64 0x3940000000000000 with | some (.marrive n c) => n == 0 && c == 0 | _ => false)
    && (match decodeTableWord 64 0x3800000000000000 with | some (.mzero x) => x.count1 == 0 | _ => false)
    && (match decodeTableWord 64 0x3840000000000000 with | some (.mbload x) => x.slot == 0 | _ => false)
    && (match decodeTableWord 64 0x38C0000000000000 with | some (.mstore x) => x.out == 0 | _ => false)
    && (match decodeTableWord 64 0x3980000000000000 with | some (.mloop x) => x.count == 0 | _ => false)
    && (match decodeTableWord 64 0x3D40010500004000 with | some (.pmcapStop f) => f.sa == 0x105 | _ => false)) = true := by decide

/-! ### Results -/

/-- The value on its way to v register n of lane 0 after a word with v1, v2 and v3 as given. -/
def resultOf (i : Instr) (a b c : Word) (n : Nat) : Option Word :=
  match (after i (onGroup (fun g => setV 0 1 a (setV 0 2 b (setV 0 3 c g))) (onLanes 1 (placed 0)))).groups with
  | [g] => ((g.fibre 0).pend.find? fun p => p.dst == .v n).map Pend.val
  | _ => none

/-- The test vectors of R228. -/
theorem test_hrand_vectors :
    resultOf (.hrand (fw 9 1 2 3 0)) 0 0 0 9 = some 0 ∧ resultOf (.hrand (fw 9 1 2 3 0)) 1 0 0 9 = some 0xDA6067134CC6C929
    ∧ resultOf (.hrand (fw 9 1 2 3 0)) 0 0 1 9 = some 0xF786FFE521A2C544 := by decide

/-- FFRACT.f32 of −2^−30 (chapter 10). -/
theorem test_ffract_tiny : resultOf (.ffract (fw 9 1 0 0 6)) 0xB0800000 0 0 9 = some 0x3F7FFFFF := by decide

/-- Step 1 of the interval example of chapter 10. -/
theorem test_ivmul_worked : resultOf (.ivmul (fw 4 1 2 0 15)) 0x40000000BFC00000 0x3DCCCCCD3DCCCCCC 0 4 = some 0x3E4CCCCDBE19999A := by decide

/-- The words in flight of lane 0 after a variable-latency word. -/
def flightOf (i : Instr) (a b : Word) : Option (List Word) :=
  match (after i (onGroup (fun g => setV 0 1 a (setV 0 2 b g)) (onLanes 1 (placed 0)))).groups with
  | [g] => (g.flights.head?).bind fun f => (f.ops.head?).map LaneOp.data
  | _ => none

/-- −7 by 2 under i32 (R214), and step 2 of the interval example. -/
theorem test_idiv_irem : flightOf (.idiv (fw 9 1 2 0 4)) 0xFFFFFFF9 2 = some [0xFFFFFFFD] ∧ flightOf (.irem (fw 9 1 2 0 4)) 0xFFFFFFF9 2 = some [0xFFFFFFFF] := by decide
theorem test_ivdiv_worked : flightOf (.ivdiv (fw 9 1 2 0 15)) 0x40000000BFC00000 0x3DCCCCCD3DCCCCCC = some [0x41A00001C1700001]
    ∧ flightOf (.ivdiv (fw 9 1 2 0 15)) 0x3DCCCCCD3DCCCCCC 0x40000000BFC00000 = some [0x7F800000FF800000] := by decide

/-- The SCACC example of chapter 10: the result, and NV set. -/
theorem test_scacc_worked :
    (let s := onGroup (fun g => { setV 0 10 0x400000003F800000 (setV 0 12 0x7F80000040400000 g) with k := g.k.set 5 ⟨0x0000807F00000081, true, false⟩ }) (onLanes 1 (placed 0))
     match (after (.scacc (fw 10 12 0x85 17 14)) s).groups with
     | [g] => ((g.fibre 0).pend.find? (fun p => p.dst == .v 10)).map Pend.val == some 0x7FC0000040800000
     | _ => false) = true := by decide

/-- The K-group of chapter 8 in b8p4se: both accumulator values. -/
theorem test_matrix_group : (mulEntry 8 8 ([0x44, 0x06, 0xB6] ++ List.replicate 29 0) ([0x48, 0x40, 0x40] ++ List.replicate 29 0) 0x447A0000 == 0x447AA400
    && mulEntry 8 8 ([0x44, 0x06, 0xB6] ++ List.replicate 29 0) ([0x48, 0x40, 0x40] ++ List.replicate 29 0) 0x49800000 == 0x49800014) = true := by decide +kernel

/-- The private address of chapter 5: byte 20 of lane 5 in a group 16 wide. -/
theorem test_private_address : privVa { (default : Group) with wg := 16, pbase := 0x1000 } 5 20 = 0x1000 + 0x12C := by decide


/-! ### Shapes, numbers and data that meet the statements on results -/

theorem wit_IntegerResultValues :
    IntShape (fw 9 1 2 0 14) 8 8 true ∧ IntShape (fw 9 1 2 0 0) 64 1 false ∧ Stands true 8 0x80 (-128) ∧ Stands false 64 (2 ^ 64 - 1) (2 ^ 64 - 1)
    ∧ (fw 9 1 2 0 2).ty = 2 ∧ (fw 9 1 2 0 4).ty = 4
    ∧ (((fw 9 1 2 1 7).ty.toNat, 32, true) ∈ [(7, 32, true), (8, 32, false), (12, 16, true), (13, 16, false)] ∧ (fw 9 1 2 1 7).sc.toNat = 1)
    ∧ (((fw 9 1 2 7 1).ty.toNat, 64) ∈ [(1, 64), (2, 64), (7, 32), (8, 32)] ∧ (fw 9 1 2 7 1).sc.toNat = 7)
    ∧ (∀ k < [0x8000, 3].length, nth [0x8000, 3] k < 2 ^ 16 ∧ Stands true 16 (nth [0x8000, 3] k) (nth [-0x8000, 3] k)) :=
  ⟨by unfold IntShape; decide, by unfold IntShape; decide, by unfold Stands; decide, by unfold Stands; decide, by decide, by decide, by decide, by decide, by unfold Stands; decide⟩

theorem wit_BitAndMoveResultValues :
    IntShape (fw 9 1 2 0 13) 16 4 false ∧ (fw 9 1 2 0 14).ty.toNat = 14 :=
  ⟨by unfold IntShape; decide, by decide⟩

theorem wit_FormatsAndRounding :
    (fmtOfX8 29).signed = false ∧ (fmtOfX8 2).signed = true ∧ (1 < 2 ∧ 2046 < 2 ^ 11 ∧ 2 ^ 52 - 1 < 2 ^ 52) ∧ (fp16.decode 0x7C00).isNaN = false
    ∧ (fmtOfX8 29).exists := ⟨by decide, by decide, by decide, by decide, .inr (.inr (.inr (.inr ⟨29, by decide, by decide, rfl⟩)))⟩

/-- A subnormal, a normal number, both infinities and both NaNs of FP16, and 1 and −2 of FP32. -/
theorem wit_FloatArithmeticValues :
    FloatShape (fw 9 1 2 0 10) 16 4 fp16 ∧ (fp16.decode 0x0001).isFin ∧ (fp16.decode 0x3C00).isFin ∧ fp16.decode 0xFC00 = .inf true ∧ fp16.decode 0x7C00 = .inf false
    ∧ fp16.decode 0x7E00 = .nan false ∧ fp16.decode 0x7D00 = .nan true ∧ (fp32.decode 0x3F800000).isFin ∧ (fp32.decode 0xC0000000).isFin ∧ 0x3C00 < 2 ^ fp16.width
    ∧ (1, RMode.rz) ∈ [(0, RMode.rne), (1, .rz), (2, .ru), (3, .rd), (4, .rna), (5, .rs)] :=
  ⟨by unfold FloatShape; decide, by unfold FV.isFin; decide +kernel, by unfold FV.isFin; decide +kernel, by decide +kernel, by decide +kernel, by decide +kernel, by decide +kernel, by unfold FV.isFin; decide +kernel, by unfold FV.isFin; decide +kernel, by decide, by decide⟩

/-- 1.5 is no integer; 3, 2^−149 and 2^30 are what they are. -/
theorem wit_FloatFunctionValues :
    FloatShape (fw 9 1 2 0 6) 32 1 fp32 ∧ fp32.decode 0x3FC00000 = .fin false 0xC00000 (-23) ∧ fp32.decode 0x40400000 = .fin false 0xC00000 (-22)
    ∧ fp32.decode 1 = .fin false 1 (-149) ∧ fp32.decode 0x4E800000 = .fin false 0x800000 7 ∧ (fw 9 1 0 0 6).ty = 6 ∧ (fw 9 1 0 0 6).sat = false :=
  ⟨by unfold FloatShape; decide, by decide +kernel, by decide +kernel, by decide +kernel, by decide +kernel, by decide, by decide⟩

theorem wit_ConversionAndDotValues :
    (FloatShape (fw 9 1 10 0 6) 32 1 fp32 ∧ FloatShape { fw 9 1 10 0 6 with ty := BitVec.ofNat 4 (fw 9 1 10 0 6).sb.toNat } 16 4 fp16)
    ∧ (FloatShape (fw 9 1 4 0 6) 32 1 fp32 ∧ (fw 9 1 4 0 6).sb.toNat % 16 ≠ 14 ∧ IntShape { fw 9 1 4 0 6 with ty := BitVec.ofNat 4 (fw 9 1 4 0 6).sb.toNat } 32 1 true)
    ∧ (IntShape (fw 9 1 6 0 4) 32 1 true ∧ FloatShape { fw 9 1 6 0 4 with ty := BitVec.ofNat 4 (fw 9 1 6 0 4).sb.toNat } 32 1 fp32)
    ∧ (fw 9 1 (64 * 3 + 29) 0 9).sb.toNat / 64 * 2 + 2 ≤ 8 ∧ (fw 9 1 (32 + 29) 0 9).sb.getLsbD 5 = true ∧ (fw 9 1 29 0 9).sb.getLsbD 5 = false
    ∧ (fw 9 1 2 29 14).sc.toNat % 32 = 29 :=
  ⟨⟨by unfold FloatShape; decide, by unfold FloatShape; decide⟩, ⟨by unfold FloatShape; decide, by decide, by unfold IntShape; decide⟩, ⟨by unfold IntShape; decide, by unfold FloatShape; decide⟩, by decide, by decide, by decide, by decide⟩

/-- [1, 2]; [−∞, 3]; [2, 1], which is empty; NaI; the point 0; [−2, −1]. -/
theorem wit_IntervalResultValues :
    (match ivRead 0x400000003F800000 with | .mk (.fin a) (.fin b) => decide (0 < a.m) && decide (0 < b.m) | _ => false) = true
    ∧ (match ivRead 0x40400000FF800000 with | .mk .ninf (.fin _) => true | _ => false) = true
    ∧ ivRead 0x3F80000040000000 = .empty ∧ ivRead 0x7FC000003F800000 = .nai
    ∧ (match ivRead 0 with | .mk (.fin a) (.fin b) => a.m == 0 && b.m == 0 | _ => false) = true
    ∧ (match ivRead 0xBF800000C0000000 with | .mk (.fin a) (.fin b) => decide (a.m < 0) && decide (b.m < 0) | _ => false) = true := by decide +kernel

theorem wit_AtomicAndMatrixEntryValues :
    (Ty.i64, 64, true) ∈ [(Ty.b64, 64, false), (.i64, 64, true), (.n64, 64, false), (.i32, 32, true), (.n32, 32, false)] ∧ 2 ^ 64 - 1 < 2 ^ 64
    ∧ (∀ k < [0x80, 0xFF].length, Stands true 8 (nth [0x80, 0xFF] k) (nth [-128, -1] k) ∧ Stands false 8 (nth [0x80, 0xFF] k) (nth [128, 255] k))
    ∧ (List.replicate 32 0x40).length = 32 ∧ (List.replicate 480 0x40).length = 480 ∧ (16 ≤ 29 ∧ 29 < 30 ∧ 8 = if 4 ≤ 29 / 2 - 7 then 8 else 4) :=
  ⟨by decide, by decide, by unfold Stands; decide, by decide, by decide, by decide⟩

/-- 0xFF is no opcode; the job runs. -/
theorem wit_RefusedWordTrapsEveryGroup_runs : (match (placed (0xFF * 2 ^ 54)).batches with
    | [b] => (match fetchInstr { placed (0xFF * 2 ^ 54) with free := 1 } b with
      | (e, .error _) => b.members.length == 1 && b.members.all fun m => refusedLanes e b m != 0 && (e.group? m.gid).isSome
      | _ => false)
    | _ => false) = true := by decide

/-- One word of every instruction of the family, its opcode from R63 and its fields where R41, R43 and R44 put them. -/
theorem test_decodeFlow : ((match decodeTableWord 64 0x0000000000000000 with | some (.nop f) => f.dst == 0 && f.sa == 0 && f.sb == 0 && f.sc == 0 && f.ty == 0 | _ => false)
  && (match decodeTableWord 64 0x8040000000014000 with | some (.next f) => f.dst == 0 && imm27 f == 5 | _ => false)
  && (match decodeTableWord 64 0x8080000000014000 with | some (.nextp f) => f.dst == 0 && imm27 f == 5 | _ => false)
  && (match decodeTableWord 64 0x80C0000400000000 with | some (.nextx f) => f.dst == 0 && f.sa == 4 && f.sb == 0 && f.sc == 0 && f.ty == 0 | _ => false)
  && (match decodeTableWord 64 0x8100060000014000 with | some (.call f) => f.dst == 3 && imm27 f == 5 | _ => false)
  && (match decodeTableWord 64 0x8140000400000000 with | some (.ret f) => f.dst == 0 && f.sa == 4 && f.sb == 0 && f.sc == 0 && f.ty == 0 | _ => false)
  && (match decodeTableWord 64 0x0180000000014000 with | some (.fork f) => f.dst == 0 && imm27 f == 5 | _ => false)
  && (match decodeTableWord 64 0x81C0000000000000 with | some (.quit f) => f.dst == 0 && f.sa == 0 && f.sb == 0 && f.sc == 0 && f.ty == 0 | _ => false)
  && (match decodeTableWord 64 0x0200008400014000 with | some (.loop f) => f.dst == 0 && f.sa == 132 && imm18 f == 5 | _ => false)
  && (match decodeTableWord 64 0x0240000000014000 with | some (.rep f) => f.dst == 0 && f.sa == 0 && imm18 f == 5 | _ => false)
  && (match decodeTableWord 64 0x0280000400008000 with | some (.bar f) => f.dst == 0 && f.sa == 4 && f.sb == 0 && f.sc == 2 && f.ty == 0 | _ => false)
  && (match decodeTableWord 64 0x02C0000400008000 with | some (.bara f) => f.dst == 0 && f.sa == 4 && f.sb == 0 && f.sc == 2 && f.ty == 0 | _ => false)
  && (match decodeTableWord 64 0x0300000000008000 with | some (.barw f) => f.dst == 0 && f.sa == 0 && f.sb == 0 && f.sc == 2 && f.ty == 0 | _ => false)
  && (match decodeTableWord 64 0x0340060000000000 with | some (.elect f) => f.dst == 3 && f.sa == 0 && f.sb == 0 && f.sc == 0 && f.ty == 0 | _ => false)
  && (match decodeTableWord 64 0x0380060200008000 with | some (.vote f) => f.dst == 3 && f.sa == 2 && f.sb == 0 && f.sc == 2 && f.ty == 0 | _ => false)
  && (match decodeTableWord 64 0x03C0060200014000 with | some (.plop f) => f.dst == 3 && f.sa == 2 && imm18 f == 5 | _ => false)
  && (match decodeTableWord 64 0x0400060000000000 with | some (.pmov f) => f.dst == 3 && f.sa == 0 && f.sb == 0 && f.sc == 0 && f.ty == 0 | _ => false)
  && (match decodeTableWord 64 0x0440000000000000 with | some (.yield f) => f.dst == 0 && f.sa == 0 && f.sb == 0 && f.sc == 0 && f.ty == 0 | _ => false)
  && (match decodeTableWord 64 0x0480000000014000 with | some (.sleep f) => f.dst == 0 && f.sa == 0 && imm18 f == 5 | _ => false)
  && (match decodeTableWord 64 0x04C0060000000000 with | some (.live f) => f.dst == 3 && f.sa == 0 && f.sb == 0 && f.sc == 0 && f.ty == 0 | _ => false)) = true := by decide

/-- One word of every instruction of the family, its opcode from R63 and its fields where R41, R43 and R44 put them. -/
theorem test_decodeInteger : ((match decodeTableWord 64 0x0834060402800000 with | some (.iadd f) => f.dst == 3 && f.sa == 4 && f.sb == 5 && f.sc == 0 && f.ty == 13 | _ => false)
  && (match decodeTableWord 64 0x0874060402800000 with | some (.isub f) => f.dst == 3 && f.sa == 4 && f.sb == 5 && f.sc == 0 && f.ty == 13 | _ => false)
  && (match decodeTableWord 64 0x0894060402818000 with | some (.iaddc f) => f.dst == 3 && f.sa == 4 && f.sb == 5 && f.sc == 6 && f.ty == 5 | _ => false)
  && (match decodeTableWord 64 0x08F4060402800000 with | some (.imul f) => f.dst == 3 && f.sa == 4 && f.sb == 5 && f.sc == 0 && f.ty == 13 | _ => false)
  && (match decodeTableWord 64 0x0934060402800000 with | some (.imulh f) => f.dst == 3 && f.sa == 4 && f.sb == 5 && f.sc == 0 && f.ty == 13 | _ => false)
  && (match decodeTableWord 64 0x0974060402818000 with | some (.imad f) => f.dst == 3 && f.sa == 4 && f.sb == 5 && f.sc == 6 && f.ty == 13 | _ => false)
  && (match decodeTableWord 64 0x0994060402818000 with | some (.imadw f) => f.dst == 3 && f.sa == 4 && f.sb == 5 && f.sc == 6 && f.ty == 5 | _ => false)
  && (match decodeTableWord 64 0x09F0060400000000 with | some (.iabs f) => f.dst == 3 && f.sa == 4 && f.sb == 0 && f.sc == 0 && f.ty == 12 | _ => false)
  && (match decodeTableWord 64 0x0A34060402800000 with | some (.imin f) => f.dst == 3 && f.sa == 4 && f.sb == 5 && f.sc == 0 && f.ty == 13 | _ => false)
  && (match decodeTableWord 64 0x0A74060402800000 with | some (.imax f) => f.dst == 3 && f.sa == 4 && f.sb == 5 && f.sc == 0 && f.ty == 13 | _ => false)
  && (match decodeTableWord 64 0x0A94060402808000 with | some (.icmp f) => f.dst == 3 && f.sa == 4 && f.sb == 5 && f.sc == 2 && f.ty == 5 | _ => false)
  && (match decodeTableWord 64 0x0AF4060402818000 with | some (.sel f) => f.dst == 3 && f.sa == 4 && f.sb == 5 && f.sc == 6 && f.ty == 13 | _ => false)
  && (match decodeTableWord 64 0x0B14060402800000 with | some (.and f) => f.dst == 3 && f.sa == 4 && f.sb == 5 && f.sc == 0 && f.ty == 5 | _ => false)
  && (match decodeTableWord 64 0x0B54060402800000 with | some (.or f) => f.dst == 3 && f.sa == 4 && f.sb == 5 && f.sc == 0 && f.ty == 5 | _ => false)
  && (match decodeTableWord 64 0x0B94060402800000 with | some (.xor f) => f.dst == 3 && f.sa == 4 && f.sb == 5 && f.sc == 0 && f.ty == 5 | _ => false)
  && (match decodeTableWord 64 0x0BD4060402800000 with | some (.andn f) => f.dst == 3 && f.sa == 4 && f.sb == 5 && f.sc == 0 && f.ty == 5 | _ => false)
  && (match decodeTableWord 64 0x0C3C060402818000 with | some (.tern f) => f.dst == 3 && f.sa == 4 && f.sb == 5 && f.sc == 6 && f.ty == 15 | _ => false)
  && (match decodeTableWord 64 0x0C74060402800000 with | some (.shl f) => f.dst == 3 && f.sa == 4 && f.sb == 5 && f.sc == 0 && f.ty == 13 | _ => false)
  && (match decodeTableWord 64 0x0CB4060402800000 with | some (.shr f) => f.dst == 3 && f.sa == 4 && f.sb == 5 && f.sc == 0 && f.ty == 13 | _ => false)
  && (match decodeTableWord 64 0x0CF4060402800000 with | some (.sar f) => f.dst == 3 && f.sa == 4 && f.sb == 5 && f.sc == 0 && f.ty == 13 | _ => false)
  && (match decodeTableWord 64 0x0D34060402800000 with | some (.rot f) => f.dst == 3 && f.sa == 4 && f.sb == 5 && f.sc == 0 && f.ty == 13 | _ => false)
  && (match decodeTableWord 64 0x0D60060402818000 with | some (.funnel f) => f.dst == 3 && f.sa == 4 && f.sb == 5 && f.sc == 6 && f.ty == 8 | _ => false)
  && (match decodeTableWord 64 0x0DA0060402818000 with | some (.bfe f) => f.dst == 3 && f.sa == 4 && f.sb == 5 && f.sc == 6 && f.ty == 8 | _ => false)
  && (match decodeTableWord 64 0x0DF4060402818000 with | some (.bfi f) => f.dst == 3 && f.sa == 4 && f.sb == 5 && f.sc == 6 && f.ty == 13 | _ => false)
  && (match decodeTableWord 64 0x0E34060400000000 with | some (.brev f) => f.dst == 3 && f.sa == 4 && f.sb == 0 && f.sc == 0 && f.ty == 13 | _ => false)
  && (match decodeTableWord 64 0x0E74060400000000 with | some (.popc f) => f.dst == 3 && f.sa == 4 && f.sb == 0 && f.sc == 0 && f.ty == 13 | _ => false)
  && (match decodeTableWord 64 0x0EB4060400000000 with | some (.clz f) => f.dst == 3 && f.sa == 4 && f.sb == 0 && f.sc == 0 && f.ty == 13 | _ => false)
  && (match decodeTableWord 64 0x0EF4060400000000 with | some (.ctz f) => f.dst == 3 && f.sa == 4 && f.sb == 0 && f.sc == 0 && f.ty == 13 | _ => false)
  && (match decodeTableWord 64 0x0F00060402818000 with | some (.bperm f) => f.dst == 3 && f.sa == 4 && f.sb == 5 && f.sc == 6 && f.ty == 0 | _ => false)
  && (match decodeTableWord 64 0x0F74060402818000 with | some (.isad f) => f.dst == 3 && f.sa == 4 && f.sb == 5 && f.sc == 6 && f.ty == 13 | _ => false)
  && (match decodeTableWord 64 0x0FB4060402818000 with | some (.idot f) => f.dst == 3 && f.sa == 4 && f.sb == 5 && f.sc == 6 && f.ty == 13 | _ => false)
  && (match decodeTableWord 64 0x0FF406040281C000 with | some (.pack f) => f.dst == 3 && f.sa == 4 && f.sb == 5 && f.sc == 7 && f.ty == 13 | _ => false)
  && (match decodeTableWord 64 0x1020060402830000 with | some (.unpack f) => f.dst == 3 && f.sa == 4 && f.sb == 5 && f.sc == 12 && f.ty == 8 | _ => false)
  && (match decodeTableWord 64 0x107C060400000000 with | some (.mov f) => f.dst == 3 && f.sa == 4 && f.sb == 0 && f.sc == 0 && f.ty == 15 | _ => false)
  && (match decodeTableWord 64 0x1080060000014000 with | some (.movi f) => f.dst == 3 && imm27 f == 5 | _ => false)
  && (match decodeTableWord 64 0x10F4060402818000 with | some (.lea f) => f.dst == 3 && f.sa == 4 && f.sb == 5 && f.sc == 6 && f.ty == 13 | _ => false)
  && (match decodeTableWord 64 0x1100060402818000 with | some (.hrand f) => f.dst == 3 && f.sa == 4 && f.sb == 5 && f.sc == 6 && f.ty == 0 | _ => false)
  && (match decodeTableWord 64 0x1160060402800000 with | some (.idiv f) => f.dst == 3 && f.sa == 4 && f.sb == 5 && f.sc == 0 && f.ty == 8 | _ => false)
  && (match decodeTableWord 64 0x11A0060402800000 with | some (.irem f) => f.dst == 3 && f.sa == 4 && f.sb == 5 && f.sc == 0 && f.ty == 8 | _ => false)) = true := by decide

/-- One word of every instruction of the family, its opcode from R63 and its fields where R41, R43 and R44 put them. -/
theorem test_decodeFloat : ((match decodeTableWord 64 0x142C060402800000 with | some (.fadd f) => f.dst == 3 && f.sa == 4 && f.sb == 5 && f.sc == 0 && f.ty == 11 | _ => false)
  && (match decodeTableWord 64 0x146C060402800000 with | some (.fsub f) => f.dst == 3 && f.sa == 4 && f.sb == 5 && f.sc == 0 && f.ty == 11 | _ => false)
  && (match decodeTableWord 64 0x14AC060402800000 with | some (.fmul f) => f.dst == 3 && f.sa == 4 && f.sb == 5 && f.sc == 0 && f.ty == 11 | _ => false)
  && (match decodeTableWord 64 0x14EC060402818000 with | some (.fma f) => f.dst == 3 && f.sa == 4 && f.sb == 5 && f.sc == 6 && f.ty == 11 | _ => false)
  && (match decodeTableWord 64 0x152C060402800000 with | some (.fmin f) => f.dst == 3 && f.sa == 4 && f.sb == 5 && f.sc == 0 && f.ty == 11 | _ => false)
  && (match decodeTableWord 64 0x156C060402800000 with | some (.fmax f) => f.dst == 3 && f.sa == 4 && f.sb == 5 && f.sc == 0 && f.ty == 11 | _ => false)
  && (match decodeTableWord 64 0x15AC060402800000 with | some (.fminn f) => f.dst == 3 && f.sa == 4 && f.sb == 5 && f.sc == 0 && f.ty == 11 | _ => false)
  && (match decodeTableWord 64 0x15EC060402800000 with | some (.fmaxn f) => f.dst == 3 && f.sa == 4 && f.sb == 5 && f.sc == 0 && f.ty == 11 | _ => false)
  && (match decodeTableWord 64 0x1618060402808000 with | some (.fcmp f) => f.dst == 3 && f.sa == 4 && f.sb == 5 && f.sc == 2 && f.ty == 6 | _ => false)
  && (match decodeTableWord 64 0x166C060400000000 with | some (.fclass f) => f.dst == 3 && f.sa == 4 && f.sb == 0 && f.sc == 0 && f.ty == 11 | _ => false)
  && (match decodeTableWord 64 0x16AC060400000000 with | some (.fneg f) => f.dst == 3 && f.sa == 4 && f.sb == 0 && f.sc == 0 && f.ty == 11 | _ => false)
  && (match decodeTableWord 64 0x16EC060400000000 with | some (.fabs f) => f.dst == 3 && f.sa == 4 && f.sb == 0 && f.sc == 0 && f.ty == 11 | _ => false)
  && (match decodeTableWord 64 0x172C060400000000 with | some (.frint f) => f.dst == 3 && f.sa == 4 && f.sb == 0 && f.sc == 0 && f.ty == 11 | _ => false)
  && (match decodeTableWord 64 0x176C060400000000 with | some (.ffract f) => f.dst == 3 && f.sa == 4 && f.sb == 0 && f.sc == 0 && f.ty == 11 | _ => false)
  && (match decodeTableWord 64 0x17AC060402800000 with | some (.fldexp f) => f.dst == 3 && f.sa == 4 && f.sb == 5 && f.sc == 0 && f.ty == 11 | _ => false)
  && (match decodeTableWord 64 0x17EC060400000000 with | some (.ffrexp f) => f.dst == 3 && f.sa == 4 && f.sb == 0 && f.sc == 0 && f.ty == 11 | _ => false)
  && (match decodeTableWord 64 0x182C060400000000 with | some (.frcp f) => f.dst == 3 && f.sa == 4 && f.sb == 0 && f.sc == 0 && f.ty == 11 | _ => false)
  && (match decodeTableWord 64 0x186C060400000000 with | some (.frsq f) => f.dst == 3 && f.sa == 4 && f.sb == 0 && f.sc == 0 && f.ty == 11 | _ => false)
  && (match decodeTableWord 64 0x18AC060400000000 with | some (.fsqrt f) => f.dst == 3 && f.sa == 4 && f.sb == 0 && f.sc == 0 && f.ty == 11 | _ => false)
  && (match decodeTableWord 64 0x18EC060402800000 with | some (.fdiv f) => f.dst == 3 && f.sa == 4 && f.sb == 5 && f.sc == 0 && f.ty == 11 | _ => false)
  && (match decodeTableWord 64 0x192C060400000000 with | some (.fexp2 f) => f.dst == 3 && f.sa == 4 && f.sb == 0 && f.sc == 0 && f.ty == 11 | _ => false)
  && (match decodeTableWord 64 0x196C060400000000 with | some (.flog2 f) => f.dst == 3 && f.sa == 4 && f.sb == 0 && f.sc == 0 && f.ty == 11 | _ => false)
  && (match decodeTableWord 64 0x19AC060400000000 with | some (.fsin f) => f.dst == 3 && f.sa == 4 && f.sb == 0 && f.sc == 0 && f.ty == 11 | _ => false)
  && (match decodeTableWord 64 0x19EC060400000000 with | some (.fcos f) => f.dst == 3 && f.sa == 4 && f.sb == 0 && f.sc == 0 && f.ty == 11 | _ => false)
  && (match decodeTableWord 64 0x1A18060402000000 with | some (.cvt f) => f.dst == 3 && f.sa == 4 && f.sb == 4 && f.sc == 0 && f.ty == 6 | _ => false)
  && (match decodeTableWord 64 0x1A6C060401000000 with | some (.cvt8 f) => f.dst == 3 && f.sa == 4 && f.sb == 2 && f.sc == 0 && f.ty == 11 | _ => false)
  && (match decodeTableWord 64 0x1AAC060402818000 with | some (.fdot2 f) => f.dst == 3 && f.sa == 4 && f.sb == 5 && f.sc == 6 && f.ty == 11 | _ => false)
  && (match decodeTableWord 64 0x1AF8060402808000 with | some (.scacc f) => f.dst == 3 && f.sa == 4 && f.sb == 5 && f.sc == 2 && f.ty == 14 | _ => false)
  && (match decodeTableWord 64 0x1B3C060402800000 with | some (.ivadd f) => f.dst == 3 && f.sa == 4 && f.sb == 5 && f.sc == 0 && f.ty == 15 | _ => false)
  && (match decodeTableWord 64 0x1B7C060402800000 with | some (.ivsub f) => f.dst == 3 && f.sa == 4 && f.sb == 5 && f.sc == 0 && f.ty == 15 | _ => false)
  && (match decodeTableWord 64 0x1BBC060402800000 with | some (.ivmul f) => f.dst == 3 && f.sa == 4 && f.sb == 5 && f.sc == 0 && f.ty == 15 | _ => false)
  && (match decodeTableWord 64 0x1BFC060402800000 with | some (.ivdiv f) => f.dst == 3 && f.sa == 4 && f.sb == 5 && f.sc == 0 && f.ty == 15 | _ => false)
  && (match decodeTableWord 64 0x1C3C060400000000 with | some (.ivsqr f) => f.dst == 3 && f.sa == 4 && f.sb == 0 && f.sc == 0 && f.ty == 15 | _ => false)
  && (match decodeTableWord 64 0x1C7C060400000000 with | some (.ivsqrt f) => f.dst == 3 && f.sa == 4 && f.sb == 0 && f.sc == 0 && f.ty == 15 | _ => false)
  && (match decodeTableWord 64 0x1CBC060402800000 with | some (.ivmin f) => f.dst == 3 && f.sa == 4 && f.sb == 5 && f.sc == 0 && f.ty == 15 | _ => false)
  && (match decodeTableWord 64 0x1CFC060402800000 with | some (.ivmax f) => f.dst == 3 && f.sa == 4 && f.sb == 5 && f.sc == 0 && f.ty == 15 | _ => false)
  && (match decodeTableWord 64 0x1D3C060400000000 with | some (.ivabs f) => f.dst == 3 && f.sa == 4 && f.sb == 0 && f.sc == 0 && f.ty == 15 | _ => false)
  && (match decodeTableWord 64 0x1D7C060402800000 with | some (.ivhull f) => f.dst == 3 && f.sa == 4 && f.sb == 5 && f.sc == 0 && f.ty == 15 | _ => false)
  && (match decodeTableWord 64 0x1DBC060402800000 with | some (.ivmake f) => f.dst == 3 && f.sa == 4 && f.sb == 5 && f.sc == 0 && f.ty == 15 | _ => false)
  && (match decodeTableWord 64 0x1DFC060400000000 with | some (.ivsplit f) => f.dst == 3 && f.sa == 4 && f.sb == 0 && f.sc == 0 && f.ty == 15 | _ => false)
  && (match decodeTableWord 64 0x1E3C060401000000 with | some (.ivtest f) => f.dst == 3 && f.sa == 4 && f.sb == 2 && f.sc == 0 && f.ty == 15 | _ => false)
  && (match decodeTableWord 64 0x1E7C060400000000 with | some (.ivmid f) => f.dst == 3 && f.sa == 4 && f.sb == 0 && f.sc == 0 && f.ty == 15 | _ => false)) = true := by decide

/-- One word of every instruction of the family, its opcode from R63 and its fields where R41, R43 and R44 put them. -/
theorem test_decodeLanes : ((match decodeTableWord 64 0x203C060402800000 with | some (.lxch f) => f.dst == 3 && f.sa == 4 && f.sb == 5 && f.sc == 0 && f.ty == 15 | _ => false)
  && (match decodeTableWord 64 0x207C060402800000 with | some (.lxor f) => f.dst == 3 && f.sa == 4 && f.sb == 5 && f.sc == 0 && f.ty == 15 | _ => false)
  && (match decodeTableWord 64 0x20BC060442800000 with | some (.lbcast f) => f.dst == 3 && f.sa == 4 && f.sb == 133 && f.sc == 0 && f.ty == 15 | _ => false)
  && (match decodeTableWord 64 0x20C0060402800000 with | some (.qxch f) => f.dst == 3 && f.sa == 4 && f.sb == 5 && f.sc == 0 && f.ty == 0 | _ => false)
  && (match decodeTableWord 64 0x212C060400000000 with | some (.qddx f) => f.dst == 3 && f.sa == 4 && f.sb == 0 && f.sc == 0 && f.ty == 11 | _ => false)
  && (match decodeTableWord 64 0x216C060400000000 with | some (.qddy f) => f.dst == 3 && f.sa == 4 && f.sb == 0 && f.sc == 0 && f.ty == 11 | _ => false)
  && (match decodeTableWord 64 0x21AC060442800000 with | some (.lreduce f) => f.dst == 3 && f.sa == 4 && f.sb == 133 && f.sc == 0 && f.ty == 11 | _ => false)
  && (match decodeTableWord 64 0x21EC060442800000 with | some (.lscan f) => f.dst == 3 && f.sa == 4 && f.sb == 133 && f.sc == 0 && f.ty == 11 | _ => false)
  && (match decodeTableWord 64 0x2200068402800000 with | some (.kget f) => f.dst == 3 && f.sa == 132 && f.sb == 5 && f.sc == 0 && f.ty == 0 | _ => false)
  && (match decodeTableWord 64 0x2240060000000000 with | some (.helper f) => f.dst == 3 && f.sa == 0 && f.sb == 0 && f.sc == 0 && f.ty == 0 | _ => false)
  && (match decodeTableWord 64 0x22B4060402800000 with | some (.subswz f) => f.dst == 3 && f.sa == 4 && f.sb == 5 && f.sc == 0 && f.ty == 13 | _ => false)) = true := by decide

/-- One word of every instruction of the family, its opcode from R63 and its fields where R41, R43 and R44 put them. -/
theorem test_decodeMemory : ((match decodeTableWord 64 0x2834060402818000 with | some (.ld f) => f.dst == 3 && f.sa == 4 && f.sb == 5 && f.sc == 6 && f.ty == 13 | _ => false)
  && (match decodeTableWord 64 0x2874060402818000 with | some (.st f) => f.dst == 3 && f.sa == 4 && f.sb == 5 && f.sc == 6 && f.ty == 13 | _ => false)
  && (match decodeTableWord 64 0x28B4060402818000 with | some (.lds f) => f.dst == 3 && f.sa == 4 && f.sb == 5 && f.sc == 6 && f.ty == 13 | _ => false)
  && (match decodeTableWord 64 0x28F4060402818000 with | some (.sts f) => f.dst == 3 && f.sa == 4 && f.sb == 5 && f.sc == 6 && f.ty == 13 | _ => false)
  && (match decodeTableWord 64 0x2934060402818000 with | some (.ldp f) => f.dst == 3 && f.sa == 4 && f.sb == 5 && f.sc == 6 && f.ty == 13 | _ => false)
  && (match decodeTableWord 64 0x2974060402818000 with | some (.stp f) => f.dst == 3 && f.sa == 4 && f.sb == 5 && f.sc == 6 && f.ty == 13 | _ => false)
  && (match decodeTableWord 64 0x2998060401018000 with | some (.atom f) => f.dst == 3 && f.sa == 4 && f.sb == 2 && f.sc == 6 && f.ty == 6 | _ => false)
  && (match decodeTableWord 64 0x29D8060401018000 with | some (.red f) => f.dst == 3 && f.sa == 4 && f.sb == 2 && f.sc == 6 && f.ty == 6 | _ => false)
  && (match decodeTableWord 64 0x2A18060401018000 with | some (.satom f) => f.dst == 3 && f.sa == 4 && f.sb == 2 && f.sc == 6 && f.ty == 6 | _ => false)
  && (match decodeTableWord 64 0x2A58060401018000 with | some (.cas f) => f.dst == 3 && f.sa == 4 && f.sb == 2 && f.sc == 6 && f.ty == 6 | _ => false)
  && (match decodeTableWord 64 0x2A80000000008000 with | some (.fence f) => f.dst == 0 && f.sa == 0 && f.sb == 0 && f.sc == 2 && f.ty == 0 | _ => false)
  && (match decodeTableWord 64 0x2AC0000000000000 with | some (.fencero f) => f.dst == 0 && f.sa == 0 && f.sb == 0 && f.sc == 0 && f.ty == 0 | _ => false)
  && (match decodeTableWord 64 0x2B34000402818000 with | some (.pref f) => f.dst == 0 && f.sa == 4 && f.sb == 5 && f.sc == 6 && f.ty == 13 | _ => false)
  && (match decodeTableWord 64 0x2B40000000014000 with | some (.ipref f) => f.dst == 0 && imm27 f == 5 | _ => false)
  && (match decodeTableWord 64 0x2BB4060402800000 with | some (.fetch f) => f.dst == 3 && f.sa == 4 && f.sb == 5 && f.sc == 0 && f.ty == 13 | _ => false)
  && (match decodeTableWord 64 0x2BE4060402800000 with | some (.fetch3 f) => f.dst == 3 && f.sa == 4 && f.sb == 5 && f.sc == 0 && f.ty == 9 | _ => false)
  && (match decodeTableWord 64 0x2C00040400000000 with | some (.sopen f) => f.dst == 2 && f.sa == 4 && f.sb == 0 && f.sc == 0 && f.ty == 0 | _ => false)
  && (match decodeTableWord 64 0x2C40040400000000 with | some (.sadv f) => f.dst == 2 && f.sa == 4 && f.sb == 0 && f.sc == 0 && f.ty == 0 | _ => false)
  && (match decodeTableWord 64 0x2C80060200000000 with | some (.stest f) => f.dst == 3 && f.sa == 2 && f.sb == 0 && f.sc == 0 && f.ty == 0 | _ => false)
  && (match decodeTableWord 64 0x2CC0040000000000 with | some (.sclose f) => f.dst == 2 && f.sa == 0 && f.sb == 0 && f.sc == 0 && f.ty == 0 | _ => false)
  && (match decodeTableWord 64 0x2D00040200000000 with | some (.sisect f) => f.dst == 2 && f.sa == 2 && f.sb == 0 && f.sc == 0 && f.ty == 0 | _ => false)
  && (match decodeTableWord 64 0x2D40060201000000 with | some (.smerge f) => f.dst == 3 && f.sa == 2 && f.sb == 2 && f.sc == 0 && f.ty == 0 | _ => false)
  && (match decodeTableWord 64 0x2D80060200000000 with | some (.sget f) => f.dst == 3 && f.sa == 2 && f.sb == 0 && f.sc == 0 && f.ty == 0 | _ => false)
  && (match decodeTableWord 64 0x2DF4060402818000 with | some (.ldrs f) => f.dst == 3 && f.sa == 4 && f.sb == 5 && f.sc == 6 && f.ty == 13 | _ => false)
  && (match decodeTableWord 64 0x2E34060402818000 with | some (.strs f) => f.dst == 3 && f.sa == 4 && f.sb == 5 && f.sc == 6 && f.ty == 13 | _ => false)) = true := by decide

/-- One word of every instruction of the family, its opcode from R63 and its fields where R41, R43 and R44 put them. -/
theorem test_decodeAsync : ((match decodeTableWord 64 0x3000000402808000 with | some (.qput f) => f.dst == 0 && f.sa == 4 && f.sb == 5 && f.sc == 2 && f.ty == 0 | _ => false)
  && (match decodeTableWord 64 0x3040060400000000 with | some (.wpget f) => f.dst == 3 && f.sa == 4 && f.sb == 0 && f.sc == 0 && f.ty == 0 | _ => false)
  && (match decodeTableWord 64 0x3080000402818000 with | some (.tbinit f) => f.dst == 0 && f.sa == 4 && f.sb == 5 && f.sc == 6 && f.ty == 0 | _ => false)
  && (match decodeTableWord 64 0x30C0000402800000 with | some (.tbarr f) => f.dst == 0 && f.sa == 4 && f.sb == 5 && f.sc == 0 && f.ty == 0 | _ => false)
  && (match decodeTableWord 64 0x3100000402800000 with | some (.tbwait f) => f.dst == 0 && f.sa == 4 && f.sb == 5 && f.sc == 0 && f.ty == 0 | _ => false)
  && (match decodeTableWord 64 0x3140000000008000 with | some (.mbara f) => f.dst == 0 && f.sa == 0 && f.sb == 0 && f.sc == 2 && f.ty == 0 | _ => false)
  && (match decodeTableWord 64 0x3180000000008000 with | some (.mbarw f) => f.dst == 0 && f.sa == 0 && f.sb == 0 && f.sc == 2 && f.ty == 0 | _ => false)
  && (match decodeTableWord 64 0x31E4060442A18000 with | some (.mmove f) => f.dst == 3 && f.sa == 4 && f.sb == 133 && f.sc == 134 && f.ty == 9 | _ => false)
  && (match decodeTableWord 64 0x3200008442800000 with | some (.mstart f) => f.dst == 0 && f.sa == 132 && f.sb == 133 && f.sc == 0 && f.ty == 0 | _ => false)
  && (match decodeTableWord 64 0x3240060402818000 with | some (.march f) => f.dst == 3 && f.sa == 4 && f.sb == 5 && f.sc == 6 && f.ty == 0 | _ => false)
  && (match decodeTableWord 64 0x3281068442A18000 with | some (.prune f) => f.dst == 131 && f.sa == 132 && f.sb == 133 && f.sc == 134 && f.ty == 0 | _ => false)
  && (match decodeTableWord 64 0x32C0008400000000 with | some (.rdraw f) => f.dst == 0 && f.sa == 132 && f.sb == 0 && f.sc == 0 && f.ty == 0 | _ => false)
  && (match decodeTableWord 64 0x3300000000008000 with | some (.rrel f) => f.dst == 0 && f.sa == 0 && f.sb == 0 && f.sc == 2 && f.ty == 0 | _ => false)
  && (match decodeTableWord 64 0x3340000442A18000 with | some (.enq f) => f.dst == 0 && f.sa == 4 && f.sb == 133 && f.sc == 134 && f.ty == 0 | _ => false)
  && (match decodeTableWord 64 0x3380060042808000 with | some (.deq f) => f.dst == 3 && f.sa == 0 && f.sb == 133 && f.sc == 2 && f.ty == 0 | _ => false)
  && (match decodeTableWord 64 0x33C0000402800000 with | some (.evsig f) => f.dst == 0 && f.sa == 4 && f.sb == 5 && f.sc == 0 && f.ty == 0 | _ => false)
  && (match decodeTableWord 64 0x3400000402A18000 with | some (.evwait f) => f.dst == 0 && f.sa == 4 && f.sb == 5 && f.sc == 134 && f.ty == 0 | _ => false)
  && (match decodeTableWord 64 0x3440008442800000 with | some (.suspend f) => f.dst == 0 && f.sa == 132 && f.sb == 133 && f.sc == 0 && f.ty == 0 | _ => false)
  && (match decodeTableWord 64 0x3480000402800000 with | some (.spawn f) => f.dst == 0 && f.sa == 4 && f.sb == 5 && f.sc == 0 && f.ty == 0 | _ => false)
  && (match decodeTableWord 64 0x34C0000402800000 with | some (.dcdec f) => f.dst == 0 && f.sa == 4 && f.sb == 5 && f.sc == 0 && f.ty == 0 | _ => false)) = true := by decide

/-- One word of every instruction of the family, its opcode from R63 and its fields where R41, R43 and R44 put them. -/
theorem test_decodeSystem : ((match decodeTableWord 64 0x3C00000000014000 with | some (.trap f) => f.dst == 0 && f.sa == 0 && imm18 f == 5 | _ => false)
  && (match decodeTableWord 64 0x3C40000000000000 with | some (.rft f) => f.dst == 0 && f.sa == 0 && f.sb == 0 && f.sc == 0 && f.ty == 0 | _ => false)
  && (match decodeTableWord 64 0x3C80060000014000 with | some (.sread f) => f.dst == 3 && f.sa == 0 && imm18 f == 5 | _ => false)
  && (match decodeTableWord 64 0x3CC0000400014000 with | some (.swrite f) => f.dst == 0 && f.sa == 4 && imm18 f == 5 | _ => false)
  && (match decodeTableWord 64 0x3D01068400000000 with | some (.publish f) => f.dst == 131 && f.sa == 132 && f.sb == 0 && f.sc == 0 && f.ty == 0 | _ => false)
  && (match decodeTableWord 64 0x3D40008400000000 with | some (.pmcapStart f) => f.dst == 0 && f.sa == 132 && f.sb == 0 && f.sc == 0 && f.ty == 0 | _ => false)
  && (match decodeTableWord 64 0xBD80000000014000 with | some (.brk f) => f.dst == 0 && f.sa == 0 && imm18 f == 5 | _ => false)
  && (match decodeTableWord 64 0x3DC0060000000000 with | some (.time f) => f.dst == 3 && f.sa == 0 && f.sb == 0 && f.sc == 0 && f.ty == 0 | _ => false)
  && (match decodeTableWord 64 0x3E00060400000000 with | some (.erd f) => f.dst == 3 && f.sa == 4 && f.sb == 0 && f.sc == 0 && f.ty == 0 | _ => false)
  && (match decodeTableWord 64 0x3E40000400000000 with | some (.dbgmb f) => f.dst == 0 && f.sa == 4 && f.sb == 0 && f.sc == 0 && f.ty == 0 | _ => false)) = true := by decide


end Sys2Proof.Tests
end

section
/-! O6 and O7: the invariant `State.Good` holds after reset, and every step keeps it.

Whether a state is Good depends on five of its fields alone, the three memories and the two tables, and few functions of the model write
one of them: those keep it by the laws of `Memory.write`, `Memory.clear` and `List.set`. Every other function is a chain of functions that
keep a Good state Good around record updates that leave the five fields alone (`State.Good.frame`). So each function of the model has one
lemma here, named after it, in the order of the model's files; its proof follows the function's branches and cites the lemmas of the
functions that the branch calls. `exec` and `step` come last. -/

namespace Sys2Proof.Machine

open Host (Outcome Cell)

/-- The next state that an outcome answers, if it answers one, is Good. -/
inductive GoodNext : Outcome State Fault Refusal → Prop
  | next {s : State} (h : s.Good) : GoodNext (.next s)
  | fault {r : Fault} : GoodNext (.fault r)
  | refused {r : Refusal} : GoodNext (.refused r)

/-- The state that an optional answer holds, if it holds one, is Good. -/
inductive GoodSome : Option State → Prop
  | none : GoodSome none
  | some {s : State} (h : s.Good) : GoodSome (some s)

/-- The state that an act on a block's MSQ leaves, if it does not fault, is Good. -/
inductive GoodOk : Except Cause State → Prop
  | ok {s : State} (h : s.Good) : GoodOk (.ok s)
  | error {c : Cause} : GoodOk (.error c)

/-- A read function that keeps a state Good. -/
def Rd.Keeps (rd : Rd) : Prop := ∀ (s : State) a n, s.Good → (rd s a n).1.Good

/-- A word's effect that keeps a state Good. -/
def BodyFn.Keeps (body : BodyFn) : Prop := ∀ (s : State) b g p, s.Good → (body s b g p).1.Good

/-- Any update of the other fields keeps a state Good. -/
theorem State.Good.frame {s : State}
    {agenda issue free nextId clock issued tried admitted gtsBase peerBad peerSays peerNews peerAsked poison poisonCode sealed tlb llc
    pins cores groups blocks batches contexts objects slotCounts queues channels launches rasters pipes conts counters faults heldPeers
    parks images jobs host hostCmd msix errlog secnt outbox hostData trigs linksDown chipBudget rounds resetClock progBuf mailbox stuff
    stepping prof thermTrip firmware}
    (h : s.Good) :
    State.Good { s with
      agenda, issue, free, nextId, clock, issued, tried, admitted, gtsBase, peerBad, peerSays, peerNews, peerAsked, poison, poisonCode,
      sealed, tlb, llc, pins, cores, groups, blocks, batches, contexts, objects, slotCounts, queues, channels, launches, rasters, pipes,
      conts, counters, faults, heldPeers, parks, images, jobs, host, hostCmd, msix, errlog, secnt, outbox, hostData, trigs, linksDown,
      chipBudget, rounds, resetClock, progBuf, mailbox, stuff, stepping, prof, thermTrip, firmware } :=
  ⟨h.mem, h.hostMem, h.peerMem, h.bps, h.wps⟩

theorem State.Good.ite {c} {inst : Decidable c} {s t : State} (hs : s.Good) (ht : t.Good) : (if c then s else t).Good := by
  split
  · exact hs
  · exact ht

theorem State.Good.ite_fst {α c} {inst : Decidable c} {p q : State × α} (hp : p.1.Good) (hq : q.1.Good) :
    (if c then p else q).1.Good := by
  split
  · exact hp
  · exact hq

theorem GoodNext.ite {c} {inst : Decidable c} {o p : Outcome State Fault Refusal} (ho : GoodNext o) (hp : GoodNext p) :
    GoodNext (if c then o else p) := by
  split
  · exact ho
  · exact hp

theorem GoodOk.ite {c} {inst : Decidable c} {o p : Except Cause State} (ho : GoodOk o) (hp : GoodOk p) :
    GoodOk (if c then o else p) := by
  split
  · exact ho
  · exact hp

/-- A fold whose every step keeps a state Good keeps it Good. -/
theorem State.Good.foldl {α} {f : State → α → State} {xs : List α} {s : State} (step : ∀ s x, s.Good → (f s x).Good) (h : s.Good) :
    (xs.foldl f s).Good := by
  induction xs generalizing s with
  | nil => exact h
  | cons x xs ih => exact ih (step s x h)

/-- The same for a fold that gathers something beside the state. -/
theorem State.Good.foldl_fst {α β} {f : State × β → α → State × β} {xs : List α} {r : State × β}
    (step : ∀ r x, r.1.Good → (f r x).1.Good) (h : r.1.Good) : (xs.foldl f r).1.Good := by
  induction xs generalizing r with
  | nil => exact h
  | cons x xs ih => exact ih (step r x h)

theorem State.Good.fst_mk {α} {s : State} {a : α} (h : s.Good) : (s, a).1.Good := h

theorem State.Good.of_fst {α} {p : State × α} {s : State} {a : α} (e : p = (s, a)) (h : p.1.Good) : s.Good := by
  subst e
  exact h

theorem State.Good.of_next {o : Outcome State Fault Refusal} {s : State} (e : o = .next s) (h : GoodNext o) : s.Good := by
  subst e
  cases h
  assumption

theorem State.Good.of_some {o : Option State} {s : State} (e : o = some s) (h : GoodSome o) : s.Good := by
  subst e
  cases h
  assumption

theorem State.Good.of_ok {o : Except Cause State} {s : State} (e : o = .ok s) (h : GoodOk o) : s.Good := by
  subst e
  cases h
  assumption

theorem State.Good.of_snd {α} {p : α × State} {a : α} {s : State} (e : p = (a, s)) (h : p.2.Good) : s.Good := by
  subst e
  exact h

theorem State.Good.getD {o : Option State} {s : State} (ho : GoodSome o) (h : s.Good) : (o.getD s).Good := by
  cases ho with
  | none => exact h
  | some ho => exact ho

theorem GoodSome.or {o p : Option State} (ho : GoodSome o) (hp : GoodSome p) : GoodSome (o.or p) := by
  cases ho with
  | none => simpa using hp
  | some ho => exact .some ho

theorem GoodSome.ite {c} {inst : Decidable c} {o p : Option State} (ho : GoodSome o) (hp : GoodSome p) :
    GoodSome (if c then o else p) := by
  split
  · exact ho
  · exact hp

theorem GoodSome.findSome {α} {f : α → Option State} {xs : List α} (hf : ∀ x, GoodSome (f x)) : GoodSome (xs.findSome? f) := by
  induction xs with
  | nil => exact .none
  | cons x xs ih =>
    rw [List.findSome?_cons]
    split
    · next e => exact e ▸ hf x
    · exact ih

/-! ### Updates by key, memory, caches, translation, and the writes on their way out -/

theorem State.Good.modGroup {s : State} {gid f} (h : s.Good) : (s.modGroup gid f).Good := .frame h

theorem State.Good.modBlock {s : State} {bid f} (h : s.Good) : (s.modBlock bid f).Good := .frame h

theorem State.Good.modCore {s : State} {c f} (h : s.Good) : (s.modCore c f).Good := .frame h

theorem State.Good.modBatch {s : State} {b f} (h : s.Good) : (s.modBatch b f).Good := .frame h

theorem State.Good.modContext {s : State} {c f} (h : s.Good) : (s.modContext c f).Good := .frame h

theorem State.Good.modLaunch {s : State} {l f} (h : s.Good) : (s.modLaunch l f).Good := .frame h

theorem State.Good.modFibre {s : State} {gid l f} (h : s.Good) : (s.modFibre gid l f).Good := .modGroup h

theorem State.Good.fresh {s : State} (h : s.Good) : s.fresh.2.Good := .frame h

theorem State.Good.writePa {s : State} {pa bs} (h : s.Good) : (s.writePa pa bs).Good :=
  { h with mem := write_wf _ _ _ h.mem }

theorem State.Good.chargeCtx {s : State} {ctx u} (h : s.Good) : (chargeCtx s ctx u).Good := .modContext h

theorem State.Good.charge {s : State} {ctx bid u} (h : s.Good) : (charge s ctx bid u).Good := .modBlock (.chargeCtx h)

theorem State.Good.llcFill {s : State} {new first last rm} (h : s.Good) : (llcFill s new first last rm).Good := .frame h

theorem State.Good.homeServe {s : State} {tag t n rm} (h : s.Good) : (homeServe s tag t n rm).1.Good := by
  fun_cases Machine.homeServe s tag t n rm with
  | case1 => exact .llcFill h
  | case2 | case3 => exact h

theorem State.Good.countEvent {s : State} {ctx event n} (h : s.Good) : (countEvent s ctx event n).Good := .modContext h

theorem State.Good.serveCtx {s : State} {ctx tag t n rm} (h : s.Good) : (serveCtx s ctx tag t n rm).Good :=
  .countEvent (.chargeCtx (.homeServe h))

theorem State.Good.serveBlock {s : State} {ctx bid tag t n rm} (h : s.Good) : (serveBlock s ctx bid tag t n rm).Good :=
  .countEvent (.charge (.homeServe h))

theorem State.Good.chargeWalk {s : State} {ctx entries} (h : s.Good) : (chargeWalk s ctx entries).Good :=
  .foldl (fun _ _ h1 => .chargeCtx (.homeServe h1)) h

theorem State.Good.setAD {s : State} {at_ e acc} (h : s.Good) : (setAD s at_ e acc).Good := by
  fun_cases Machine.setAD s at_ e acc with
  | case1 => exact h
  | case2 => exact { h with mem := write_wf _ _ _ h.mem }

theorem State.Good.askPeer {s : State} {m holds} (h : s.Good) : (askPeer s m holds).Good := .frame h

theorem State.Good.peerNewsApply {s : State} {n : PeerNews} (h : s.Good) : (n.apply s).Good := by
  cases n with
  | bytes => exact { h with peerMem := write_wf _ _ _ h.peerMem }
  | answer => exact .frame h

theorem State.Good.takeNews {s : State} (h : s.Good) : (takeNews s).Good := .foldl (fun _ _ h1 => .peerNewsApply h1) (.frame h)

theorem State.Good.notePin {s : State} {e ctx va pa} (h : s.Good) : (notePin s e ctx va pa).Good := .ite h (.frame h)

theorem State.Good.leafEnd {s : State} {c e bits va acc n data} (h : s.Good) : (leafEnd s c e bits va acc n data).1.Good := by
  unfold Machine.leafEnd
  refine .ite_fst h ?_
  split
  · exact .ite_fst h (.notePin h)
  · refine .ite_fst h ?_
    split
    · dsimp +zetaDelta only
      split
      · exact h
      · exact h
      · exact h
    · dsimp +zetaDelta only
      split
      · exact .askPeer h
      · exact .askPeer h
      · exact .askPeer h
  · exact h

theorem State.Good.tlbFill {s : State} {core ctx va bits e} (h : s.Good) : (tlbFill s core ctx va bits e).Good := .frame h

theorem State.Good.walkFor {s : State} {core c va acc n data} (h : s.Good) : (walkFor s core c va acc n data).1.Good := by
  fun_cases Machine.walkFor s core c va acc n data with
  | case1 | case2 => exact .chargeWalk h
  | case3 => exact .of_fst ‹_› (.leafEnd (.chargeWalk h))
  | case4 => exact .tlbFill (.setAD (.of_fst ‹_› (.leafEnd (.chargeWalk h))))

theorem State.Good.translate {s : State} {core c va acc n data} (h : s.Good) : (translate s core c va acc n data).1.Good := by
  unfold Machine.translate
  refine .ite_fst h ?_
  split
  · exact .walkFor h
  · exact .ite_fst (.leafEnd h) (.walkFor h)

theorem State.Good.writeTarget {s : State} {t bs} (h : s.Good) : (writeTarget s t bs).Good := by
  fun_cases Machine.writeTarget s t bs with
  | case1 => exact .writePa h
  | case2 => exact { h with peerMem := write_wf _ _ _ h.peerMem }
  | case3 => exact { h with hostMem := write_wf _ _ _ h.hostMem }

theorem State.Good.keepSeen {s : State} {core gid lid} (h : s.Good) : (s.keepSeen core gid lid).Good := .modCore h

theorem State.Good.coreRead {s : State} {core ctx gid fibres va n t rm} (h : s.Good) :
    (coreRead s core ctx gid fibres va n t rm).1.Good := .modCore h

theorem State.Good.coreWrite {s : State} {core ctx gid lane fibres va t bs rm word clears} (h : s.Good) :
    (coreWrite s core ctx gid lane fibres va t bs rm word clears).Good := .modCore (.fresh h)

theorem State.Good.clearSector {s : State} {core w x} (h : s.Good) : (clearSector core w s x).Good := by
  fun_cases Machine.clearSector core w s x with
  | case1 | case5 => exact h
  | case2 => exact .modCore h
  | case3 | case4 => exact .frame h

theorem State.Good.performWrite {s : State} {core w} (h : s.Good) : (performWrite s core w).Good :=
  .foldl (fun _ _ h1 => .clearSector h1) (.writeTarget (.modCore h))

theorem State.Good.performSome {s : State} {core pick} (h : s.Good) : (performSome s core pick).Good := by
  fun_cases Machine.performSome s core pick with
  | case1 => exact h
  | case2 => exact .foldl (fun _ _ h1 => .performWrite h1) h

theorem State.Good.relDraws {s : State} {gid lane sc} (h : s.Good) : (relDraws s gid lane sc).Good := by
  fun_cases Machine.relDraws s gid lane sc with
  | case1 => exact h
  | case2 => exact .frame h

theorem State.Good.acqDraws {s : State} {gid lane sc} (h : s.Good) : (acqDraws s gid lane sc).Good := by
  fun_cases Machine.acqDraws s gid lane sc with
  | case1 => exact h
  | case2 => exact .frame h

theorem State.Good.releaseAt {s : State} {core ctx gid lane sc} (h : s.Good) : (releaseAt s core ctx gid lane sc).Good :=
  .ite (.relDraws h) (.performSome (.relDraws h))

theorem State.Good.acquireAt {s : State} {core ctx gid lane sc} (h : s.Good) : (acquireAt s core ctx gid lane sc).Good :=
  .modCore (.acqDraws h)

theorem State.Good.settleAt {s : State} {core ctx va n} (h : s.Good) : (settleAt s core ctx va n).Good := .modCore (.performSome h)

/-! ### Accesses of the engines, the Grinder, and faults -/

theorem State.Good.translateAll {s : State} {core c acc base data parts} (h : s.Good) :
    (translateAll s core c acc base data parts).1.Good := by
  fun_induction Machine.translateAll s core c acc base data parts with
  | case1 => exact h
  | case2 => exact .of_fst ‹_› (.translate h)
  | case3 _ _ _ _ _ _ _ _ _ _ ih => exact .of_fst ‹_› (ih (.of_fst ‹_› (.translate h)))
  | case4 _ _ _ _ _ _ _ _ _ _ ih => exact .of_fst ‹_› (ih (.of_fst ‹_› (.translate h)))

theorem State.Good.portParts {s : State} {core ctx va n acc data} (h : s.Good) : (portParts s core ctx va n acc data).1.Good := by
  fun_cases Machine.portParts s core ctx va n acc data with
  | case1 => exact h
  | case2 => exact .translateAll h

theorem State.Good.chargeHome {s : State} {ctx tag rm parts} (h : s.Good) : (chargeHome s ctx tag rm parts).Good :=
  .foldl (fun _ _ h1 => .serveCtx h1) h

theorem State.Good.shareBlock {s0 s : State} {ctx bid} (hs : s.Good) : (shareBlock s0 ctx bid s).Good := .modBlock hs

theorem State.Good.engineRead {s : State} {core ctx va n} (h : s.Good) : (engineRead s core ctx va n).1.Good := by
  fun_cases Machine.engineRead s core ctx va n with
  | case1 | case2 => exact .of_fst ‹_› (.portParts h)
  | case3 => exact .chargeHome (.of_fst ‹_› (.portParts h))
  | case4 => exact .performSome (.chargeHome (.of_fst ‹_› (.portParts h)))

theorem State.Good.engineReadN {s : State} {core ctx va n} (h : s.Good) : (engineReadN s core ctx va n).1.Good := by
  fun_cases Machine.engineReadN s core ctx va n <;> exact .of_fst ‹_› (.engineRead h)

theorem State.Good.engineWrite {s : State} {core ctx va bs} (h : s.Good) : (engineWrite s core ctx va bs).1.Good := by
  fun_cases Machine.engineWrite s core ctx va bs with
  | case1 => exact .of_fst ‹_› (.portParts h)
  | case2 => exact .modCore (.foldl (fun _ _ h1 => .writeTarget h1) (.chargeHome (.performSome (.of_fst ‹_› (.portParts h)))))

theorem State.Good.grinderLine {s : State} {core ctx line home bad rm} (h : s.Good) :
    (grinderLine s core ctx line home bad rm).1.Good := .modCore h

theorem State.Good.chargeGrinder {s : State} {core ctx va n rm parts} (h : s.Good) :
    (chargeGrinder s core ctx va n rm parts).Good := .ite (.chargeHome (.chargeCtx h)) (.chargeHome (.chargeCtx h))

theorem State.Good.grinderRead {s : State} {core ctx va n rm} (h : s.Good) : (grinderRead s core ctx va n rm).1.Good := by
  fun_cases Machine.grinderRead s core ctx va n rm with
  | case1 => exact .of_fst ‹_› (.portParts h)
  | case2 | case3 => exact .foldl_fst (fun _ _ h1 => .grinderLine h1) (.chargeGrinder (.of_fst ‹_› (.portParts h)))

theorem State.Good.grinderDrop {s : State} {core ctx} (h : s.Good) : (grinderDrop s core ctx).Good := .modCore h

theorem State.Good.writeFault {s : State} {r slot} (h : s.Good) : (writeFault s r slot).Good := .ite h (.writePa h)

theorem State.Good.flushFault {s : State} (h : s.Good) : (flushFault s).Good := by
  fun_cases Machine.flushFault s with
  | case1 | case3 => exact h
  | case2 => exact .frame (.writeFault h)

theorem State.Good.trigger {s : State} {ctx bit t} (h : s.Good) : (trigger s ctx bit t).Good := by
  fun_cases Machine.trigger s ctx bit t with
  | case1 => exact .frame h
  | case2 | case3 => exact h

theorem State.Good.fileFaultAt {s : State} {t ctx va agent acc np} (h : s.Good) : (fileFaultAt t s ctx va agent acc np).Good := by
  fun_cases Machine.fileFaultAt t s ctx va agent acc np with
  | case1 | case3 => exact .frame h
  | case2 => exact .writeFault (.frame h)
  | case4 => exact .trigger (.flushFault (.frame h))

theorem State.Good.fileFault {s : State} {ctx va agent acc np} (h : s.Good) : (fileFault s ctx va agent acc np).Good := .fileFaultAt h

/-! ### Bricks -/

theorem State.Good.brickProbe {rd m key fuel slot} {s : State} (hrd : Rd.Keeps rd) (h : s.Good) :
    (brickProbe rd m key fuel slot s).1.Good := by
  fun_induction Machine.brickProbe rd m key fuel slot s with
  | case1 => exact h
  | case2 | case3 | case4 => exact .of_fst ‹_› (hrd _ _ _ h)
  | case5 _ _ _ _ _ _ _ _ _ ih => exact ih (.of_fst ‹_› (hrd _ _ _ h))

theorem State.Good.brickAt {s : State} {m i j k} {rd : Rd} (hrd : rd.Keeps) (h : s.Good) : (brickAt rd m i j k s).1.Good := by
  fun_cases Machine.brickAt rd m i j k s with
  | case1 | case2 => exact .of_fst ‹_› (.brickProbe hrd h)
  | case3 | case4 => exact .of_fst ‹_› (hrd _ _ _ (.of_fst ‹_› (.brickProbe hrd h)))

theorem State.Good.voxelIn {s : State} {m brick i j k} {rd : Rd} (hrd : rd.Keeps) (h : s.Good) :
    (voxelIn rd m brick i j k s).1.Good := by
  unfold Machine.voxelIn
  refine .ite_fst ?_ ?_
  · split <;> exact .of_fst ‹_› (hrd _ _ _ h)
  · split
    · exact .of_fst ‹_› (hrd _ _ _ h)
    · split <;> exact .of_fst ‹_› (hrd _ _ _ (.of_fst ‹_› (hrd _ _ _ h)))

theorem State.Good.voxel {s : State} {m i j k} {rd : Rd} (hrd : rd.Keeps) (h : s.Good) : (voxel rd m i j k s).1.Good := by
  unfold Machine.voxel
  refine .ite_fst h ?_
  split
  · exact .of_fst ‹_› (.brickAt hrd h)
  · exact .of_fst ‹_› (.brickAt hrd h)
  · exact .voxelIn hrd (.of_fst ‹_› (.brickAt hrd h))

theorem State.Good.readEach {α β : Type} {f : α → State → State × Except PortErr β} {xs} {s : State}
    (step : ∀ x (s : State), s.Good → (f x s).1.Good) (h : s.Good) : (readEach f xs s).1.Good := by
  fun_induction Machine.readEach f xs s with
  | case1 => exact h
  | case2 => exact .of_fst ‹_› (step _ _ h)
  | case3 _ _ _ _ _ _ _ _ _ ih => exact .of_fst ‹_› (ih (.of_fst ‹_› (step _ _ h)))
  | case4 _ _ _ _ _ _ _ _ _ ih => exact .of_fst ‹_› (ih (.of_fst ‹_› (step _ _ h)))

theorem State.Good.fetch3Words {s : State} {map x y z} {rd : Rd} (hrd : rd.Keeps) (h : s.Good) :
    (fetch3Words rd map x y z s).1.Good := by
  unfold Machine.fetch3Words
  refine .ite_fst h ?_
  split
  · exact .of_fst ‹_› (hrd _ _ _ h)
  · dsimp +zetaDelta only
    split
    · exact .of_fst ‹_› (.readEach (fun _ _ h2 => .voxel hrd h2) (.of_fst ‹_› (hrd _ _ _ h)))
    · exact .of_fst ‹_› (.readEach (fun _ _ h2 => .voxel hrd h2) (.of_fst ‹_› (hrd _ _ _ h)))

/-! ### Words in flight -/

theorem State.Good.fibreFault {s : State} {g lane seg woff va agent acc np} (h : s.Good) :
    (fibreFault s g lane seg woff va agent acc np).Good := .fileFaultAt h

theorem State.Good.commitBlock {s : State} {bid} (h : s.Good) : (commitBlock s bid).Good := .modBlock h

theorem State.Good.commitOther {s : State} {g bid} (h : s.Good) : (commitOther s g bid).Good := .ite h (.commitBlock h)

theorem State.Good.portXl {s : State} {g va acc n data} (h : s.Good) : (portXl s g va acc n data).1.Good := by
  fun_cases Machine.portXl s g va acc n data with
  | case1 => exact h
  | case2 => exact .shareBlock (.translate h)

theorem State.Good.globalLoad {s : State} {g lane fibres va n rm} (h : s.Good) : (globalLoad s g lane fibres va n rm).1.Good := by
  fun_cases Machine.globalLoad s g lane fibres va n rm with
  | case1 => exact .of_fst ‹_› (.portXl h)
  | case2 => exact .of_fst ‹_› (.coreRead (.of_fst ‹_› (.portXl h)))
  | case3 =>
    exact .ite (.charge (.of_fst ‹_› (.coreRead (.of_fst ‹_› (.portXl h)))))
      (.serveBlock (.countEvent (.charge (.of_fst ‹_› (.coreRead (.of_fst ‹_› (.portXl h)))))))

theorem State.Good.globalStore {s : State} {g lane fibres va bs rm word clears} (h : s.Good) :
    (globalStore s g lane fibres va bs rm word clears).1.Good := by
  fun_cases Machine.globalStore s g lane fibres va bs rm word clears with
  | case1 => exact .of_fst ‹_› (.portXl h)
  | case2 => exact .commitBlock (.serveBlock (.charge (.coreWrite (.of_fst ‹_› (.portXl h)))))

theorem State.Good.releaseAll {s : State} {g fibres sc} (h : s.Good) : (releaseAll s g fibres sc).Good :=
  .foldl (fun _ _ h1 => .releaseAt h1) h

theorem State.Good.acquireAll {s : State} {g fibres sc} (h : s.Good) : (acquireAll s g fibres sc).Good :=
  .foldl (fun _ _ h1 => .acquireAt h1) h

theorem State.Good.globalAtomic {s : State} {g i lane fibres va data} (h : s.Good) :
    (globalAtomic s g i lane fibres va data).1.Good := by
  fun_cases Machine.globalAtomic s g i lane fibres va data with
  | case1 | case2 => exact .of_fst ‹_› (.portXl h)
  | case3 => exact .settleAt (.of_fst ‹_› (.portXl h))
  | case4 =>
    refine .ite (.acquireAll ?_) ?_
    · dsimp +zetaDelta only
      split
      · exact .serveBlock (.settleAt (.of_fst ‹_› (.portXl h)))
      · exact .commitBlock (.writeTarget
          (.ite (.releaseAll (.serveBlock (.settleAt (.of_fst ‹_› (.portXl h))))) (.serveBlock (.settleAt (.of_fst ‹_› (.portXl h))))))
    · split
      · exact .serveBlock (.settleAt (.of_fst ‹_› (.portXl h)))
      · exact .commitBlock (.writeTarget
          (.ite (.releaseAll (.serveBlock (.settleAt (.of_fst ‹_› (.portXl h))))) (.serveBlock (.settleAt (.of_fst ‹_› (.portXl h))))))

theorem State.Good.scratchStore {s : State} {bid off bs} (h : s.Good) : (scratchStore s bid off bs).Good := .modBlock h

theorem State.Good.scratchClear {s : State} {bid secs} (h : s.Good) : (scratchClear s bid secs).Good := .modBlock h

theorem State.Good.tbWrite {s : State} {bid off t} (h : s.Good) : (tbWrite s bid off t).Good := .scratchStore h

theorem State.Good.endTbWaits {s : State} {bid off phase} (h : s.Good) : (endTbWaits s bid off phase).Good := .frame h

theorem State.Good.tbChange {s : State} {bid off bytes arrive} (h : s.Good) : (tbChange s bid off bytes arrive).Good :=
  .endTbWaits (.tbWrite h)

theorem State.Good.tbArrive {s : State} {g lane bid off bytes a6} (h : s.Good) : (tbArrive s g lane bid off bytes a6).Good :=
  .commitOther (.tbChange (.releaseAt h))

theorem State.Good.tbAgain {s t : State} {g i op r} (e : tbAgain s g i op = some (t, r)) (h : s.Good) : t.Good := by
  revert e
  fun_cases Machine.tbAgain s g i op <;> rintro ⟨⟩
  · exact h
  · exact .tbArrive h
  · exact .acquireAt h

theorem State.Good.filePriv {s : State} {g acc e} (h : s.Good) : (filePriv s g acc e).Good := by
  fun_cases Machine.filePriv s g acc e with
  | case1 | case2 | case3 => exact .fileFault h
  | case4 => exact h

theorem State.Good.privFillSector {s : State} {gid sec} (h : s.Good) : (privFillSector gid s sec).Good := by
  fun_cases Machine.privFillSector gid s sec with
  | case1 | case2 => exact h
  | case3 => exact .of_fst ‹_› (.portXl h)
  | case4 => exact .modGroup (.filePriv (.of_fst ‹_› (.portXl h)))
  | case5 => exact .modGroup (.serveBlock (.countEvent (.of_fst ‹_› (.portXl h))))

theorem State.Good.writebackSector {s : State} {gid sec} (h : s.Good) : (writebackSector gid s sec).Good := by
  fun_cases Machine.writebackSector gid s sec with
  | case1 => exact h
  | case2 => exact .of_fst ‹_› (.portXl h)
  | case3 => exact .modGroup (.filePriv (.of_fst ‹_› (.portXl h)))
  | case4 =>
    refine .modGroup ?_
    dsimp +zetaDelta only
    split
    · exact .frame (.writeTarget (.serveBlock (.of_fst ‹_› (.portXl h))))
    · exact .frame (.writeTarget (.serveBlock (.of_fst ‹_› (.portXl h))))
    · exact .writeTarget (.serveBlock (.of_fst ‹_› (.portXl h)))

theorem State.Good.writebackLine {s : State} {gid line} (h : s.Good) : (writebackLine s gid line).Good :=
  .modGroup (.foldl (fun _ _ h1 => .writebackSector h1) h)

theorem State.Good.privRoom {s : State} {core} (h : s.Good) : (privRoom s core).Good := by
  unfold Machine.privRoom
  refine .modCore (.foldl (fun _ _ h1 => ?_) h)
  split
  · exact .writebackLine h1
  · exact h1

theorem State.Good.privFill {s : State} {g lane off n} (h : s.Good) : (privFill s g lane off n).Good :=
  .ite (.privRoom (.foldl (fun _ _ h1 => .privFillSector h1) h)) h

theorem State.Good.helperAtomic {s : State} {g fl op} (h : s.Good) : (helperAtomic s g fl op).1.Good := by
  unfold Machine.helperAtomic
  refine .ite_fst ?_ ?_
  · split
    · exact h
    · exact h
  · split
    · exact .of_fst ‹_› (.globalLoad h)
    · exact .of_fst ‹_› (.globalLoad h)
    · exact .of_fst ‹_› (.globalLoad h)

theorem State.Good.readEnd {i helper outs} {r : State × Except PortErr (List Byte)} (hr : r.1.Good) :
    (readEnd i helper outs r).1.Good := by
  fun_cases Machine.readEnd i helper outs r <;> exact hr

theorem State.Good.publishRecord {s : State} {g op} (h : s.Good) : (publishRecord s g op).1.Good := by
  fun_cases Machine.publishRecord s g op with
  | case1 | case2 => exact h
  | case3 => exact .of_fst ‹_› (.engineWrite h)
  | case4 => exact .commitBlock (.frame (.releaseAt (.shareBlock (.of_fst ‹_› (.engineWrite h)))))

theorem State.Good.rrelLane {s : State} {g fl op} (h : s.Good) : (rrelLane s g fl op).1.Good :=
  .ite_fst h (.releaseAt (.foldl (fun _ _ h1 => .performSome h1) h))

theorem State.Good.shareRead {α} {s0 : State} {g} {r : State × α} (hr : r.1.Good) : (shareRead s0 g r).1.Good := .shareBlock hr

theorem State.Good.performLane {s : State} {g fl op} (h : s.Good) : (performLane s g fl op).1.Good := by
  fun_cases Machine.performLane s g fl op with
  | case1 | case12 | case21 | case22 | case23 | case24 | case25 | case31 | case34 | case35 | case36 | case38 => exact h
  | case2 => exact .readEnd (.globalLoad h)
  | case3 | case8 => exact .privFill h
  | case4 => exact .readEnd (.charge (.privFill h))
  | case5 => exact .readEnd (.charge h)
  | case6 | case7 => exact .of_fst ‹_› (.globalStore h)
  | case9 => exact .privRoom (.modGroup (.charge (.privFill h)))
  | case10 => exact .commitOther (.scratchClear (.scratchStore (.charge h)))
  | case11 | case14 => exact .helperAtomic h
  | case13 =>
    exact .ite (.acquireAll (.commitOther (.scratchStore (.ite (.releaseAll (.charge h)) (.charge h)))))
      (.commitOther (.scratchStore (.ite (.releaseAll (.charge h)) (.charge h))))
  | case15 | case16 => exact .of_fst ‹_› (.globalAtomic h)
  | case17 => exact .readEnd (.shareRead (.grinderRead h))
  | case18 | case19 | case20 => exact .of_fst ‹_› (.shareRead (.fetch3Words (fun _ _ _ h1 => .grinderRead h1) h))
  | case26 => exact .acquireAll h
  | case27 | case28 => exact .of_fst ‹_› (.publishRecord h)
  | case29 | case30 => exact .of_fst ‹_› (.rrelLane h)
  | case32 | case33 => exact .tbAgain ‹_› h
  | case37 => exact .charge h

theorem State.Good.performPiece {s : State} {g fl op j} (h : s.Good) : (performPiece s g fl op j).1.Good := .performLane h

theorem State.Good.pieceClears {s : State} {g fl op} (h : s.Good) : (pieceClears s g fl op).Good :=
  .ite h (.ite (.modCore h) (.scratchClear h))

theorem State.Good.performPieces {s : State} {g fl op js} (h : s.Good) : (performPieces s g fl op js).1.Good := by
  fun_induction Machine.performPieces s g fl op js with
  | case1 => exact h
  | case2 _ _ _ _ _ _ _ ih => exact ih (.of_fst ‹_› (.performPiece h))
  | case3 => exact .of_fst ‹_› (.performPiece h)

theorem State.Good.performParts {s : State} {g fl op split} (h : s.Good) : (performParts s g fl op split).1.Good := by
  unfold Machine.performParts
  refine .ite_fst h (.ite_fst ?_ (.ite_fst (.performLane h) ?_))
  · dsimp +zetaDelta only
    split
    · exact .of_fst ‹_› (.performPieces h)
    · exact .performPieces h
  · split
    · exact .pieceClears (.of_fst ‹_› (.performPieces h))
    · exact .performPieces h

theorem State.Good.holdOp {s : State} {g fl lane e parts} (h : s.Good) : (holdOp s g fl lane e parts).Good := by
  unfold Machine.holdOp
  refine .modGroup ?_
  split
  · exact .fibreFault h
  · exact h

theorem State.Good.attemptLane {s : State} {gid seq lane split} (h : s.Good) : (attemptLane s gid seq lane split).1.Good := by
  fun_cases Machine.attemptLane s gid seq lane split with
  | case1 | case2 | case3 | case4 => exact h
  | case5 => exact .holdOp h
  | case6 | case7 => exact .ite (.of_fst ‹_› (.performParts h)) (.modGroup (.of_fst ‹_› (.performParts h)))
  | case8 => exact .holdOp (.of_fst ‹_› (.performParts h))
  | case9 | case10 | case11 => exact .modGroup (.of_fst ‹_› (.performParts h))

theorem State.Good.attemptLanes {s : State} {gid seq lanes split} (h : s.Good) : (attemptLanes s gid seq lanes split).1.Good :=
  .foldl_fst (fun _ _ h1 => .attemptLane h1) h

theorem State.Good.sweepWith {s : State} {split gid pick} (h : s.Good) : (sweepWith split s gid pick).1.Good :=
  .foldl_fst (fun _ _ h1 => .fst_mk (.attemptLanes h1)) h

theorem State.Good.sweep {s : State} {gid pick} (h : s.Good) : (sweep s gid pick).1.Good := .sweepWith h

theorem State.Good.holdTrap {s : State} {gid h0} (h : s.Good) : (holdTrap s gid h0).Good := .modGroup h

theorem State.Good.sweepHeld {s : State} {gid} (h : s.Good) : (sweepHeld s gid).Good := .foldl (fun _ _ h1 => .holdTrap h1) (.sweep h)

theorem State.Good.drainStores {s : State} {gid} (h : s.Good) : (drainStores s gid).Good := .sweepWith h

theorem State.Good.completeLanes {s : State} {gid seq lanes} (h : s.Good) : (completeLanes s gid seq lanes).1.Good :=
  .drainStores (.attemptLanes h)

/-! ### Trace -/

theorem State.Good.needSync {s : State} {ctx} (h : s.Good) : (needSync s ctx).Good := .frame h

theorem State.Good.markGap {s : State} {ctx gap} (h : s.Good) : (markGap s ctx gap).Good := .modContext h

theorem State.Good.tracePut {s : State} {g base size tail bs} (h : s.Good) : (tracePut s g base size tail bs).Good :=
  .engineWrite (.foldl (fun _ _ h1 => .engineWrite h1) h)

theorem State.Good.traceDrop {s : State} {g base lost} (h : s.Good) : (traceDrop s g base lost).Good :=
  .markGap (.needSync (.engineWrite h))

theorem State.Good.traceWrite {s : State} {g sync bs} (h : s.Good) : (traceWrite s g sync bs).Good := by
  fun_cases Machine.traceWrite s g sync bs with
  | case1 | case2 => exact h
  | case3 => exact .of_fst ‹_› (.engineRead h)
  | case4 => exact .markGap (.tracePut (.of_fst ‹_› (.engineRead h)))
  | case5 => exact .traceDrop (.ite (.tracePut (.of_fst ‹_› (.engineRead h))) (.of_fst ‹_› (.engineRead h)))

theorem State.Good.flushSync {s : State} {gid} (h : s.Good) : (flushSync s gid).Good := by
  fun_cases Machine.flushSync s gid with
  | case1 | case2 => exact h
  | case3 => exact .traceWrite (.modGroup h)

theorem State.Good.flushSyncs {s : State} {ctx} (h : s.Good) : (flushSyncs s ctx).Good := .foldl (fun _ _ h1 => .flushSync h1) h

theorem State.Good.traceRec {s : State} {g place bs} (h : s.Good) : (traceRec s g place bs).Good := .traceWrite (.flushSyncs h)

theorem State.Good.traceSafe {s : State} {g ord woff lanes} (h : s.Good) : (traceSafe s g ord woff lanes).Good :=
  .ite h (.ite (.modGroup (.flushSyncs h)) (.modGroup (.traceRec h)))

theorem State.Good.traceRet {s : State} {g place lanes} (h : s.Good) : (traceRet s g place lanes).Good := .ite (.traceRec h) h

theorem State.Good.traceTrap {s : State} {g t} (h : s.Good) : (traceTrap s g t).Good := .ite (.traceRec h) h

/-! ### Fetch -/

theorem State.Good.fetchVa {s : State} {core ctx va} (h : s.Good) : (fetchVa s core ctx va).1.Good := by
  fun_cases Machine.fetchVa s core ctx va <;> exact .of_fst ‹_› (.portParts h)

theorem State.Good.fileFetch {s : State} {core ctx agent vas} (h : s.Good) : (fileFetch s core ctx agent vas).Good := by
  fun_induction Machine.fileFetch s core ctx agent vas with
  | case1 | case3 | case4 => exact h
  | case2 => exact .fileFault h
  | case5 => assumption

theorem State.Good.fetchAt {s : State} {core o seg woff} (h : s.Good) : (fetchAt s core o seg woff).1.Good := .ite_fst h (.fetchVa h)

theorem State.Good.fetchDecode {s : State} {core o seg woff} (h : s.Good) : (fetchDecode s core o seg woff).1.Good := by
  fun_cases Machine.fetchDecode s core o seg woff with
  | case1 | case2 | case5 => exact .of_fst ‹_› (.fetchAt h)
  | case3 | case4 => exact .of_fst ‹_› (.fetchAt (.of_fst ‹_› (.fetchAt h)))

theorem State.Good.unissue {s : State} (h : s.Good) : s.unissue.Good := .frame h

theorem State.Good.fetchInstr {s : State} {b} (h : s.Good) : (fetchInstr s b).1.Good := by
  fun_cases Machine.fetchInstr s b with
  | case1 =>
    refine .of_fst ‹_› ?_
    dsimp +zetaDelta only
    split
    · split <;> exact h
    · split
      · exact h
      · split
        · exact h
        · split
          · exact h
          · exact .fetchDecode h
  | case2 =>
    dsimp +zetaDelta only
    split
    · split <;> exact h
    · split
      · exact h
      · split
        · exact h
        · split
          · exact h
          · exact .fetchDecode h

/-! ### Stream registers -/

theorem State.Good.streamElem {s : State} {q pos} {rd : Rd} (hrd : rd.Keeps) (h : s.Good) : (streamElem rd q pos s).1.Good := by
  fun_cases Machine.streamElem rd q pos s with
  | case1 | case2 | case3 | case4 => exact .of_fst ‹_› (hrd _ _ _ h)
  | case5 => exact h

theorem State.Good.streamSeek {rd q target fuel pos} {s : State} (hrd : Rd.Keeps rd) (h : s.Good) :
    (streamSeek rd q target fuel pos s).1.Good := by
  fun_induction Machine.streamSeek rd q target fuel pos s with
  | case1 => exact h
  | case2 | case3 => exact .of_fst ‹_› (.streamElem hrd h)
  | case4 _ _ _ _ _ _ _ ih => exact ih (.of_fst ‹_› (.streamElem hrd h))
  | case5 _ _ _ _ _ ih => exact ih (.of_fst ‹_› (.streamElem hrd h))

theorem State.Good.bitmapCount {rd q fuel pos n} {s : State} (hrd : Rd.Keeps rd) (h : s.Good) :
    (bitmapCount rd q fuel pos n s).1.Good := by
  fun_induction Machine.bitmapCount rd q fuel pos n s with
  | case1 => exact h
  | case2 => exact .of_fst ‹_› (.streamElem hrd h)
  | case3 _ _ _ _ _ _ _ ih => exact ih (.of_fst ‹_› (.streamElem hrd h))

theorem State.Good.streamValue {s : State} {q pos} {rd : Rd} (hrd : rd.Keeps) (h : s.Good) : (streamValue rd q pos s).1.Good := by
  unfold Machine.streamValue
  refine .ite_fst h ?_
  split
  · split
    · exact .of_fst ‹_› (.bitmapCount hrd h)
    · dsimp +zetaDelta only
      split
      · exact .of_fst ‹_› (hrd _ _ _ (.of_fst ‹_› (.bitmapCount hrd h)))
      · exact .of_fst ‹_› (hrd _ _ _ (.of_fst ‹_› (.bitmapCount hrd h)))
  · dsimp +zetaDelta only
    split
    · exact .of_fst ‹_› (hrd _ _ _ h)
    · exact .of_fst ‹_› (hrd _ _ _ h)

theorem State.Good.streamMove {s : State} {q pos target} {rd : Rd} (hrd : rd.Keeps) (h : s.Good) :
    (streamMove rd q pos target s).1.Good := by
  fun_cases Machine.streamMove rd q pos target s with
  | case1 | case2 => exact .of_fst ‹_› (.streamSeek hrd h)
  | case3 | case4 => exact .of_fst ‹_› (.streamValue hrd (.of_fst ‹_› (.streamSeek hrd h)))

theorem State.Good.streamGallop {s : State} {q target} {rd : Rd} (hrd : rd.Keeps) (h : s.Good) :
    (streamGallop rd q target s).1.Good := .ite_fst h (.streamMove hrd h)

theorem State.Good.streamIsect {rd fuel a b} {s : State} (hrd : Rd.Keeps rd) (h : s.Good) : (streamIsect rd fuel a b s).1.Good := by
  fun_induction Machine.streamIsect rd fuel a b s with
  | case1 | case2 | case3 => exact h
  | case4 | case6 => exact .of_fst ‹_› (.streamGallop hrd h)
  | case5 _ _ _ _ _ _ _ _ _ _ ih => exact ih (.of_fst ‹_› (.streamGallop hrd h))
  | case7 _ _ _ _ _ _ _ _ _ _ ih => exact ih (.of_fst ‹_› (.streamGallop hrd h))

theorem State.Good.streamOpen {s : State} {addr} {rd : Rd} (hrd : rd.Keeps) (h : s.Good) : (streamOpen rd addr s).1.Good := by
  fun_cases Machine.streamOpen rd addr s with
  | case1 | case2 => exact .of_fst ‹_› (hrd _ _ _ h)
  | case3 => exact .streamMove hrd (.of_fst ‹_› (hrd _ _ _ h))

theorem State.Good.streamFault {s : State} {g lane ns e} (h : s.Good) : (streamFault s g lane ns e).Good := by
  fun_cases Machine.streamFault s g lane ns e with
  | case1 => exact h
  | case2 => exact .modFibre (.fibreFault h)
  | case3 => exact .modFibre h

theorem Rd.Keeps.streamRd {g} : Rd.Keeps (streamRd g) := fun _ _ _ h => .shareBlock (.grinderRead h)

theorem State.Good.streamRun {s : State} {x n} {rd : Rd} (hrd : rd.Keeps) (h : s.Good) : (streamRun rd x n s).1.Good := by
  fun_cases Machine.streamRun rd x n s with
  | case1 => exact .fst_mk (.streamOpen hrd h)
  | case2 => exact .fst_mk (.ite_fst h (.streamMove hrd h))
  | case3 => exact .fst_mk (.streamGallop hrd h)
  | case4 => exact .streamIsect hrd h
  | case5 => exact h

theorem State.Good.settleStream {s : State} {gid lane n} (h : s.Good) : (settleStream s gid lane n).Good := by
  fun_cases Machine.settleStream s gid lane n with
  | case1 | case2 => exact h
  | case3 => exact .modFibre (.of_fst ‹_› (.streamRun .streamRd h))
  | case4 => exact .streamFault (.of_fst ‹_› (.streamRun .streamRd h))

theorem State.Good.settleStreams {s : State} {gid} (h : s.Good) : (settleStreams s gid).Good :=
  .sweep (.foldl (fun _ _ h1 => .foldl (fun _ _ h2 => .settleStream h2) h1) h)

/-! ### Lanes that end, groups that stop, traps and the return from them -/

theorem State.Good.removeLanes {s : State} {gid lanes} (h : s.Good) : (removeLanes s gid lanes).Good := .frame (.modGroup h)

theorem State.Good.recountBarriers {s : State} {bid} (h : s.Good) : (recountBarriers s bid).Good := .modBlock h

theorem State.Good.settleBars {s : State} {gid} (h : s.Good) : (settleBars s gid).Good := by
  fun_cases Machine.settleBars s gid with
  | case1 => exact h
  | case2 =>
    refine .foldl (fun _ _ h1 => ?_) h
    split
    · exact h1
    · exact .modBlock (.modGroup (.modGroup h1))

theorem State.Good.settleMbars {s : State} {bid} (h : s.Good) : (settleMbars s bid).Good := by
  unfold Machine.settleMbars
  refine .foldl (fun _ _ h1 => .foldl (fun _ _ h2 => ?_) h1) h
  split
  · exact h2
  · exact .ite h2 (.modBlock (.modGroup h2))

theorem State.Good.dropLocks {s : State} {core owner} (h : s.Good) : (dropLocks s core owner).Good := .modCore h

theorem State.Good.endBlock {s : State} {bid} (h : s.Good) : (endBlock s bid).Good := by
  fun_cases Machine.endBlock s bid with
  | case1 => exact h
  | case2 => exact .frame (.modContext (.foldl (fun _ _ h1 => .dropLocks h1) h))

theorem State.Good.dropPrune {s : State} {core fl} (h : s.Good) : (dropPrune s core fl).Good :=
  .ite (.foldl (fun _ _ h1 => .ite h1 (.dropLocks h1)) h) h

theorem State.Good.quitUsers {s : State} {gone} (h : s.Good) : (quitUsers s gone).Good := .ite h (.frame h)

theorem State.Good.moveUsers {s : State} {old new} (h : s.Good) : (moveUsers s old new).Good := .frame h

theorem State.Good.reapGroup {s : State} {gid} (h : s.Good) : (reapGroup s gid).Good := by
  fun_cases Machine.reapGroup s gid with
  | case1 | case3 => exact h
  | case2 => exact .frame h

theorem State.Good.endGroup {s : State} {gid} (h : s.Good) : (endGroup s gid).Good := by
  fun_cases Machine.endGroup s gid with
  | case1 => exact h
  | case2 =>
    exact .reapGroup (.ite
      (.endBlock (.settleMbars
        (.recountBarriers (.modContext
          (.modGroup (.foldl (fun _ _ h1 => .dropPrune h1)
            (.keepSeen (.quitUsers (.removeLanes (.foldl (fun _ _ h1 => .relDraws h1) h))))))))))
              (.settleMbars (.recountBarriers (.modContext (.modGroup
                (.foldl (fun _ _ h1 => .dropPrune h1) (.keepSeen (.quitUsers (.removeLanes (.foldl (fun _ _ h1 => .relDraws h1) h))))))))))

theorem State.Good.quitLanes {s : State} {gid lanes} (h : s.Good) : (quitLanes s gid lanes).Good := by
  fun_cases Machine.quitLanes s gid lanes with
  | case1 => exact .quitUsers (.removeLanes (.modGroup h))
  | case2 => exact .quitUsers (.removeLanes (.modGroup (.quitUsers (.removeLanes (.modGroup h)))))
  | case3 =>
    exact .settleMbars (.recountBarriers (.settleBars (.quitUsers (.removeLanes (.modGroup (.quitUsers (.removeLanes (.modGroup h))))))))
  | case4 => exact .endGroup (.quitUsers (.removeLanes (.modGroup (.quitUsers (.removeLanes (.modGroup h))))))

theorem State.Good.stepArrive {s : State} {gid lanes} (h : s.Good) : (stepArrive s gid lanes).Good := by
  fun_cases Machine.stepArrive s gid lanes with
  | case1 => exact .frame h
  | case2 | case3 => exact h

theorem State.Good.sendLanes {s : State} {gid seg lanes} (h : s.Good) : (sendLanes s gid seg lanes).Good := .modGroup (.stepArrive h)

theorem State.Good.endSegLanes {s : State} {gid lanes} (h : s.Good) : (endSegLanes s gid lanes).Good := .modGroup h

theorem State.Good.stopGroup {s : State} {gid present} (h : s.Good) : (stopGroup s gid present).Good := by
  fun_cases Machine.stopGroup s gid present with
  | case1 => exact h
  | case2 => exact .modGroup (.removeLanes (.modGroup h))

theorem State.Good.restartGroup {s : State} {gid} (h : s.Good) : (restartGroup s gid).Good := .modGroup h

theorem State.Good.clearTarget {s : State} {t n} (h : s.Good) : (clearTarget s t n).Good := by
  fun_cases Machine.clearTarget s t n with
  | case1 => exact { h with mem := clear_wf _ _ _ h.mem }
  | case2 => exact { h with peerMem := clear_wf _ _ _ h.peerMem }
  | case3 => exact { h with hostMem := clear_wf _ _ _ h.hostMem }

theorem State.Good.noHandlerStop {s : State} {g t addr} (h : s.Good) : (noHandlerStop s g t addr).Good := .frame (.modContext h)

theorem State.Good.settleRange {s : State} {core ctx va n} (h : s.Good) : (settleRange s core ctx va n).Good := .modCore (.performSome h)

theorem State.Good.takeTrap {s : State} {gid} (h : s.Good) : (takeTrap s gid).Good := by
  unfold Machine.takeTrap
  dsimp +zetaDelta only
  split
  · exact .settleStreams (.sweepHeld h)
  · split
    · refine .ite (.settleStreams (.sweepHeld h)) (.ite (.settleStreams (.sweepHeld h))
        (.ite (.settleStreams (.sweepHeld h)) (.ite (.noHandlerStop (.modGroup (.settleStreams (.sweepHeld h)))) ?_)))
      split
      · exact .settleStreams (.sweepHeld h)
      · refine .ite (.noHandlerStop (.modGroup (.settleStreams (.sweepHeld h)))) ?_
        split
        · exact .of_fst ‹_› (.portXl (.settleStreams (.sweepHeld h)))
        · exact .noHandlerStop (.modGroup (.of_fst ‹_› (.portXl (.settleStreams (.sweepHeld h)))))
        · exact .commitBlock (.frame
            (.modGroup (.fresh (.traceTrap (.modContext (.foldl (fun _ _ h1 => .acquireAt h1) (.foldl (fun _ _ h1 => .writeTarget h1)
              (.clearTarget (.serveBlock (.charge (.settleRange (.of_fst ‹_› (.portXl (.settleStreams (.sweepHeld h)))))))))))))))
    · exact .settleStreams (.sweepHeld h)

theorem State.Good.holdForWave {s : State} {g t} (h : s.Good) : (holdForWave s g t).Good := .trigger (.modGroup h)

theorem State.Good.waveOnly {s : State} {g bit t} (h : s.Good) : (waveOnly s g bit t).Good := .restartGroup (.trigger (.modGroup h))

theorem State.Good.takeOrWave {s : State} {g t} (h : s.Good) : (takeOrWave s g t).Good :=
  .ite (.waveOnly h) (.ite (.waveOnly h) (.ite (.waveOnly h) (.ite (.holdForWave h) (.takeTrap h))))

theorem State.Good.raiseTrap {s : State} {gid t present} (h : s.Good) : (raiseTrap s gid t present).Good := by
  fun_cases Machine.raiseTrap s gid t present with
  | case1 => exact h
  | case2 | case4 => exact .modGroup (.stopGroup (.ite (.modGroup h) h))
  | case3 => exact .takeOrWave (.modGroup (.stopGroup (.ite (.modGroup h) h)))

theorem State.Good.raiseHeld {s : State} {gid} (h : s.Good) : (raiseHeld s gid).Good := by
  fun_cases Machine.raiseHeld s gid with
  | case1 | case2 | case4 | case6 => exact h
  | case3 => exact .raiseTrap h
  | case5 => exact .raiseTrap (.modGroup h)

theorem State.Good.obeyEntry {s : State} {gid i bs} (h : s.Good) : (obeyEntry s gid i bs).Good := by
  fun_cases Machine.obeyEntry s gid i bs with
  | case1 => exact h
  | case2 => exact .of_snd ‹_› (.fresh h)
  | case3 | case4 | case6 => exact .modGroup (.ite (.dropPrune (.of_snd ‹_› (.fresh h))) (.of_snd ‹_› (.fresh h)))
  | case5 => exact .ite (.dropPrune (.of_snd ‹_› (.fresh h))) (.of_snd ‹_› (.fresh h))

theorem State.Good.returnFromTrap {s : State} {gid} (h : s.Good) : (returnFromTrap s gid).Good := by
  fun_cases Machine.returnFromTrap s gid with
  | case1 | case6 => exact h
  | case2 => exact .of_fst ‹_› (.engineRead (.foldl (fun _ _ h1 => .acquireAt (.releaseAt h1)) h))
  | case3 => exact .noHandlerStop (.modGroup (.of_fst ‹_› (.engineRead (.foldl (fun _ _ h1 => .acquireAt (.releaseAt h1)) h))))
  | case4 =>
    exact .raiseHeld (.restartGroup (.modGroup (.foldl (fun _ _ h1 => .obeyEntry h1)
      (.modContext (.modGroup (.of_fst ‹_› (.engineRead (.foldl (fun _ _ h1 => .acquireAt (.releaseAt h1)) h))))))))
  | case5 =>
    exact .raiseTrap (.modGroup (.restartGroup (.modGroup (.foldl (fun _ _ h1 => .obeyEntry h1)
      (.modContext (.modGroup (.of_fst ‹_› (.engineRead (.foldl (fun _ _ h1 => .acquireAt (.releaseAt h1)) h)))))))))

/-! ### A word issues -/

theorem State.Good.tickBatch {s : State} {b} (h : s.Good) : (tickBatch s b).Good := .ite h (.foldl (fun _ _ h1 => .modGroup h1) h)

theorem State.Good.chargeWord {s : State} {g present i} (h : s.Good) : (chargeWord s g present i).Good := .countEvent (.charge h)

theorem State.Good.profCount {s : State} {b i oks} (h : s.Good) : (profCount s b i oks).Good := by
  fun_cases Machine.profCount s b i oks with
  | case1 | case3 => exact h
  | case2 | case4 | case5 => exact .frame h

theorem State.Good.passSafe {s : State} {b gid present i} (h : s.Good) : (passSafe s b gid present i).Good := by
  unfold Machine.passSafe
  refine .ite h ?_
  split
  · exact h
  · split
    · split
      · exact h
      · exact .ite (.modGroup h) (.traceSafe (.modGroup h))
    · exact h

theorem State.Good.advanceBatch {s : State} {id i} (h : s.Good) : (advanceBatch s id i).Good := .modBatch h

theorem State.Good.issueGroup {i b p} {body : BodyFn} {r : State × List (ℕ × Mask × TrapInfo)} (hbody : body.Keeps) (hr : r.1.Good) :
    (issueGroup i body b r p).1.Good := by
  fun_cases Machine.issueGroup i body b r p with
  | case1 => exact hr
  | case2 => exact .ite hr (.passSafe (.chargeWord hr))
  | case3 | case4 => exact .of_fst ‹_› (hbody _ _ _ _ (.ite hr (.passSafe (.chargeWord hr))))

theorem State.Good.trapGroup {s : State} {b p} (h : s.Good) : (trapGroup b s p).Good := by
  fun_cases Machine.trapGroup b s p with
  | case1 => exact .raiseTrap (.ite (.modGroup h) h)
  | case2 => exact h

theorem State.Good.countWord {s : State} {b i oks} (h : s.Good) : (countWord s b i oks).Good := by
  fun_cases Machine.countWord s b i oks with
  | case1 | case2 | case4 => exact h
  | case3 => exact .countEvent (.ite h (.profCount h))

theorem State.Good.blocked {s : State} {b} (h : s.Good) : (s.blocked b).Good := .frame h

theorem State.Good.noteIssue {s : State} {start b i} (h : s.Good) : (noteIssue start s b i).Good := by
  fun_cases Machine.noteIssue start s b i with
  | case1 | case2 => exact .modBatch h
  | case3 => exact .frame (.modBatch h)

theorem State.Good.runWordThen {s : State} {i ready bar fin} {body : BodyFn} (hbody : body.Keeps)
  (hfin : ∀ (s : State) x0, s.Good → (fin s x0).Good) (h : s.Good) :
    (runWordThen i ready bar body fin s).Good := by
  fun_cases Machine.runWordThen i ready bar body fin s with
  | case1 => exact h
  | case2 => exact .blocked h
  | case3 =>
    exact .unissue (.foldl (fun _ _ h3 => .raiseTrap h3) (hfin _ _
      (.noteIssue (.foldl_fst (fun _ _ h3 => .issueGroup hbody h3) (.countWord (.foldl (fun _ _ h3 => .trapGroup h3) (.tickBatch h)))))))

theorem State.Good.runWord {s : State} {i ready bar} {body : BodyFn} (hbody : body.Keeps) (h : s.Good) :
    (runWord i ready bar body s).Good := .runWordThen hbody (fun _ _ h2 => .advanceBatch h2) h

theorem State.Good.plainWord {s : State} {i} {body : BodyFn} (hbody : body.Keeps) (h : s.Good) : (plainWord i body s).Good :=
  .runWord hbody h

theorem State.Good.trapBatch {s : State} {b cause addr} (h : s.Good) : (trapBatch s b cause addr).Good :=
  .unissue (.foldl (fun _ _ h1 => .trapGroup h1) (.tickBatch h))

theorem State.Good.refusedWord {s : State} {b c} (h : s.Good) : (refusedWord s b c).Good :=
  .ite (.trapBatch (.countEvent (.fileFetch h))) (.trapBatch h)

theorem State.Good.fixedBody {s : State} {i fn b g present} (h : s.Good) : (fixedBody i fn s b g present).1.Good := by
  unfold Machine.fixedBody
  refine .ite_fst ?_ (.modGroup (.fresh h))
  split
  · exact .frame h
  · exact .modGroup (.frame h)

theorem State.Good.fixedWord {s : State} {i fn} (h : s.Good) : (fixedWord i fn s).Good := .plainWord (fun _ _ _ _ h1 => .fixedBody h1) h

theorem State.Good.launchFlight {s : State} {i kind ops b g} (h : s.Good) : (launchFlight i kind ops s b g).1.Good :=
  .ite_fst (.fst_mk (.fresh h)) (.modGroup (.fresh h))

theorem State.Good.lateBody {s : State} {i fn b g present} (h : s.Good) : (lateBody i fn s b g present).1.Good :=
  .fst_mk (.launchFlight h)

theorem State.Good.lateWord {s : State} {i fn} (h : s.Good) : (lateWord i fn s).Good := .plainWord (fun _ _ _ _ h1 => .lateBody h1) h

/-! ### Segment ends, FORK, loops, block barriers and predicates -/

theorem State.Good.endSegment {s : State} {succ b g present} (h : s.Good) : (endSegment succ s b g present).Good :=
  .foldl (fun _ _ h1 => .sendLanes h1) (.modGroup (.removeLanes (.endSegLanes h)))

theorem State.Good.callLink {s : State} {f b g present} (h : s.Good) : (callLink f s b g present).Good := .fixedBody h

theorem State.Good.tryReturn {s : State} {gid} (h : s.Good) : (tryReturn s gid).Good := by
  fun_cases Machine.tryReturn s gid with
  | case1 | case3 => exact h
  | case2 => exact .returnFromTrap h

theorem State.Good.quitBody {s : State} {b g present} (h : s.Good) : (quitBody s b g present).1.Good :=
  .tryReturn (.quitLanes (.modGroup h))

theorem State.Good.forkBody {s : State} {f b g present} (h : s.Good) : (forkBody f s b g present).1.Good :=
  .sendLanes (.modGroup (.fresh h))

theorem State.Good.skipSpent {s : State} {id} (h : s.Good) : (skipSpent s id).Good := by
  fun_cases Machine.skipSpent s id with
  | case1 | case2 | case4 | case5 | case6 => exact h
  | case3 => exact .modBatch h

theorem State.Good.loopFin {s : State} {f id} (h : s.Good) : (loopFin f s id).Good := by
  fun_cases Machine.loopFin f s id with
  | case1 => exact h
  | case2 => exact .skipSpent (.advanceBatch (.modBatch h))

theorem State.Good.passEnd {s : State} {id} (h : s.Good) : (passEnd s id).Good := by
  fun_cases Machine.passEnd s id with
  | case1 | case2 => exact h
  | case3 => exact .modBatch h

theorem State.Good.repFin {s : State} {f id} (h : s.Good) : (repFin f s id).Good := by
  fun_cases Machine.repFin f s id with
  | case1 | case2 => exact .advanceBatch h
  | case3 => exact .modBatch (.advanceBatch h)

theorem State.Good.leaveBatch {s : State} {b gid} (h : s.Good) : (leaveBatch s b gid).Good := by
  fun_cases Machine.leaveBatch s b gid with
  | case1 => exact .frame (.modGroup h)
  | case2 => exact h

theorem State.Good.arriveBlock {s : State} {i b g present} (h : s.Good) : (arriveBlock i s b g present).Good := by
  fun_cases Machine.arriveBlock i s b g present with
  | case1 => exact .recountBarriers (.modBlock (.modGroup (.foldl (fun _ _ h1 => .releaseAt h1) h)))
  | case2 => exact h

theorem State.Good.endBarWait {s : State} {idx seen g lanes} (h : s.Good) : (endBarWait idx seen s g lanes).Good :=
  .ite h (.modGroup (.foldl (fun _ _ h1 => .acquireAt h1) h))

theorem State.Good.barFin {s : State} {i phases b0 id} (h : s.Good) : (barFin i phases b0 s id).Good := by
  fun_cases Machine.barFin i phases b0 s id with
  | case1 => exact .advanceBatch h
  | case2 => exact .modBatch h
  | case3 => exact h

theorem State.Good.barBody {s : State} {i b g present} (h : s.Good) : (barBody i s b g present).1.Good := by
  fun_cases Machine.barBody i s b g present with
  | case1 => exact .fst_mk (.endBarWait h)
  | case2 => exact .arriveBlock h

theorem State.Good.barwBody {s : State} {i b g present} (h : s.Good) : (barwBody i s b g present).1.Good := by
  fun_cases Machine.barwBody i s b g present with
  | case1 => exact .fst_mk (.endBarWait h)
  | case2 => exact h

theorem State.Good.predBody {s : State} {i fn a3 g present} (h : s.Good) : (predBody i fn s a3 g present).1.Good := .modGroup (.fresh h)

theorem State.Good.voteBody {s : State} {f a2 g present} (h : s.Good) : (voteBody f s a2 g present).1.Good :=
  .ite_fst (.modGroup (.fresh h)) (.modGroup (.fresh h))

theorem State.Good.pmovBody {s : State} {f b g present} (h : s.Good) : (pmovBody f s b g present).1.Good :=
  .ite_fst (.modGroup (.fresh h)) (.fixedBody h)

/-! ### Suspension -/

theorem GoodSome.suspendGroup {s : State} {gid succ wait record} (h : s.Good) : GoodSome (suspendGroup s gid succ wait record) := by
  fun_cases Machine.suspendGroup s gid succ wait record with
  | case1 | case2 | case4 => exact .none
  | case3 =>
    exact .some (.endGroup (.moveUsers (.commitBlock
      (.frame (.modContext (.of_fst ‹_› (.engineWrite (.foldl (fun _ _ h1 => .releaseAt h1) (.modGroup (.endSegLanes h))))))))))

theorem GoodSome.trySuspend {s : State} {g seg succ wait} (h : s.Good) : GoodSome (trySuspend s g seg succ wait) := by
  fun_cases Machine.trySuspend s g seg succ wait with
  | case1 => exact .suspendGroup h
  | case2 | case3 => exact .none

theorem GoodSome.parkSuspend {s : State} {i b g lanes probe} (h : s.Good) : GoodSome (parkSuspend i s b g lanes probe) := by
  fun_cases Machine.parkSuspend i s b g lanes probe with
  | case1 => exact .none
  | case2 => exact .trySuspend (.foldl (fun _ _ h1 => .fibreFault h1) h)

/-! ### Loads, stores and atomics -/

theorem State.Good.watchWave {s : State} {b g m n} (h : s.Good) : (watchWave s b g m n).1.Good :=
  .ite_fst (.trigger h) (.ite_fst h (.ite_fst (.modGroup h) h))

theorem State.Good.watchEnd {s0 s : State} {b g uniform as ops} (hs : s.Good) : (watchEnd s0 s b g uniform as ops).1.Good := by
  fun_cases Machine.watchEnd s0 s b g uniform as ops with
  | case1 | case2 => exact hs
  | case3 => exact .watchWave hs

theorem State.Good.memBody {s : State} {i b g present} (h : s.Good) : (memBody i s b g present).1.Good := by
  fun_cases Machine.memBody i s b g present with
  | case1 =>
    refine .of_some ‹_› ?_
    split
    · exact .parkSuspend h
    · exact .none
  | case2 => exact .watchEnd (.drainStores (.launchFlight h))

theorem State.Good.memFin {s : State} {i b0 id} (h : s.Good) : (memFin i b0 s id).Good :=
  .foldl (fun _ _ h1 => .raiseHeld h1) (.advanceBatch h)

theorem State.Good.memWord {s : State} {i} (h : s.Good) : (memWord i s).Good :=
  .runWordThen (fun _ _ _ _ h1 => .memBody h1) (fun _ _ h1 => .memFin h1) h

/-! ### Fences, prefetches and the instruction cache -/

theorem State.Good.fenceLane {s : State} {kind sc g l} (h : s.Good) : (fenceLane kind sc g s l).Good :=
  .ite (.acquireAt (.ite (.releaseAt h) h)) (.ite (.releaseAt h) h)

theorem State.Good.fenceBody {s : State} {i a2 g present} (h : s.Good) : (fenceBody i s a2 g present).1.Good :=
  .foldl (fun _ _ h1 => .fenceLane h1) h

theorem State.Good.fenceroBody {s : State} {f b g present} (h : s.Good) : (fenceroBody f s b g present).1.Good :=
  .ite_fst h (.fenceBody (.grinderDrop h))

theorem State.Good.prefLine {s : State} {rm g lane line} (h : s.Good) : (prefLine rm g lane s line).Good := by
  unfold Machine.prefLine
  refine .ite h ?_
  split
  · exact .of_fst ‹_› (.portXl h)
  · exact .ite (.serveBlock (.ite (.of_fst ‹_› (.portXl h)) (.countEvent (.of_fst ‹_› (.portXl h)))))
      (.modCore (.serveBlock (.ite (.of_fst ‹_› (.portXl h)) (.countEvent (.of_fst ‹_› (.portXl h))))))

theorem State.Good.prefLane {s : State} {f g l va} (h : s.Good) : (prefLane f g s l va).Good :=
  .ite (.foldl (fun _ _ h1 => .prefLine h1) h) h

theorem State.Good.prefBody {s : State} {f b g present} (h : s.Good) : (prefBody f s b g present).1.Good :=
  .foldl (fun _ _ h1 => .prefLane h1) h

theorem State.Good.iprefBody {s : State} {f b g present} (h : s.Good) : (iprefBody f s b g present).1.Good := by
  fun_cases Machine.iprefBody f s b g present with
  | case1 | case2 => exact h
  | case3 => exact .modCore h

theorem State.Good.icacheFill {s : State} {core} (h : s.Good) : (icacheFill s core).Good := by
  fun_cases Machine.icacheFill s core with
  | case1 => exact h
  | case2 =>
    refine .countEvent (.modCore ?_)
    dsimp +zetaDelta only
    split
    · exact .chargeHome (.of_fst ‹_› (.portParts h))
    · exact h
  | case3 =>
    refine .modCore ?_
    dsimp +zetaDelta only
    split
    · exact .chargeHome (.of_fst ‹_› (.portParts h))
    · exact h

/-! ### Stream words -/

theorem State.Good.markRaised {s : State} {i gid lanes} (h : s.Good) : (markRaised i s gid lanes).Good := .modGroup h

theorem State.Good.streamWord {s : State} {i bar} {body : BodyFn} (hbody : body.Keeps) (h : s.Good) :
    (streamWord i bar body s).Good := .foldl (fun _ _ h2 => .ite (.markRaised h2) h2) (.runWord hbody h)

theorem State.Good.streamWatch {s : State} {i b g present} (h : s.Good) : (streamWatch i s b g present).1.Good := .watchEnd h

theorem State.Good.streamBody {s : State} {i fn b g present} (h : s.Good) : (streamBody i fn s b g present).1.Good :=
  .streamWatch (.modGroup (.fresh h))

theorem State.Good.sisectBody {s : State} {f b g present} (h : s.Good) : (sisectBody f s b g present).1.Good :=
  .ite_fst h (.streamWatch (.modGroup (.fresh h)))

theorem BodyFn.Keeps.stestBody {f} : BodyFn.Keeps (stestBody f) := fun _ _ _ _ h => .fixedBody h

theorem BodyFn.Keeps.smergeBody {f} : BodyFn.Keeps (smergeBody f) := fun _ _ _ _ h => .fixedBody h

theorem BodyFn.Keeps.sgetBody {f} : BodyFn.Keeps (sgetBody f) := fun _ _ _ _ h => .lateBody h

/-! ### Completion -/

theorem State.Good.lateResult {s : State} {gid seq lanes} (h : s.Good) : (lateResult s gid seq lanes).Good := by
  unfold Machine.lateResult
  refine .reapGroup (.raiseHeld ?_)
  split
  · exact .ite (.holdTrap (.completeLanes h)) (.raiseTrap (.completeLanes h))
  · exact .completeLanes h

theorem State.Good.writebackAll {s : State} {gid} (h : s.Good) : (writebackAll s gid).Good := by
  fun_cases Machine.writebackAll s gid with
  | case1 => exact h
  | case2 => exact .foldl (fun _ _ h1 => .writebackLine h1) h

theorem GoodNext.execPrivateLineWriteback {s : State} {gid line} (h : s.Good) : GoodNext (execPrivateLineWriteback gid line s) := by
  unfold Machine.execPrivateLineWriteback
  refine .next ?_
  split
  · exact .ite (.writebackLine h) h
  · exact h

/-! ### Error records -/

theorem State.Good.signalEvent {s : State} {ctx name n} (h : s.Good) : (signalEvent s ctx name n).Good := .modContext h

theorem State.Good.dropRecord {s : State} {ctx kind code addr} (h : s.Good) : (dropRecord s ctx kind code addr).Good := .frame h

theorem State.Good.recordFault {s : State} {ctx agent acc a4} (h : s.Good) : (recordFault s ctx agent acc a4).Good := by
  fun_cases Machine.recordFault s ctx agent acc a4 with
  | case1 => exact .fileFault h
  | case2 => exact h

theorem State.Good.errorRecord {s : State} {ctx kind code agent unit addr detail} (h : s.Good) :
    (errorRecord s ctx kind code agent unit addr detail).Good := by
  fun_cases Machine.errorRecord s ctx kind code agent unit addr detail with
  | case1 => exact h
  | case2 => exact .dropRecord h
  | case3 => exact .dropRecord (.recordFault (.of_fst ‹_› (.engineRead h)))
  | case4 => exact .dropRecord (.engineWrite (.of_fst ‹_› (.engineRead h)))
  | case5 => exact .dropRecord (.recordFault (.of_fst ‹_› (.engineWrite (.of_fst ‹_› (.engineRead h)))))
  | case6 => exact .signalEvent (.engineWrite (.of_fst ‹_› (.engineWrite (.of_fst ‹_› (.engineRead h)))))

/-! ### Queues -/

theorem State.Good.parkAt {s : State} {agent code ctx va acc np} (h : s.Good) : (parkAt s agent code ctx va acc np).Good :=
  .fileFault (.frame h)

theorem State.Good.parkRead {s : State} {agent code ctx va n} (h : s.Good) : (parkRead s agent code ctx va n).1.Good := by
  fun_cases Machine.parkRead s agent code ctx va n with
  | case1 => exact .frame h
  | case2 => exact h
  | case3 => exact .parkAt (.of_fst ‹_› (.engineRead h))
  | case4 => exact .engineRead h

theorem State.Good.parkWrite {s : State} {agent code ctx va bs} (h : s.Good) : (parkWrite s agent code ctx va bs).1.Good := by
  fun_cases Machine.parkWrite s agent code ctx va bs with
  | case1 => exact .frame h
  | case2 => exact h
  | case3 => exact .parkAt (.of_fst ‹_› (.engineWrite h))
  | case4 => exact .engineWrite h

theorem State.Good.modQueue {s : State} {ctx header f} (h : s.Good) : (s.modQueue ctx header f).Good := .frame h

theorem State.Good.canWrite {s : State} {agent code ctx va n} (h : s.Good) : (canWrite s agent code ctx va n).1.Good := by
  fun_cases Machine.canWrite s agent code ctx va n with
  | case1 | case3 | case4 => exact h
  | case2 => exact .parkAt h

theorem State.Good.canEnd {s : State} {q i} (h : s.Good) : (canEnd s q i).1.Good := by
  fun_cases Machine.canEnd s q i with
  | case1 => exact .of_fst ‹_› (.canWrite h)
  | case2 => exact .canWrite (.of_fst ‹_› (.canWrite h))

theorem State.Good.setStatus {s : State} {q i state err rsec} (h : s.Good) : (setStatus s q i state err rsec).Good := .parkWrite h

theorem State.Good.endPacket {s : State} {ctx header i state err rsec} (h : s.Good) :
    (endPacket s ctx header i state err rsec).Good := by
  fun_cases Machine.endPacket s ctx header i state err rsec with
  | case1 => exact h
  | case2 => exact .parkWrite (.modQueue (.setStatus h))

theorem State.Good.nextPacket {s : State} {q} (h : s.Good) : (nextPacket s q).1.Good := by
  fun_cases Machine.nextPacket s q with
  | case1 | case2 => exact .of_fst ‹_› (.parkRead h)
  | case3 => exact h

theorem State.Good.takeIndex {s : State} {q} (h : s.Good) : (takeIndex s q).Good := .modQueue h

/-! ### Acceptance of launches -/

theorem State.Good.tableWrite {s : State} {ctx va bs} (h : s.Good) : (tableWrite s ctx va bs).Good := by
  fun_cases Machine.tableWrite s ctx va bs with
  | case1 => exact .frame h
  | case2 => exact h
  | case3 => exact .parkAt (.of_fst ‹_› (.engineWrite h))
  | case4 => exact .of_fst ‹_› (.engineWrite h)

theorem State.Good.writeTable {s : State} {p} (h : s.Good) : (writeTable s p).Good :=
  .foldl (fun _ _ h1 => .tableWrite h1) (.foldl (fun _ _ h1 => .tableWrite (.tableWrite h1)) h)

theorem State.Good.modPipe {s : State} {pid f} (h : s.Good) : (s.modPipe pid f).Good := .frame h

theorem State.Good.claimPools {s : State} (h : s.Good) : (claimPools s).Good := by
  unfold Machine.claimPools
  refine .foldl (fun _ _ h1 => ?_) h
  split
  · exact h1
  · exact .ite h1 (.writeTable (.modPipe h1))

theorem State.Good.stageAccept {s : State} {l} (h : s.Good) : (stageAccept s l).1.Good := by
  fun_cases Machine.stageAccept s l with
  | case1 | case3 | case4 => exact h
  | case2 => exact .writeTable (.modPipe h)
  | case5 | case6 | case7 | case8 | case9 => exact .of_fst ‹_› (.parkRead h)
  | case10 => exact .claimPools (.writeTable (.frame (.of_snd ‹_› (.fresh (.of_fst ‹_› (.parkRead h))))))

theorem State.Good.acceptPacket {s : State} {ctx queue clsOk bs time task} (h : s.Good) :
    (acceptPacket s ctx queue clsOk bs time task).1.Good := by
  unfold Machine.acceptPacket
  refine .ite_fst h (.ite_fst (.frame (.fresh h)) ?_)
  split
  · exact .frame (.of_fst ‹_› (.stageAccept (.frame h)))
  · exact .frame (.of_fst ‹_› (.stageAccept (.frame h)))
  · exact .frame (.of_fst ‹_› (.stageAccept (.frame h)))

theorem State.Good.launchAccept {s : State} {ctx header} (h : s.Good) : (launchAccept s ctx header).Good := by
  fun_cases Machine.launchAccept s ctx header with
  | case1 | case2 => exact h
  | case3 => exact .of_fst ‹_› (.nextPacket h)
  | case4 => exact .of_fst ‹_› (.canEnd (.of_fst ‹_› (.nextPacket h)))
  | case5 => exact .of_fst ‹_› (.acceptPacket (.of_fst ‹_› (.canEnd (.of_fst ‹_› (.nextPacket h)))))
  | case6 => exact .endPacket (.takeIndex (.of_fst ‹_› (.acceptPacket (.of_fst ‹_› (.canEnd (.of_fst ‹_› (.nextPacket h)))))))
  | case7 => exact .setStatus (.takeIndex (.of_fst ‹_› (.acceptPacket (.of_fst ‹_› (.canEnd (.of_fst ‹_› (.nextPacket h)))))))

theorem State.Good.enterTask {s : State} {c time} (h : s.Good) : (enterTask s c time).Good := by
  unfold Machine.enterTask
  refine .ite h ?_
  split
  · exact .of_fst ‹_› (.acceptPacket h)
  · split
    · exact .frame (.of_fst ‹_› (.acceptPacket h))
    · exact .errorRecord (.frame (.of_fst ‹_› (.acceptPacket h)))

theorem State.Good.enterFired {s : State} (h : s.Good) : (enterFired s).Good := .foldl (fun _ _ h1 => .enterTask h1) h

theorem State.Good.fireCounter {s : State} {ctx name} (h : s.Good) : (fireCounter s ctx name).Good := by
  fun_cases Machine.fireCounter s ctx name with
  | case1 => exact .enterTask (.frame h)
  | case2 => exact .frame h

theorem State.Good.decCounter {s : State} {ctx name n} (h : s.Good) : (decCounter s ctx name n).Good := by
  fun_cases Machine.decCounter s ctx name n with
  | case1 => exact h
  | case2 => exact .fireCounter h
  | case3 => exact .frame h

/-! ### Range locks and engine storage -/

theorem State.Good.addLocks {s : State} {core ctx owner share rs} (h : s.Good) : (addLocks s core ctx owner share rs).Good :=
  .foldl (fun _ _ h1 => .modCore (.fresh h1)) h

theorem State.Good.shrinkLock {s : State} {core owner ptr} (h : s.Good) : (shrinkLock s core owner ptr).Good := .modCore h

theorem State.Good.dropLocksAll {s : State} {owner} (h : s.Good) : (dropLocksAll s owner).Good := .foldl (fun _ _ h1 => .dropLocks h1) h

theorem State.Good.modEngine {s : State} {bid f} (h : s.Good) : (s.modEngine bid f).Good := .modBlock h

/-! ### Copies -/

theorem State.Good.takeLocks {s : State} {ctx owner rs} (h : s.Good) : (takeLocks s ctx owner rs).Good :=
  .foldl (fun _ _ h1 => .addLocks h1) h

theorem State.Good.modChannel {s : State} {ctx clu chan f} (h : s.Good) : (s.modChannel ctx clu chan f).Good := .frame h

theorem State.Good.pushJob {s : State} {ctx clu chan j} (h : s.Good) : (pushJob s ctx clu chan j).Good := by
  fun_cases Machine.pushJob s ctx clu chan j with
  | case1 => exact .modChannel h
  | case2 => exact .frame h

theorem State.Good.failPacket {s : State} {ctx clu header index chan err rsec} (h : s.Good) :
    (failPacket s ctx clu header index chan err rsec).Good := by
  fun_cases Machine.failPacket s ctx clu header index chan err rsec with
  | case1 => exact h
  | case2 => exact .errorRecord (.endPacket (.dropLocksAll h))

theorem State.Good.readTdesc {s : State} {clu ctx bs} (h : s.Good) : (readTdesc s clu ctx bs).1.Good := .ite_fst (.engineRead h) h

theorem State.Good.cpeAccept {s : State} {ctx header} (h : s.Good) : (cpeAccept s ctx header).Good := by
  fun_cases Machine.cpeAccept s ctx header with
  | case1 | case2 => exact h
  | case3 => exact .of_fst ‹_› (.nextPacket h)
  | case4 => exact .of_fst ‹_› (.canEnd (.of_fst ‹_› (.nextPacket h)))
  | case5 => exact .failPacket (.takeIndex (.of_fst ‹_› (.canEnd (.of_fst ‹_› (.nextPacket h)))))
  | case6 | case7 =>
    exact .pushJob (.setStatus (.takeIndex (.of_fst ‹_› (.readTdesc (.of_fst ‹_› (.canEnd (.of_fst ‹_› (.nextPacket h))))))))
  | case8 | case9 | case10 =>
    exact .failPacket (.takeIndex (.of_fst ‹_› (.readTdesc (.of_fst ‹_› (.canEnd (.of_fst ‹_› (.nextPacket h)))))))
  | case11 => exact .of_fst ‹_› (.readTdesc (.of_fst ‹_› (.canEnd (.of_fst ‹_› (.nextPacket h)))))
  | case12 =>
    exact .pushJob (.setStatus (.takeIndex (.takeLocks (.of_fst ‹_› (.readTdesc (.of_fst ‹_› (.canEnd (.of_fst ‹_› (.nextPacket h)))))))))

theorem State.Good.channelStart {s : State} {ctx clu chan} (h : s.Good) : (channelStart s ctx clu chan).Good := .modChannel h

theorem State.Good.copyBytes {clu ctx bs td ps} {s : State} (h : s.Good) : (copyBytes clu ctx bs td ps s).1.Good := by
  fun_induction Machine.copyBytes clu ctx bs td ps s with
  | case1 => exact h
  | case2 =>
    refine .of_fst ‹_› ?_
    dsimp +zetaDelta only
    split
    · exact h
    · exact .engineRead h
  | case3 _ _ _ _ _ _ _ _ _ _ ih | case4 _ _ _ _ _ _ _ _ _ _ ih =>
    refine .of_fst ‹_› (ih (.of_fst ‹_ = (_, Except.ok _)› ?_))
    dsimp +zetaDelta only
    split
    · exact h
    · exact .engineRead h

theorem State.Good.copyStore {s : State} {clu ctx j off bs} (h : s.Good) : (copyStore s clu ctx j off bs).1.Good := by
  fun_cases Machine.copyStore s clu ctx j off bs with
  | case1 => exact .engineWrite h
  | case2 => exact .scratchStore h
  | case3 | case4 => exact .modEngine h
  | case5 => exact h

theorem State.Good.copyCharge {s : State} {ctx dsp n} (h : s.Good) : (copyCharge s ctx dsp n).Good := .countEvent (.ite h (.chargeCtx h))

theorem State.Good.putJob {s : State} {ctx clu chan j} (h : s.Good) : (putJob s ctx clu chan j).Good := .modChannel h

theorem State.Good.parkJob {s : State} {ctx clu chan j va acc np} (h : s.Good) : (parkJob s ctx clu chan j va acc np).Good := by
  fun_cases Machine.parkJob s ctx clu chan j va acc np with
  | case1 => exact h
  | case2 => exact .putJob (.setStatus (.fileFault h))

theorem State.Good.failJob {s : State} {ctx clu chan j err} (h : s.Good) : (failJob s ctx clu chan j err).Good := by
  fun_cases Machine.failJob s ctx clu chan j err with
  | case1 => exact .modChannel h
  | case2 => exact .of_fst ‹_› (.canEnd h)
  | case3 => exact .modChannel (.failPacket (.of_fst ‹_› (.canEnd h)))

theorem State.Good.knowJob {s : State} {ctx clu chan j} (h : s.Good) : (knowJob s ctx clu chan j).Good := by
  fun_cases Machine.knowJob s ctx clu chan j with
  | case1 => exact .parkJob (.of_fst ‹_› (.readTdesc h))
  | case2 | case6 => exact .of_fst ‹_› (.readTdesc h)
  | case3 | case4 | case5 => exact .failJob (.of_fst ‹_› (.readTdesc h))
  | case7 => exact .putJob (.takeLocks (.of_fst ‹_› (.readTdesc h)))

theorem State.Good.sectorJob {s : State} {ctx clu chan j} (h : s.Good) : (sectorJob s ctx clu chan j).Good := by
  fun_cases Machine.sectorJob s ctx clu chan j with
  | case1 => exact .parkJob (.of_fst ‹_› (.copyBytes h))
  | case2 => exact .of_fst ‹_› (.copyBytes h)
  | case3 => exact .failJob (.of_fst ‹_› (.copyBytes h))
  | case4 => exact .parkJob (.of_fst ‹_› (.copyStore (.of_fst ‹_› (.copyBytes h))))
  | case5 => exact .of_fst ‹_› (.copyStore (.of_fst ‹_› (.copyBytes h)))
  | case6 => exact .failJob (.of_fst ‹_› (.copyStore (.of_fst ‹_› (.copyBytes h))))
  | case7 =>
    refine .modChannel (.foldl (fun _ _ h1 => .shrinkLock h1) (.putJob ?_))
    dsimp +zetaDelta only
    split
    · exact .setStatus (.copyCharge (.of_fst ‹_› (.copyStore (.of_fst ‹_› (.copyBytes h)))))
    · exact .copyCharge (.of_fst ‹_› (.copyStore (.of_fst ‹_› (.copyBytes h))))
  | case8 =>
    refine .putJob ?_
    dsimp +zetaDelta only
    split
    · exact .setStatus (.copyCharge (.of_fst ‹_› (.copyStore (.of_fst ‹_› (.copyBytes h)))))
    · exact .copyCharge (.of_fst ‹_› (.copyStore (.of_fst ‹_› (.copyBytes h))))

theorem State.Good.copyDeliver {s : State} {ctx clu chan} (h : s.Good) : (copyDeliver s ctx clu chan).Good := by
  fun_cases Machine.copyDeliver s ctx clu chan with
  | case1 | case2 | case4 | case6 | case8 | case9 => exact h
  | case3 => exact .failJob h
  | case5 => exact .putJob (.setStatus h)
  | case7 => exact .knowJob h
  | case10 => exact .sectorJob h

theorem State.Good.copyPost {s : State} {ctx j} (h : s.Good) : (copyPost s ctx j).Good := by
  fun_cases Machine.copyPost s ctx j with
  | case1 =>
    refine .signalEvent (.ite ?_ h)
    split
    · exact .tbChange h
    · exact h
  | case2 =>
    refine .decCounter (.ite ?_ h)
    split
    · exact .tbChange h
    · exact h
  | case3 =>
    refine .ite ?_ h
    split
    · exact .tbChange h
    · exact h

theorem State.Good.copyComplete {s : State} {ctx clu chan} (h : s.Good) : (copyComplete s ctx clu chan).Good := by
  fun_cases Machine.copyComplete s ctx clu chan with
  | case1 | case2 | case3 => exact h
  | case4 => exact .of_fst ‹_› (.canEnd h)
  | case5 => exact .endPacket (.copyPost (.modChannel (.dropLocksAll (.of_fst ‹_› (.canEnd h)))))

/-! ### Lane words -/

theorem BodyFn.Keeps.exchBody {i} : BodyFn.Keeps (exchBody i) := fun _ _ _ _ h => .fixedBody h

theorem BodyFn.Keeps.qxchBody {i} : BodyFn.Keeps (qxchBody i) := fun _ _ _ _ h => .fixedBody h

theorem BodyFn.Keeps.ddxBody {i hi lo} : BodyFn.Keeps (ddxBody i hi lo) := fun _ _ _ _ h1 => .fixedBody h1

theorem BodyFn.Keeps.lreduceBody {i} : BodyFn.Keeps (lreduceBody i) := fun _ _ _ _ h => .fixedBody h

theorem BodyFn.Keeps.lscanBody {i} : BodyFn.Keeps (lscanBody i) := fun _ _ _ _ h => .fixedBody h

theorem BodyFn.Keeps.kgetBody {i} : BodyFn.Keeps (kgetBody i) := fun _ _ _ _ h => .fst_mk (.launchFlight h)

/-! ### QPUT, WPGET and the transaction barrier words -/

theorem State.Good.qputProbe {s : State} {g h0 bs} (h : s.Good) : (qputProbe s g h0 bs).1.Good := by
  fun_cases Machine.qputProbe s g h0 bs with
  | case1 | case2 => exact .of_fst ‹_› (.portXl h)
  | case3 => exact .ite_fst (.of_fst ‹_› (.portXl h)) (.of_fst ‹_› (.portXl h))
  | case4 | case5 => exact .of_fst ‹_› (.engineRead (.of_fst ‹_› (.portXl h)))
  | case6 =>
    exact .ite_fst (.of_fst ‹_› (.engineRead (.of_fst ‹_› (.portXl h)))) (.of_fst ‹_› (.engineRead (.of_fst ‹_› (.portXl h))))

theorem State.Good.qputClaim {s : State} {g h0 bs} (h : s.Good) : (qputClaim s g h0 bs).1.Good := by
  fun_cases Machine.qputClaim s g h0 bs with
  | case1 | case2 => exact .of_fst ‹_› (.qputProbe h)
  | case3 => exact .modQueue (.takeLocks (.commitBlock (.writeTarget (.settleAt (.of_fst ‹_› (.qputProbe h))))))

theorem State.Good.qputPublish {s : State} {g lane sc h0 i bs} (h : s.Good) : (qputPublish s g lane sc h0 i bs).1.Good := by
  fun_cases Machine.qputPublish s g lane sc h0 i bs with
  | case1 => exact h
  | case2 | case3 => exact .of_fst ‹_› (.engineRead h)
  | case4 | case5 => exact .of_fst ‹_› (.engineWrite (.releaseAt (.of_fst ‹_› (.engineRead h))))

theorem State.Good.holdLane {s : State} {g fl lane e acc} (h : s.Good) : (holdLane s g fl lane e acc).Good := by
  unfold Machine.holdLane
  refine .modGroup ?_
  split
  · exact .fibreFault h
  · exact h

theorem GoodSome.qputLane {s : State} {g fl o} (h : s.Good) : GoodSome (qputLane s g fl o) := by
  fun_cases Machine.qputLane s g fl o with
  | case1 | case2 | case3 | case4 | case7 | case8 | case9 => exact .none
  | case5 => exact .some (.holdLane (.of_fst ‹_› (.qputClaim h)))
  | case6 => exact .some (.modGroup (.shareBlock (.of_fst ‹_› (.qputClaim h))))
  | case10 => exact .some (.holdLane (.of_fst ‹_› (.qputPublish h)))
  | case11 => exact .some (.modGroup (.shareBlock (.of_fst ‹_› (.qputPublish h))))

theorem State.Good.qputClaims {s : State} {gid seq lanes} (h : s.Good) : (qputClaims s gid seq lanes).Good := by
  unfold Machine.qputClaims
  refine .foldl (fun _ _ h1 => ?_) h
  split
  · exact h1
  · split
    · exact h1
    · split
      · exact .getD (.qputLane h1) h1
      · exact h1

theorem State.Good.qputBody {s : State} {i b g present} (h : s.Good) : (qputBody i s b g present).1.Good := by
  fun_cases Machine.qputBody i s b g present with
  | case1 => exact .of_some ‹_› (.parkSuspend h)
  | case2 => exact .watchEnd (.qputClaims (.launchFlight h))

theorem State.Good.qputStep {s : State} {gid seq} (h : s.Good) : (qputStep s gid seq).Good := by
  fun_cases Machine.qputStep s gid seq with
  | case1 | case2 | case4 => exact h
  | case3 => exact .reapGroup (.raiseHeld (.of_some ‹_› (.findSome (fun _ => .qputLane h))))

theorem State.Good.qputSweep {s : State} {gid} (h : s.Good) : (qputSweep s gid).Good := by
  fun_cases Machine.qputSweep s gid with
  | case1 => exact h
  | case2 => exact .foldl (fun _ _ h1 => .qputClaims h1) h

theorem State.Good.wpgetBody {s : State} {i b g present} (h : s.Good) : (wpgetBody i s b g present).1.Good := .fst_mk (.launchFlight h)

theorem State.Good.tbHold {s : State} {i b g ops} (h : s.Good) : (tbHold i s b g ops).Good := .modGroup (.launchFlight h)

theorem State.Good.tbBody {s : State} {i rd step b g present}
  (hstep : ∀ (s : State) x0 x1 x2 x3 x4 x5, s.Good → (step s x0 x1 x2 x3 x4 x5).Good) (h : s.Good) :
    (tbBody i rd step s b g present).1.Good := .watchEnd (.tbHold (.foldl (fun _ _ h2 => hstep _ _ _ _ _ _ _ h2) h))

theorem State.Good.tbInit {s : State} {g a2 bid off arr bytes} (h : s.Good) : (tbInit s g a2 bid off arr bytes).Good :=
  .commitOther (.endTbWaits (.tbWrite h))

theorem State.Good.tbwaitBody {s : State} {i b g present} (h : s.Good) : (tbwaitBody i s b g present).1.Good := by
  fun_cases Machine.tbwaitBody i s b g present with
  | case1 => exact h
  | case2 => exact .watchEnd (.tbHold (.foldl (fun _ _ h1 => .ite h1 (.acquireAt h1)) h))

theorem State.Good.tbwaitFin {s : State} {i b0 id} (h : s.Good) : (tbwaitFin i b0 s id).Good := by
  fun_cases Machine.tbwaitFin i b0 s id with
  | case1 => exact .memFin h
  | case2 => exact .modBatch h

/-! ### Scene bytecode -/

theorem State.Good.poolAt {s : State} {x i n} {rd : Rd} (hrd : rd.Keeps) (h : s.Good) : (poolAt rd x i n s).1.Good := by
  unfold Machine.poolAt
  refine .ite_fst h ?_
  split <;> exact .of_fst ‹_› (hrd _ _ _ h)

theorem State.Good.withPool {s : State} {x i n k} {rd : Rd} (hrd : rd.Keeps) (h : s.Good) : (withPool rd x i n s k).1.Good := by
  fun_cases Machine.withPool rd x i n s k <;> exact .of_fst ‹_› (.poolAt hrd h)

theorem State.Good.brickRange {s : State} {m b} {rd : Rd} (hrd : rd.Keeps) (h : s.Good) : (brickRange rd m b s).1.Good := by
  fun_cases Machine.brickRange rd m b s with
  | case1 | case2 => exact .of_fst ‹_› (.brickAt hrd h)
  | case3 | case4 => exact .of_fst ‹_› (hrd _ _ _ (.of_fst ‹_› (.brickAt hrd h)))

theorem State.Good.brickIv {s : State} {m box} {rd : Rd} (hrd : rd.Keeps) (h : s.Good) : (brickIv rd m box s).1.Good := by
  fun_cases Machine.brickIv rd m box s with
  | case1 | case2 | case3 | case4 | case5 => exact h
  | case6 | case7 => exact .of_fst ‹_› (.readEach (fun _ _ h2 => .brickRange hrd h2) h)

theorem State.Good.netIv {s : State} {rec box} {rd : Rd} (hrd : rd.Keeps) (h : s.Good) : (netIv rd rec box s).1.Good := by
  fun_cases Machine.netIv rd rec box s with
  | case1 | case2 => exact .of_fst ‹_› (hrd _ _ _ h)
  | case3 | case4 => exact .of_fst ‹_› (hrd _ _ _ (.of_fst ‹_› (hrd _ _ _ h)))

theorem State.Good.evOp {s : State} {x op arg e} {rd : Rd} (hrd : rd.Keeps) (h : s.Good) : (evOp rd x op arg e s).1.Good := by
  fun_cases Machine.evOp rd x op arg e s with
  | case1 | case16 | case24 | case25 | case26 => exact .withPool hrd h
  | case2 | case3 | case4 | case5 | case6 | case7 | case8 | case9 | case10 | case11 | case12 | case13 | case14 | case15 | case17 | case18
  | case19 | case20 | case21 | case22 | case23 | case27 | case30 | case31 | case32 | case38 | case43 | case44 | case45 | case46 | case47
  | case48 | case49 | case50 =>
    exact h
  | case28 | case29 | case33 | case39 => exact .of_fst ‹_› (hrd _ _ _ h)
  | case34 | case35 => exact .of_fst ‹_› (hrd _ _ _ (.of_fst ‹_› (hrd _ _ _ h)))
  | case36 | case37 => exact .of_fst ‹_› (.brickIv hrd (.of_fst ‹_› (hrd _ _ _ (.of_fst ‹_› (hrd _ _ _ h)))))
  | case40 | case41 | case42 => exact .of_fst ‹_› (.netIv hrd (.of_fst ‹_› (hrd _ _ _ h)))

theorem State.Good.evCode {s : State} {x c e} {rd : Rd} (hrd : rd.Keeps) (h : s.Good) : (evCode rd x c e s).1.Good := by
  unfold Machine.evCode
  refine .ite_fst h (.ite_fst ?_ (.evOp hrd h))
  split <;> exact h

theorem State.Good.evGo {fetch rd x fuel pc e} {s : State} (hfetch : ∀ n (s : State), s.Good → (fetch n s).1.Good) (hrd : Rd.Keeps rd)
    (h : s.Good) : (evGo fetch rd x fuel pc e s).1.Good := by
  fun_induction Machine.evGo fetch rd x fuel pc e s with
  | case1 => exact h
  | case2 => exact .of_fst ‹_› (hfetch _ _ h)
  | case3 _ _ _ _ _ _ _ _ _ _ ih => exact ih (.of_fst ‹_› (.evCode hrd (.of_fst ‹_› (hfetch _ _ h))))
  | case4 => exact .evCode hrd (.of_fst ‹_› (hfetch _ _ h))

theorem State.Good.pruneGo {fetch rd x fuel pc e p seen} {s : State} (hfetch : ∀ n (s : State), s.Good → (fetch n s).1.Good)
    (hrd : Rd.Keeps rd) (h : s.Good) : (pruneGo fetch rd x fuel pc e p seen s).1.Good := by
  fun_induction Machine.pruneGo fetch rd x fuel pc e p seen s with
  | case1 => exact h
  | case2 => exact .of_fst ‹_› (hfetch _ _ h)
  | case3 _ _ _ _ _ _ _ _ _ _ _ _ _ _ _ _ _ ih =>
    exact ih (.of_fst ‹_› (.ite_fst (.fst_mk (.of_fst ‹_› (hfetch _ _ h))) (.evCode hrd (.of_fst ‹_› (hfetch _ _ h)))))
  | case4 | case5 | case6 | case7 =>
    exact .of_fst ‹_› (.ite_fst (.fst_mk (.of_fst ‹_› (hfetch _ _ h))) (.evCode hrd (.of_fst ‹_› (hfetch _ _ h))))

theorem State.Good.pruneBox {s : State} {fetch x box} {rd : Rd} (hfetch : ∀ x0 (s : State), s.Good → (fetch x0 s).1.Good) (hrd : rd.Keeps)
  (h : s.Good) :
    (pruneBox fetch rd x box s).1.Good := .pruneGo (fun _ _ h3 => hfetch _ _ h3) hrd h

/-! ### Stages, tasks and events -/

theorem State.Good.claimTail {s : State} {pid qi} (h : s.Good) : (claimTail s pid qi).1.Good := by
  fun_cases Machine.claimTail s pid qi with
  | case1 => exact h
  | case2 => exact .modPipe h

theorem State.Good.enqBody {s : State} {i b g present} (h : s.Good) : (enqBody i s b g present).1.Good := by
  fun_cases Machine.enqBody i s b g present with
  | case1 => exact .of_some ‹_› (.parkSuspend h)
  | case2 => exact .watchEnd (.drainStores (.launchFlight (.modPipe (.foldl_fst (fun _ _ h1 => .fst_mk (.claimTail h1)) h))))
  | case3 => exact h

theorem State.Good.enterLeave {s : State} {i w b0 id} (h : s.Good) : (enterLeave i w b0 s id).Good := by
  fun_cases Machine.enterLeave i w b0 s id with
  | case1 => exact .foldl (fun _ _ h1 => .raiseHeld h1) (.advanceBatch h)
  | case2 => exact .modBatch h
  | case3 => exact h

theorem State.Good.enqLeave {s : State} {batch gid} (h : s.Good) : (enqLeave batch s gid).Good := by
  fun_cases Machine.enqLeave batch s gid with
  | case1 | case2 | case3 | case5 | case6 => exact h
  | case4 => exact .getD (.trySuspend h) h

theorem State.Good.enqSuspend {s : State} {batch} (h : s.Good) : (enqSuspend s batch).Good := .foldl (fun _ _ h1 => .enqLeave h1) h

theorem State.Good.deqBody {s : State} {i b g present} (h : s.Good) : (deqBody i s b g present).1.Good := by
  fun_cases Machine.deqBody i s b g present with
  | case1 => exact .watchEnd h
  | case2 => exact .modGroup (.launchFlight h)
  | case3 => exact h

theorem State.Good.recordBytes {s : State} {g q i} (h : s.Good) : (recordBytes s g q i).1.Good := .shareBlock (.engineRead h)

theorem State.Good.readRecords {g q is} {s : State} (h : s.Good) : (readRecords g q is s).1.Good := by
  fun_induction Machine.readRecords g q is s with
  | case1 => exact h
  | case2 => exact .of_fst ‹_› (.recordBytes h)
  | case3 _ _ _ _ _ _ _ _ _ ih => exact .of_fst ‹_› (ih (.of_fst ‹_› (.recordBytes h)))
  | case4 _ _ _ _ _ _ _ _ _ ih => exact .of_fst ‹_› (ih (.of_fst ‹_› (.recordBytes h)))

theorem State.Good.useQuads {s : State} {gid pid q taken} (h : s.Good) : (useQuads s gid pid q taken).Good := .ite h (.frame h)

theorem State.Good.endDeqs {s : State} {gid} (h : s.Good) : (endDeqs s gid).Good := .endGroup (.modGroup h)

theorem State.Good.noteTaken {s : State} {g batch pid q head cl} (h : s.Good) : (noteTaken s g batch pid q head cl).Good := by
  fun_cases Machine.noteTaken s g batch pid q head cl with
  | case1 => exact h
  | case2 => exact .modBatch h

theorem GoodSome.deqPark {s : State} {g fl va np} (h : s.Good) : GoodSome (deqPark s g fl va np) := by
  fun_cases Machine.deqPark s g fl va np with
  | case1 | case3 => exact .none
  | case2 => exact .trySuspend (.fibreFault (.modGroup h))

theorem State.Good.deqGive {s : State} {pid q x} (h : s.Good) : (deqGive pid q s x).Good :=
  .quitLanes (.foldl (fun _ _ h1 => .acquireAt h1) (.noteTaken (.useQuads (.modGroup h))))

theorem State.Good.deqTake {s : State} {g fl} (h : s.Good) : (deqTake s g fl).Good := by
  fun_cases Machine.deqTake s g fl with
  | case1 | case4 => exact .endDeqs h
  | case2 | case3 | case5 | case6 => exact h
  | case7 =>
    exact .getD (.deqPark (.of_fst ‹_› (.readRecords h))) (.raiseHeld (.modGroup (.fibreFault (.of_fst ‹_› (.readRecords h)))))
  | case8 => exact .raiseHeld (.modGroup (.of_fst ‹_› (.readRecords h)))
  | case9 => exact .foldl (fun _ _ h1 => .deqGive h1) (.modPipe (.of_fst ‹_› (.readRecords h)))

theorem GoodSome.deqStep {s : State} {gid seq} (h : s.Good) : GoodSome (deqStep s gid seq) := by
  fun_cases Machine.deqStep s gid seq with
  | case1 | case3 => exact .none
  | case2 => exact .some (.ite (.deqTake h) h)

theorem State.Good.evsigBody {s : State} {i b g present} (h : s.Good) : (evsigBody i s b g present).1.Good :=
  .foldl (fun _ _ h1 => .signalEvent (.commitBlock (.releaseAt h1))) h

theorem State.Good.evwaitBody {s : State} {i b g present} (h : s.Good) : (evwaitBody i s b g present).1.Good :=
  .ite_fst (.foldl (fun _ _ h1 => .acquireAt h1) h) h

theorem State.Good.evRelease {s : State} {batch} (h : s.Good) : (evRelease s batch).Good := by
  fun_cases Machine.evRelease s batch with
  | case1 | case3 | case4 => exact h
  | case2 => exact .modBatch h

theorem State.Good.evLeave {s : State} {batch gid} (h : s.Good) : (evLeave batch s gid).Good := by
  fun_cases Machine.evLeave batch s gid with
  | case1 | case2 | case4 | case5 => exact h
  | case3 => exact .getD (.trySuspend h) h

theorem State.Good.evSuspend {s : State} {batch} (h : s.Good) : (evSuspend s batch).Good := .foldl (fun _ _ h1 => .evLeave h1) h

theorem State.Good.suspendBody {s : State} {i b g present} (h : s.Good) : (suspendBody i s b g present).1.Good := by
  unfold Machine.suspendBody
  refine .ite_fst h ?_
  split
  · exact h
  · split
    · exact .fibreFault h
    · exact .getD (.suspendGroup h) h

theorem State.Good.spawnBody {s : State} {i b g present} (h : s.Good) : (spawnBody i s b g present).1.Good :=
  .foldl (fun _ _ h1 => .ite (.fireCounter (.frame (.commitBlock h1))) (.frame (.commitBlock h1))) h

theorem State.Good.dcdecBody {s : State} {i b g present} (h : s.Good) : (dcdecBody i s b g present).1.Good :=
  .foldl (fun _ _ h1 => .decCounter (.commitBlock (.releaseAt h1))) h

/-! ### System words -/

theorem State.Good.trapBody {s : State} {f b g present} (h : s.Good) : (trapBody f s b g present).1.Good := h

theorem State.Good.rftBody {s : State} {b g present} (h : s.Good) : (rftBody s b g present).1.Good :=
  .tryReturn (.removeLanes (.modGroup (.foldl (fun _ _ h1 => .acquireAt (.releaseAt h1)) h)))

theorem State.Good.sreadBody {s : State} {i b g present} (h : s.Good) : (sreadBody i s b g present).1.Good := .fst_mk (.launchFlight h)

theorem State.Good.swriteBody {s : State} {i b g present} (h : s.Good) : (swriteBody i s b g present).1.Good := by
  fun_cases Machine.swriteBody i s b g present with
  | case1 | case5 => exact h
  | case2 => exact .modGroup (.of_snd ‹_› (.fresh h))
  | case3 => exact .modGroup h
  | case4 => exact .modContext h

theorem State.Good.erdBody {s : State} {i b g present} (h : s.Good) : (erdBody i s b g present).1.Good := .fst_mk (.launchFlight h)

theorem State.Good.brkBody {s : State} {f b g present} (h : s.Good) : (brkBody f s b g present).1.Good :=
  .ite_fst h (.ite_fst (.trigger h) h)

theorem State.Good.dbgmbBody {s : State} {i b g present} (h : s.Good) : (dbgmbBody i s b g present).1.Good := .modContext (.frame h)

theorem State.Good.pmcapBody {s : State} {i kind b g present} (h : s.Good) : (pmcapBody i kind s b g present).1.Good := by
  fun_cases Machine.pmcapBody i kind s b g present with
  | case1 => exact .modGroup (.ite (.traceRec h) h)
  | case2 => exact h

/-! ### PUBLISH -/

theorem State.Good.performFrames {s : State} {frames} (h : s.Good) : (performFrames s frames).Good :=
  .foldl (fun _ _ h1 => .performSome h1) h

theorem State.Good.sealAll {s : State} {frames} (h : s.Good) : (sealAll s frames).Good := .frame (.performFrames h)

theorem State.Good.icacheDrop {s : State} {ctx va n} (h : s.Good) : (icacheDrop s ctx va n).Good := .frame h

theorem State.Good.unsealAll {s : State} {frames} (h : s.Good) : (unsealAll s frames).Good := .frame h

theorem State.Good.purgeRetired {s : State} (h : s.Good) : (purgeRetired s).Good := .frame h

theorem State.Good.registerObj {s : State} {slot o} (h : s.Good) : (registerObj s slot o).1.Good := .frame h

theorem State.Good.pubReport {s : State} {g op code detail kd} (h : s.Good) : (pubReport s g op code detail kd).1.Good := by
  fun_cases Machine.pubReport s g op code detail kd <;> exact .of_fst ‹_› (.engineWrite h)

theorem State.Good.pubFail {s : State} {g op code detail} (h : s.Good) : (pubFail s g op code detail).1.Good := .pubReport (.unsealAll h)

theorem State.Good.pubRetire {s : State} {g op bs} (h : s.Good) : (pubRetire s g op bs).1.Good := by
  fun_cases Machine.pubRetire s g op bs with
  | case1 | case2 => exact .pubFail h
  | case3 | case4 | case5 => exact h
  | case6 => exact .pubReport (.purgeRetired (.frame h))

theorem State.Good.pubLoad {s : State} {g op bs} (h : s.Good) : (pubLoad s g op bs).1.Good := by
  have h1 : (Machine.engineRead s g.core g.ctx (rqImage bs) (rqSize bs)).1.Good := .engineRead h
  unfold Machine.pubLoad
  split
  · exact .of_fst ‹_› h1
  · exact .of_fst ‹_› h1
  · exact .pubFail (.of_fst ‹_› h1)
  · next s1 img e =>
    replace h1 : s1.Good := .of_fst e h1
    split
    · exact .pubFail h1
    · exact .pubFail h1
    · extract_lets s2
      have h2 : s2.Good := .purgeRetired h1
      clear_value s2
      split
      · exact .pubFail h2
      · split
        · exact h2
        · exact h2
        · exact .pubFail h2
        · exact h2
        · exact h2
        · exact .pubFail h2
        · exact .pubReport (.commitBlock (.registerObj (.icacheDrop (.icacheDrop (.ite h2 (.engineWrite h2))))))

theorem State.Good.askedBad {s : State} {g bs} (h : s.Good) : (askedBad s g bs).1.Good := by
  fun_cases Machine.askedBad s g bs with
  | case1 | case2 => exact .of_fst ‹_› (.engineReadN h)
  | case3 | case4 | case5 => exact .of_fst ‹_› (.engineRead (.of_fst ‹_› (.engineReadN h)))

theorem State.Good.pubPlace {s : State} {g c op bs} (h : s.Good) : (pubPlace s g c op bs).1.Good := by
  fun_cases Machine.pubPlace s g c op bs with
  | case1 | case2 | case5 | case7 => exact .of_fst ‹_› (.askedBad h)
  | case3 | case4 | case6 => exact .pubFail (.of_fst ‹_› (.askedBad h))
  | case8 => exact .pubLoad (.ite (.sealAll (.of_fst ‹_› (.askedBad h))) (.performFrames (.of_fst ‹_› (.askedBad h))))

theorem State.Good.pubFence {s : State} {g lanes} (h : s.Good) : (pubFence s g lanes).Good :=
  .foldl (fun _ _ h1 => .acquireAt (.releaseAt h1)) h

theorem State.Good.pubTry {s : State} {g lanes op} (h : s.Good) : (pubTry s g lanes op).1.Good := by
  unfold Machine.pubTry
  refine .ite_fst (.pubReport h) ?_
  split
  · split
    · dsimp +zetaDelta only
      split
      · exact .ite_fst (.pubPlace (.fresh (.pubFence h))) (.pubLoad (.fresh (.pubFence h)))
      · split
        · exact .of_fst ‹_› (.engineRead (.fresh (.pubFence h)))
        · exact .of_fst ‹_› (.engineRead (.fresh (.pubFence h)))
        · exact .pubFail (.of_fst ‹_› (.engineRead (.fresh (.pubFence h))))
        · exact .ite_fst (.pubFail (.of_fst ‹_› (.engineRead (.fresh (.pubFence h))))) (.ite_fst
            (.pubRetire (.of_fst ‹_› (.engineRead (.fresh (.pubFence h))))) (.pubPlace (.of_fst ‹_› (.engineRead (.fresh (.pubFence h))))))
      · exact .fst_mk (.fresh (.pubFence h))
    · dsimp +zetaDelta only
      split
      · exact .ite_fst (.pubPlace (.pubFence h)) (.pubLoad (.pubFence h))
      · split
        · exact .of_fst ‹_› (.engineRead (.pubFence h))
        · exact .of_fst ‹_› (.engineRead (.pubFence h))
        · exact .pubFail (.of_fst ‹_› (.engineRead (.pubFence h)))
        · exact .ite_fst (.pubFail (.of_fst ‹_› (.engineRead (.pubFence h))))
            (.ite_fst (.pubRetire (.of_fst ‹_› (.engineRead (.pubFence h)))) (.pubPlace (.of_fst ‹_› (.engineRead (.pubFence h)))))
      · exact .pubFence h
  · split
    · dsimp +zetaDelta only
      split
      · exact .ite_fst (.pubPlace (.fresh h)) (.pubLoad (.fresh h))
      · split
        · exact .of_fst ‹_› (.engineRead (.fresh h))
        · exact .of_fst ‹_› (.engineRead (.fresh h))
        · exact .pubFail (.of_fst ‹_› (.engineRead (.fresh h)))
        · exact .ite_fst (.pubFail (.of_fst ‹_› (.engineRead (.fresh h))))
            (.ite_fst (.pubRetire (.of_fst ‹_› (.engineRead (.fresh h)))) (.pubPlace (.of_fst ‹_› (.engineRead (.fresh h)))))
      · exact .fst_mk (.fresh h)
    · dsimp +zetaDelta only
      split
      · exact .ite_fst (.pubPlace h) (.pubLoad h)
      · split
        · exact .of_fst ‹_› (.engineRead h)
        · exact .of_fst ‹_› (.engineRead h)
        · exact .pubFail (.of_fst ‹_› (.engineRead h))
        · exact .ite_fst (.pubFail (.of_fst ‹_› (.engineRead h)))
            (.ite_fst (.pubRetire (.of_fst ‹_› (.engineRead h))) (.pubPlace (.of_fst ‹_› (.engineRead h))))
      · exact h

theorem State.Good.pubAfter {g fl lane} {r : State × LaneOp × PubEnd} (hr : r.1.Good) : (pubAfter g fl lane r).Good := by
  fun_cases Machine.pubAfter g fl lane r with
  | case1 => exact .reapGroup (.modGroup hr)
  | case2 => exact .modGroup (.fibreFault hr)
  | case3 => exact .modGroup hr

theorem GoodSome.publishStep {s : State} {gid seq} (h : s.Good) : GoodSome (publishStep s gid seq) := by
  fun_cases Machine.publishStep s gid seq with
  | case1 | case2 => exact .none
  | case3 | case5 => exact .some h
  | case4 => exact .some (.pubAfter (.shareBlock (.pubTry h)))
  | case6 => exact .some (.modGroup h)
  | case7 => exact .some (.pubAfter (.unsealAll h))
  | case8 => exact .some (.pubAfter (.pubFail h))

theorem State.Good.unsealFlights {s : State} {g} (h : s.Good) : (unsealFlights s g).Good := by
  unfold Machine.unsealFlights
  refine .modGroup (.foldl (fun _ _ h1 => ?_) h)
  split
  · exact .unsealAll h1
  · exact h1

theorem State.Good.publishBody {s : State} {i b g present} (h : s.Good) : (publishBody i s b g present).1.Good := by
  fun_cases Machine.publishBody i s b g present with
  | case1 => exact h
  | case2 => exact .fst_mk (.launchFlight (.pubFence h))

/-! ### The marcher -/

theorem State.Good.jobRead {s : State} {core ctx gid lane va n} (h : s.Good) : (jobRead s core ctx gid lane va n).1.Good := by
  fun_cases Machine.jobRead s core ctx gid lane va n with
  | case1 | case2 => exact .of_fst ‹_› (.portParts h)
  | case3 | case4 => exact .performSome (.chargeHome (.of_fst ‹_› (.portParts h)))

theorem Rd.Keeps.jobRd {core ctx gid lane} : Rd.Keeps (jobRd core ctx gid lane) := fun _ _ _ h => .jobRead h

theorem State.Good.engineRmw {s : State} {core ctx va acc f} (h : s.Good) : (engineRmw s core ctx va acc f).1.Good := by
  fun_cases Machine.engineRmw s core ctx va acc f with
  | case1 | case2 | case3 => exact .of_fst ‹_› (.portParts h)
  | case4 => exact .settleAt (.of_fst ‹_› (.portParts h))
  | case5 => exact .writeTarget (.serveCtx (.settleAt (.of_fst ‹_› (.portParts h))))
  | case6 => exact .serveCtx (.settleAt (.of_fst ‹_› (.portParts h)))

theorem State.Good.codeFetch {s : State} {x bid i} {rd : Rd} (hrd : rd.Keeps) (h : s.Good) : (codeFetch rd x bid i s).1.Good := by
  fun_cases Machine.codeFetch rd x bid i s <;> exact .of_fst ‹_› (.ite_fst h (hrd _ _ _ h))

theorem State.Good.takeJobLock {s : State} {core ctx owner r} (h : s.Good) : (takeJobLock s core ctx owner r).Good :=
  .ite (.modCore h) (.addLocks h)

theorem State.Good.dropJobLock {s : State} {core ctx r} (h : s.Good) : (dropJobLock s core ctx r).Good := .modCore h

theorem State.Good.putRay {s : State} {core j} (h : s.Good) : (putRay s core j).Good := .modCore h

theorem State.Good.holdJob {s : State} {j va} (h : s.Good) : (holdJob s j va).Good := by
  fun_cases Machine.holdJob s j va with
  | case1 => exact h
  | case2 => exact .modGroup h

theorem State.Good.rayError {s : State} {core j acc e} (h : s.Good) : (rayError s core j acc e).Good := by
  fun_cases Machine.rayError s core j acc e with
  | case1 =>
    refine .holdJob (.putRay ?_)
    dsimp +zetaDelta only
    split
    · exact .fibreFault h
    · exact .fileFault h
  | case2 => exact .putRay h
  | case3 => exact .putRay (.errorRecord h)

theorem State.Good.rayName {s : State} {core j} (h : s.Good) : (rayName s core j).Good := .ite (.putRay (.takeJobLock h)) h

theorem State.Good.rayIntake {s : State} {core j} (h : s.Good) : (rayIntake s core j).Good := by
  unfold Machine.rayIntake
  refine .ite (.rayName h) (.ite h ?_)
  split
  · exact .rayError (.of_fst ‹_› (.jobRead h))
  · exact .ite (.putRay (.of_fst ‹_› (.jobRead h))) (.ite h (.putRay (.takeJobLock (.of_fst ‹_› (.jobRead h)))))

theorem State.Good.startJob {s : State} {i b g op} (h : s.Good) : (startJob i b g s op).Good :=
  .ite h (.ite (.rayIntake (.rayName (.modCore h))) (.modCore h))

theorem State.Good.marchBody {s : State} {i b g present} (h : s.Good) : (marchBody i s b g present).1.Good :=
  .foldl (fun _ _ h1 => .startJob h1) (.launchFlight (.foldl_fst (fun _ _ h1 => .fst_mk (.fresh h1)) h))

theorem State.Good.engineAppend {s t : State} {core ctx gid lane p q bs r} (e : engineAppend s core ctx gid lane p q bs = some (t, r))
    (h : s.Good) : t.Good := by
  revert e
  fun_cases Machine.engineAppend s core ctx gid lane p q bs <;> rintro ⟨⟩
  · exact .of_fst ‹_› (.engineWrite (.releaseAt h))
  · exact .modPipe (.of_fst ‹_› (.engineWrite (.releaseAt h)))

theorem State.Good.rayAsk {s : State} {core j x n xyz} (h : s.Good) : (rayAsk s core j x n xyz).Good := by
  fun_cases Machine.rayAsk s core j x n xyz with
  | case1 => exact .putRay h
  | case2 => exact .putRay (.of_snd ‹_› (.fresh h))
  | case3 => exact .rayError (.engineAppend ‹_› (.of_snd ‹_› (.fresh h)))
  | case4 => exact .putRay (.commitBlock (.engineAppend ‹_› (.of_snd ‹_› (.fresh h))))

theorem State.Good.rayEval {s : State} {core j x} (h : s.Good) : (rayEval s core j x).Good := by
  fun_cases Machine.rayEval s core j x with
  | case1 | case4 =>
    exact .putRay (.of_fst ‹_› (.evGo (fun _ _ h1 => .codeFetch .jobRd h1) .jobRd (.of_fst ‹_› (.ite_fst h (.countEvent (.chargeCtx h))))))
  | case2 =>
    exact .rayAsk (.of_fst ‹_› (.evGo (fun _ _ h1 => .codeFetch .jobRd h1) .jobRd (.of_fst ‹_› (.ite_fst h (.countEvent (.chargeCtx h))))))
  | case3 =>
    exact .rayError (.of_fst ‹_›
      (.evGo (fun _ _ h1 => .codeFetch .jobRd h1) .jobRd (.of_fst ‹_› (.ite_fst h (.countEvent (.chargeCtx h))))))

theorem State.Good.freeJob {s : State} {core j} (h : s.Good) : (freeJob s core j).Good := by
  unfold Machine.freeJob
  refine .modCore ?_
  split
  · exact .dropJobLock (.ite (.dropJobLock h) h)
  · exact .ite (.dropJobLock h) h

theorem State.Good.rayUnpark {s : State} {core j va} (h : s.Good) : (rayUnpark s core j va).Good :=
  .ite h (.ite (.holdJob (.putRay (.errorRecord h))) (.holdJob (.putRay h)))

theorem State.Good.raySpan {s : State} {core j} (h : s.Good) : (raySpan s core j).Good := by
  fun_cases Machine.raySpan s core j with
  | case1 => exact .rayIntake h
  | case2 => exact h
  | case3 => exact .putRay h
  | case4 => exact .rayEval h

theorem State.Good.rayAgain {s : State} {core j k} (h : s.Good) : (rayAgain s core j k).Good := by
  fun_cases Machine.rayAgain s core j k with
  | case1 => exact h
  | case2 => exact .raiseHeld (.modGroup h)
  | case3 => exact .modCore (.freeJob h)

theorem State.Good.raySpanEval {s : State} {core slot} (h : s.Good) : (raySpanEval s core slot).Good := by
  fun_cases Machine.raySpanEval s core slot with
  | case1 | case2 | case6 => exact h
  | case3 => exact .freeJob h
  | case4 => exact .rayAgain h
  | case5 => exact .rayUnpark h
  | case7 => exact .raySpan h

theorem State.Good.opaqueReply {s : State} {core slot} (h : s.Good) : (opaqueReply s core slot).Good := by
  fun_cases Machine.opaqueReply s core slot with
  | case1 | case2 | case6 => exact h
  | case3 => exact .rayError (.of_fst ‹_› (.jobRead h))
  | case4 => exact .of_fst ‹_› (.jobRead h)
  | case5 => exact .putRay (.of_fst ‹_› (.jobRead h))

theorem State.Good.depthUpdate {s : State} {core j t} (h : s.Good) : (depthUpdate s core j t).1.Good := by
  fun_cases Machine.depthUpdate s core j t with
  | case1 => exact .of_fst ‹_› (.engineRmw h)
  | case2 => exact .commitBlock (.of_fst ‹_› (.engineRmw h))
  | case3 => exact h

theorem State.Good.rayFinish {s : State} {core j t status} (h : s.Good) : (rayFinish s core j t status).Good := by
  fun_cases Machine.rayFinish s core j t status with
  | case1 => exact .freeJob h
  | case2 => exact .reapGroup (.acquireAt (.modGroup (.freeJob h)))

theorem State.Good.rayJobEnd {s : State} {core slot} (h : s.Good) : (rayJobEnd s core slot).Good := by
  fun_cases Machine.rayJobEnd s core slot with
  | case1 | case2 | case6 => exact h
  | case3 => exact .rayFinish h
  | case4 => exact .rayFinish (.of_fst ‹_› (.depthUpdate h))
  | case5 => exact .rayError (.of_fst ‹_› (.depthUpdate h))

theorem State.Good.pruneDesc {s : State} {g lane scene} (h : s.Good) : (pruneDesc s g lane scene).1.Good := by
  fun_cases Machine.pruneDesc s g lane scene with
  | case1 => exact .of_fst ‹_› (.jobRead h)
  | case2 => exact h

theorem State.Good.pruneBody {s0 s : State} {i b g present} (hs : s.Good) : (pruneBody i s0 s b g present).1.Good := by
  fun_cases Machine.pruneBody i s0 s b g present with
  | case1 => exact hs
  | case2 =>
    refine .fst_mk (.launchFlight ?_)
    dsimp +zetaDelta only
    split
    · exact .addLocks (.pruneDesc (.of_snd ‹_› (.fresh hs)))
    · exact .pruneDesc (.of_snd ‹_› (.fresh hs))

theorem State.Good.pruneTry {s : State} {g op} (h : s.Good) : (pruneTry s g op).1.Good := by
  unfold Machine.pruneTry
  refine .ite_fst ?_ (.ite_fst h (.ite_fst h (.ite_fst h (.ite_fst h ?_))))
  · split <;> exact .of_fst ‹_› (.jobRead h)
  · split
    · exact .of_fst ‹_› (.pruneBox (fun _ _ h1 => .codeFetch .jobRd h1) .jobRd h)
    · exact .of_fst ‹_› (.pruneBox (fun _ _ h1 => .codeFetch .jobRd h1) .jobRd h)
    · exact .scratchStore (.of_fst ‹_› (.pruneBox (fun _ _ h1 => .codeFetch .jobRd h1) .jobRd h))

theorem GoodSome.pruneStep? {s : State} {gid seq} (h : s.Good) : GoodSome (pruneStep? s gid seq) := by
  fun_cases Machine.pruneStep? s gid seq with
  | case1 | case2 => exact .none
  | case3 | case8 | case13 => exact .some h
  | case4 => exact .some (.ite h (.modGroup h))
  | case5 => exact .some (.ite h (.reapGroup (.dropLocks (.modGroup (.errorRecord h)))))
  | case6 => exact .some (.reapGroup (.dropLocks (.modGroup (.of_fst ‹_› (.pruneTry h)))))
  | case7 => exact .some (.modGroup (.fibreFault (.of_fst ‹_› (.pruneTry h))))
  | case9 => exact .some (.reapGroup (.dropLocks (.modGroup (.errorRecord (.of_fst ‹_› (.pruneTry h))))))
  | case10 => exact .some (.raiseHeld (.modGroup (.of_fst ‹_› (.pruneTry h))))
  | case11 => exact .some (.modGroup (.of_fst ‹_› (.pruneTry h)))
  | case12 => exact .some (.modGroup (.addLocks (.of_snd ‹_› (.fresh (.of_fst ‹_› (.pruneTry h))))))

/-! ### Admission, continuations and completion -/

theorem State.Good.updateReserved {s : State} (h : s.Good) : (updateReserved s).Good := by
  unfold Machine.updateReserved
  refine .foldl (fun _ _ h1 => .ite h1 ?_) (.ite (.frame h) h)
  split
  · exact .modCore h1
  · exact h1

theorem State.Good.enterCore {s : State} {l core} (h : s.Good) : (enterCore s l core).Good :=
  .frame (.modCore (.ite h (.modLaunch (.grinderDrop h))))

theorem State.Good.addGroup {s : State} {g} (h : s.Good) : (addGroup s g).Good := .ite (.frame h) (.modContext (.frame h))

theorem State.Good.admitFresh {s : State} {l id core} (h : s.Good) : (admitFresh s l id core).Good := by
  fun_cases Machine.admitFresh s l id core with
  | case1 | case3 => exact h
  | case2 =>
    exact .foldl (fun _ _ h1 => .foldl (fun _ _ h2 => .acqDraws h2) (.addGroup (.fresh h1)))
      (.modLaunch (.frame (.of_snd ‹_› (.fresh (.enterCore h)))))

theorem State.Good.admitSaved {s : State} {l bid core} (h : s.Good) : (admitSaved s l bid core).Good := by
  fun_cases Machine.admitSaved s l bid core with
  | case1 | case2 => exact h
  | case3 => exact .frame (.enterCore h)

theorem State.Good.goOn {s : State} {g} (h : s.Good) : (goOn s g).Good :=
  .ite (.modGroup (.modGroup h)) (.ite (.restartGroup (.modGroup h)) (.modGroup h))

theorem State.Good.startFinish {s : State} {ctx} (h : s.Good) : (startFinish s ctx).Good := by
  fun_cases Machine.startFinish s ctx with
  | case1 | case3 => exact h
  | case2 =>
    exact .modContext (.foldl (fun _ _ h1 => .goOn h1) (.frame (.foldl (fun _ _ h1 => .modCore h1) (.foldl (fun _ _ h1 => .modCore h1) h))))

theorem State.Good.startsFinish {s : State} (h : s.Good) : (startsFinish s).Good := .foldl (fun _ _ h1 => .startFinish h1) h

theorem State.Good.blockAdmit {s0 : State} (h : s0.Good) : (blockAdmit s0).Good := by
  fun_cases Machine.blockAdmit s0 with
  | case1 => exact .admitFresh (.updateReserved h)
  | case2 | case4 => exact .updateReserved h
  | case3 => exact .startFinish (.admitSaved (.updateReserved h))
  | case5 => exact .startsFinish (.updateReserved h)

theorem State.Good.carveOutChange {s : State} {core} (h : s.Good) : (carveOutChange s core).Good := by
  fun_cases Machine.carveOutChange s core with
  | case1 | case3 => exact h
  | case2 => exact .modCore (.foldl (fun _ _ h1 => .writebackAll h1) h)

theorem State.Good.continuationResume {s : State} {ctx record} (h : s.Good) : (continuationResume s ctx record).Good := by
  fun_cases Machine.continuationResume s ctx record with
  | case1 | case5 | case6 => exact h
  | case2 =>
    exact .foldl (fun _ _ h1 => .acquireAt h1) (.moveUsers
      (.addGroup (.modContext (.frame (.of_snd ‹_› (.fresh (.of_snd ‹_› (.fresh (.enterCore (.of_fst ‹_› (.parkRead h)))))))))))
  | case3 =>
    exact .moveUsers (.addGroup
      (.modContext (.frame (.of_snd ‹_› (.fresh (.of_snd ‹_› (.fresh (.enterCore (.of_fst ‹_› (.parkRead h))))))))))
  | case4 => exact .of_fst ‹_› (.parkRead h)

theorem State.Good.performLaunch {s : State} {lid} (h : s.Good) : (performLaunch s lid).Good := .foldl (fun _ _ h1 => .performSome h1) h

theorem State.Good.launchComplete {s : State} {lid} (h : s.Good) : (launchComplete s lid).Good := by
  fun_cases Machine.launchComplete s lid with
  | case1 | case2 => exact h
  | case3 =>
    dsimp +zetaDelta only
    split
    · split
      · exact .canEnd h
      · exact h
    · exact h
  | case4 =>
    refine .enterFired (.purgeRetired (.frame ?_))
    dsimp +zetaDelta only
    split
    · refine .frame ?_
      split
      · refine .endPacket (.ite (.signalEvent (.performLaunch ?_)) (.performLaunch ?_))
        · split
          · split
            · exact .canEnd h
            · exact h
          · exact h
        · split
          · split
            · exact .canEnd h
            · exact h
          · exact h
      · exact .ite (.signalEvent (.performLaunch h)) (.performLaunch h)
    · split
      · refine .endPacket (.ite (.signalEvent (.performLaunch ?_)) (.performLaunch ?_))
        · split
          · split
            · exact .canEnd h
            · exact h
          · exact h
        · split
          · split
            · exact .canEnd h
            · exact h
          · exact h
      · exact .ite (.signalEvent (.performLaunch h)) (.performLaunch h)

theorem State.Good.balancingRoundEnd {s : State} (h : s.Good) : (balancingRoundEnd s).Good :=
  .ite h (.foldl (fun _ _ h1 => .writeTable h1) (.frame (.frame h)))

theorem State.Good.stageEnd {s : State} {pid n} (h : s.Good) : (stageEnd s pid n).Good := by
  fun_cases Machine.stageEnd s pid n with
  | case1 | case2 | case3 => exact h
  | case4 =>
    exact .enterFired (.claimPools
      (.frame (.foldl (fun _ _ h1 => .foldl (fun _ _ h2 => .getD (.deqStep h2) h2) h1) (.writeTable (.modPipe h)))))
  | case5 => exact .foldl (fun _ _ h1 => .foldl (fun _ _ h2 => .getD (.deqStep h2) h2) h1) (.writeTable (.modPipe h))

/-! ### The schedulers and the clock -/

theorem State.Good.takeUnits {s : State} {core sched us} (h : s.Good) : (takeUnits s core sched us).1.Good := by
  fun_cases Machine.takeUnits s core sched us with
  | case1 => exact h
  | case2 => exact .frame (.foldl (fun _ _ h1 => .modGroup h1) (.of_snd ‹_› (.fresh h)))

theorem State.Good.batchForm {s : State} {core sched} (h : s.Good) : (batchForm s core sched).Good := .ite (.takeUnits h) h

theorem State.Good.breakStop {s : State} {b n ord g} (h : s.Good) : (breakStop s b n ord g).Good :=
  .ite (.trigger (.modBatch h)) (.foldl (fun _ _ h1 => .raiseTrap h1) (.modBatch h))

theorem State.Good.issueBatch {s : State} {core sched b} (h : s.Good) : (issueBatch s core sched b).Good := by
  fun_cases Machine.issueBatch s core sched b with
  | case1 => exact .breakStop h
  | case2 => exact .frame h

theorem State.Good.starvedIssue {s : State} {core sched} (h : s.Good) : (starvedIssue s core sched).Good := by
  fun_cases Machine.starvedIssue s core sched with
  | case1 => exact .issueBatch (.takeUnits h)
  | case2 => exact .takeUnits h
  | case3 => exact h

theorem State.Good.profTag {s : State} {core sched} (h : s.Good) : (profTag s core sched).Good := by
  fun_cases Machine.profTag s core sched with
  | case1 | case2 | case3 => exact h
  | case4 => exact .traceRec (.frame h)
  | case5 => exact .frame h

theorem State.Good.batchIssue {s : State} {core sched} (h : s.Good) : (batchIssue s core sched).Good := by
  unfold Machine.batchIssue
  refine .ite h ?_
  split
  · exact h
  · exact .issueBatch h

theorem State.Good.refreshEntries {s : State} (h : s.Good) : (refreshEntries s).Good := .ite h (.frame h)

theorem State.Good.tickClock {s : State} (h : s.Good) : (tickClock s).Good := by
  unfold Machine.tickClock
  refine .takeNews (.frame (.refreshEntries (.foldl (fun _ _ h1 => ?_) ?_)))
  · split
    · exact .countEvent h1
    · exact h1
  · split
    · exact .countEvent (.modContext h)
    · exact h

/-! ### The host's accesses and commands -/

theorem State.Good.pageWalk {s : State} {ctx va acc} (h : s.Good) : (pageWalk s ctx va acc).Good := by
  fun_cases Machine.pageWalk s ctx va acc with
  | case1 => exact h
  | case2 => exact .fileFault (.of_fst ‹_› (.translate h))
  | case3 => exact .of_fst ‹_› (.translate h)

theorem State.Good.trapTake {s : State} {gid} (h : s.Good) : (trapTake s gid).Good := by
  fun_cases Machine.trapTake s gid with
  | case1 | case2 | case4 | case6 => exact h
  | case3 => exact .tryReturn h
  | case5 => exact .takeOrWave h

theorem State.Good.sealedWrite {s : State} {ctx pa} (h : s.Good) : (sealedWrite s ctx pa).Good := .frame h

theorem State.Good.bar2Write {s : State} {pa bs} (h : s.Good) : (bar2Write s pa bs).Good :=
  .foldl (fun _ _ h1 => .ite (.sealedWrite h1) (.writePa h1)) h

theorem State.Good.hostAtomic {s : State} {op pa size a b} (h : s.Good) : (hostAtomic s op pa size a b).Good := by
  unfold Machine.hostAtomic
  refine .ite h ?_
  dsimp +zetaDelta only
  split
  · exact .frame h
  · exact .ite (.sealedWrite (.frame h)) (.writePa (.frame h))

theorem State.Good.respond {s : State} {job m} (h : s.Good) : (respond s job m).Good := .ite (.frame h) (.frame h)

theorem State.Good.peerPerform {s : State} {r parts} (h : s.Good) : (peerPerform s r parts).1.Good := by
  fun_cases Machine.peerPerform s r parts with
  | case1 | case2 | case4 | case5 | case7 | case8 => exact h
  | case3 | case6 | case9 => exact .foldl (fun _ _ h1 => .writeTarget h1) h

theorem State.Good.answerPeer {s : State} {r m} (h : s.Good) : (answerPeer s r m).Good := .ite (.frame h) (.respond h)

theorem State.Good.peerServe {s : State} {r} (h : s.Good) : (peerServe s r).Good := by
  fun_cases Machine.peerServe s r with
  | case1 => exact .answerPeer h
  | case2 => exact .answerPeer (.sealedWrite h)
  | case3 => exact .frame (.fileFault (.of_fst ‹_› (.portParts h)))
  | case4 => exact .frame (.of_fst ‹_› (.portParts h))
  | case5 => exact .answerPeer (.of_fst ‹_› (.portParts h))
  | case6 => exact .answerPeer (.peerPerform (.of_fst ‹_› (.portParts h)))

theorem State.Good.peerRequest {s : State} {r} (h : s.Good) : (peerRequest s r).Good := by
  unfold Machine.peerRequest
  refine .ite h ?_
  split
  · exact .ite (.peerServe h) (.frame h)
  · exact .peerServe h

theorem State.Good.writeCommand {s : State} {off v} (h : s.Good) : (writeCommand s off v).Good :=
  .ite (.frame h) (.ite (.frame h) (.ite (.frame h) (.ite (.frame h) (.ite (.frame h) (.frame h)))))

theorem State.Good.registerWrite {s : State} {off v} (h : s.Good) : (registerWrite s off v).Good :=
  .ite h (.ite (.ite (.frame h) h) (.ite (.frame h) (.ite (.frame h) (.ite (.writeCommand h) (.ite (.frame h) (.ite (.frame h) h))))))

theorem State.Good.cmdEnd {s : State} {r} (h : s.Good) : (cmdEnd s r).Good := .frame h

theorem State.Good.commandDone {s : State} (h : s.Good) : (commandDone s).Good := by
  fun_cases Machine.commandDone s with
  | case1 | case2 => exact h
  | case3 => exact .frame h

theorem State.Good.ctxCreate {s : State} (h : s.Good) : (ctxCreate s).Good := by
  fun_cases Machine.ctxCreate s with
  | case1 => exact h
  | case2 | case3 | case4 => exact .cmdEnd h
  | case5 => exact .cmdEnd (.frame h)

theorem State.Good.performContext {s : State} {ctx} (h : s.Good) : (performContext s ctx).Good := .foldl (fun _ _ h1 => .performSome h1) h

theorem State.Good.dropContext {s : State} {c} (h : s.Good) : (dropContext s c).Good :=
  .frame (.foldl (fun _ _ h1 => .frame h1) (.performContext h))

theorem State.Good.ctxDestroy {s : State} (h : s.Good) : (ctxDestroy s).Good := by
  fun_cases Machine.ctxDestroy s with
  | case1 => exact h
  | case2 => exact .cmdEnd h
  | case3 => exact .enterFired (.claimPools (.cmdEnd (.dropContext h)))

theorem State.Good.queueReg {s : State} (h : s.Good) : (queueReg s).Good := by
  fun_cases Machine.queueReg s with
  | case1 => exact h
  | case2 | case3 => exact .cmdEnd h
  | case4 => exact .cmdEnd (.fileFault (.of_fst ‹_› (.engineRead h)))
  | case5 => exact .of_fst ‹_› (.engineRead h)
  | case6 | case8 => exact .cmdEnd (.of_fst ‹_› (.engineRead h))
  | case7 => exact .cmdEnd (.frame (.of_fst ‹_› (.engineRead h)))

theorem State.Good.queueBind {s : State} (h : s.Good) : (queueBind s).Good := by
  fun_cases Machine.queueBind s with
  | case1 => exact h
  | case2 | case3 | case5 => exact .cmdEnd h
  | case4 => exact .cmdEnd (.modQueue h)

theorem State.Good.queueUnreg {s : State} (h : s.Good) : (queueUnreg s).Good := by
  fun_cases Machine.queueUnreg s with
  | case1 => exact h
  | case2 => exact .cmdEnd h
  | case3 => exact .cmdEnd (.frame h)
  | case4 => exact .modQueue h

theorem State.Good.tlbInval {s : State} (h : s.Good) : (tlbInval s).Good := by
  fun_cases Machine.tlbInval s with
  | case1 => exact h
  | case2 => exact .cmdEnd h
  | case3 => exact .cmdEnd (.frame (.foldl (fun _ _ h1 => .performSome h1) h))

theorem State.Good.closeRecord {s : State} {r} (h : s.Good) : (closeRecord s r).Good := .frame h

theorem State.Good.releaseWords {s : State} {r fail} (h : s.Good) : (releaseWords s r fail).Good := .frame h

theorem State.Good.releasePeers {s : State} {c page serve} (h : s.Good) (hserve : ∀ (s : State) x0, s.Good → (serve s x0).Good) :
    (releasePeers s c page serve).Good := .foldl (fun _ _ h2 => hserve _ _ h2) (.frame h)

theorem State.Good.tablesAgain {s : State} {r held} (h : s.Good) : (tablesAgain s r held).Good :=
  .ite (.foldl (fun _ _ h2 => .writeTable h2) h) h

theorem State.Good.faultResume {s : State} (h : s.Good) : (faultResume s).Good := by
  fun_cases Machine.faultResume s with
  | case1 => exact h
  | case2 => exact .cmdEnd h
  | case3 =>
    refine .cmdEnd (.enterFired ?_)
    dsimp +zetaDelta only
    split
    · exact .releasePeers (.tablesAgain (.frame (.releaseWords (.closeRecord h)))) (fun _ _ h1 => .peerServe h1)
    · exact .tablesAgain (.frame (.releaseWords (.closeRecord h)))

theorem State.Good.failJobs {s : State} {r} (h : s.Good) : (failJobs s r).Good := .frame h

theorem State.Good.raiseAll {s : State} {ctx} (h : s.Good) : (raiseAll s ctx).Good := .foldl (fun _ _ h1 => .raiseHeld h1) h

theorem State.Good.faultFail {s : State} (h : s.Good) : (faultFail s).Good := by
  fun_cases Machine.faultFail s with
  | case1 => exact h
  | case2 => exact .cmdEnd h
  | case3 =>
    refine .cmdEnd (.enterFired (.raiseAll ?_))
    dsimp +zetaDelta only
    split
    · exact .releasePeers (.failJobs (.releaseWords (.closeRecord h))) (fun _ _ h1 => .answerPeer h1)
    · exact .failJobs (.releaseWords (.closeRecord h))

theorem State.Good.sealFrames {s : State} (h : s.Good) : (sealFrames s).Good := by
  fun_cases Machine.sealFrames s with
  | case1 => exact h
  | case2 => exact .cmdEnd h
  | case3 => exact .cmdEnd (.sealAll h)

theorem State.Good.icacheDropFrames {s : State} {frames} (h : s.Good) : (icacheDropFrames s frames).Good := .frame h

theorem State.Good.unsealFrames {s : State} (h : s.Good) : (unsealFrames s).Good := by
  fun_cases Machine.unsealFrames s with
  | case1 => exact h
  | case2 => exact .cmdEnd h
  | case3 => exact .cmdEnd (.unsealAll (.icacheDropFrames h))

theorem State.Good.setBudget {s : State} (h : s.Good) : (setBudget s).Good := by
  fun_cases Machine.setBudget s with
  | case1 => exact h
  | case2 => exact .cmdEnd h
  | case3 => exact .cmdEnd (.frame h)

/-! ### The MSQ and the matrix engine -/

theorem State.Good.carryAt {s : State} {g e fl b} (h : s.Good) : (carryAt s g e fl b).Good :=
  .raiseTrap (.modGroup (.frame (.modBatch (.fresh h))))

theorem State.Good.carryFault {s : State} {bid} (h : s.Good) : (carryFault s bid).Good := by
  unfold Machine.carryFault
  refine .foldl (fun _ _ h1 => ?_) h
  split
  · split
    · exact .carryAt h1
    · exact h1
  · exact h1

theorem State.Good.msqFault {s : State} {bid c woff} (h : s.Good) : (msqFault s bid c woff).Good := .carryFault (.modEngine h)

theorem State.Good.msqFetch {s : State} {blk e} (h : s.Good) : (msqFetch s blk e).1.Good := by
  fun_cases Machine.msqFetch s blk e with
  | case1 | case2 => exact h
  | case3 | case4 => exact .of_fst ‹_› (.fetchVa h)

theorem State.Good.msqFileFetch {s : State} {blk e c} (h : s.Good) : (msqFileFetch s blk e c).Good := by
  fun_cases Machine.msqFileFetch s blk e c with
  | case1 => exact .countEvent (.fileFetch h)
  | case2 => exact h

theorem State.Good.msqFetchStep {s : State} {bid} (h : s.Good) : (msqFetchStep s bid).Good := by
  fun_cases Machine.msqFetchStep s bid with
  | case1 | case4 => exact h
  | case2 => exact .msqFault (.msqFileFetch (.of_fst ‹_› (.msqFetch h)))
  | case3 => exact .frame (.of_fst ‹_› (.msqFetch h))

theorem State.Good.msqWord {s : State} {act} (hact : ∀ (s : State) blk e, s.Good → GoodOk (act s blk e)) (h : s.Good) :
    (msqWord s act).Good := by
  fun_cases Machine.msqWord s act with
  | case1 => exact h
  | case2 => exact .unissue (.of_ok ‹_› (hact _ _ _ (.modEngine h)))
  | case3 => exact .unissue (.msqFault h)

theorem State.Good.msqLaunch {s : State} {i xs blk e} (h : s.Good) : (msqLaunch i xs s blk e).Good := .modEngine (.addLocks (.fresh h))

theorem State.Good.mbarTurn {s : State} {bid n} (h : s.Good) : (mbarTurn s bid n).Good := by
  fun_cases Machine.mbarTurn s bid n with
  | case1 | case3 => exact h
  | case2 => exact .modEngine (.frame h)

theorem State.Good.mloopPassEnd {s : State} {bid} (h : s.Good) : (mloopPassEnd s bid).Good := by
  fun_cases Machine.mloopPassEnd s bid with
  | case1 | case2 | case3 => exact h
  | case4 => exact .modEngine h

theorem State.Good.endMatOp {s : State} {blk seq} (h : s.Good) : (endMatOp s blk seq).Good := .modEngine (.dropLocks h)

theorem State.Good.poisonMatOp {s : State} {blk e o} (h : s.Good) : (poisonMatOp s blk e o).Good :=
  .msqFault (.modEngine (.foldl (fun _ _ h1 => .endMatOp h1) (.modEngine h)))

theorem State.Good.doMzero {s : State} {blk lo n} (h : s.Good) : (doMzero s blk lo n).Good := .modEngine h

theorem GoodSome.doMbload {s : State} {blk x ob} (h : s.Good) : GoodSome (doMbload s blk x ob) := by
  fun_cases Machine.doMbload s blk x ob with
  | case1 => exact .none
  | case2 => exact .some (.modEngine (.chargeCtx h))

theorem GoodSome.doMstore {s : State} {blk e x ce ob} (h : s.Good) : GoodSome (doMstore s blk e x ce ob) := by
  fun_cases Machine.doMstore s blk e x ce ob with
  | case1 => exact .none
  | case2 => exact .some (.scratchStore (.chargeCtx h))

theorem State.Good.matOpStep {s : State} {bid seq} (h : s.Good) : (matOpStep s bid seq).Good := by
  fun_cases Machine.matOpStep s bid seq with
  | case1 | case2 | case3 | case4 => exact h
  | case5 => exact .endMatOp (.doMzero (.chargeCtx (.modEngine h)))
  | case6 => exact .endMatOp (.of_some ‹_› (.doMbload (.modEngine h)))
  | case7 | case8 | case12 => exact .poisonMatOp (.modEngine h)
  | case9 => exact .endMatOp (.modEngine (.countEvent (.chargeCtx (.modEngine h))))
  | case10 => exact .modEngine (.countEvent (.chargeCtx (.modEngine h)))
  | case11 => exact .endMatOp (.of_some ‹_› (.doMstore (.modEngine h)))
  | case13 => exact .endMatOp (.modEngine h)

/-! ### The raster unit -/

theorem State.Good.vertexIndex {s : State} {d n} {rd : Rd} (hrd : rd.Keeps) (h : s.Good) : (vertexIndex rd d n s).1.Good := by
  unfold Machine.vertexIndex
  refine .ite_fst h ?_
  split <;> exact .of_fst ‹_› (hrd _ _ _ h)

theorem State.Good.drawRanges {s : State} {d} {rd : Rd} (hrd : rd.Keeps) (h : s.Good) : (drawRanges rd d s).1.Good := by
  unfold Machine.drawRanges
  refine .ite_fst h (.ite_fst h ?_)
  split <;> exact .of_fst ‹_› (.readEach (fun _ _ h2 => .vertexIndex hrd h2) h)

theorem State.Good.rdrawBody {s : State} {i b g a4} (h : s.Good) : (rdrawBody i s b g a4).1.Good := by
  fun_cases Machine.rdrawBody i s b g a4 with
  | case1 => exact h
  | case2 =>
    refine .frame ?_
    dsimp +zetaDelta only
    split
    · exact .frame (.addLocks (.of_snd ‹_› (.fresh h)))
    · exact .frame (.of_snd ‹_› (.fresh h))

theorem State.Good.vertexAt {s : State} {d i} {rd : Rd} (hrd : rd.Keeps) (h : s.Good) : (vertexAt rd d i s).1.Good := by
  fun_cases Machine.vertexAt rd d i s <;> exact .of_fst ‹_› (hrd _ _ _ h)

theorem State.Good.depthPixels {d core ctx ps} {s : State} (h : s.Good) : (depthPixels d core ctx ps s).1.Good := by
  fun_induction Machine.depthPixels d core ctx ps s with
  | case1 => exact h
  | case2 => exact .of_fst ‹_› (.engineRmw h)
  | case3 _ _ _ _ _ _ _ _ _ _ _ _ _ ih => exact .of_fst ‹_› (ih (.of_fst ‹_› (.engineRmw h)))
  | case4 _ _ _ _ _ _ _ _ _ _ _ _ _ ih => exact .of_fst ‹_› (ih (.of_fst ‹_› (.engineRmw h)))

theorem State.Good.drawTriangle {s : State} {d core ctx tri} {rd : Rd} (hrd : rd.Keeps) (h : s.Good) :
    (drawTriangle d rd core ctx tri s).1.Good := by
  fun_cases Machine.drawTriangle d rd core ctx tri s with
  | case1 | case2 | case3 =>
    refine .of_fst ‹_› (.readEach (fun _ _ h2 => ?_) h)
    dsimp +zetaDelta only
    split
    · exact .of_fst ‹_› (.vertexIndex hrd h2)
    · exact .vertexAt hrd (.of_fst ‹_› (.vertexIndex hrd h2))
  | case4 | case5 =>
    refine .of_fst ‹_› (.depthPixels (.of_fst ‹_› (.readEach (fun _ _ h2 => ?_) h)))
    dsimp +zetaDelta only
    split
    · exact .of_fst ‹_› (.vertexIndex hrd h2)
    · exact .vertexAt hrd (.of_fst ‹_› (.vertexIndex hrd h2))

theorem State.Good.putRaster {s : State} {j} (h : s.Good) : (putRaster s j).Good := .frame h

theorem State.Good.modRaster {s : State} {id f} (h : s.Good) : (modRaster s id f).Good := .frame h

theorem State.Good.endRaster {s : State} {j} (h : s.Good) : (endRaster s j).Good := .putRaster (.dropLocks h)

theorem State.Good.failRaster {s : State} {j code addr} (h : s.Good) : (failRaster s j code addr).Good := .endRaster (.errorRecord h)

theorem State.Good.rasterError {s : State} {j acc e} (h : s.Good) : (rasterError s j acc e).Good := by
  fun_cases Machine.rasterError s j acc e with
  | case1 => exact .putRaster (.fileFault h)
  | case2 => exact h
  | case3 => exact .failRaster h

theorem State.Good.rasterDraw {s : State} {j d p q} (h : s.Good) : (rasterDraw s j d p q).Good := by
  unfold Machine.rasterDraw
  refine .ite ?_ (.ite h (.ite (.endRaster h) ?_))
  · split
    · exact .rasterError h
    · exact .ite h (.putRaster (.addLocks (.of_fst ‹_› (.drawRanges .jobRd h))))
  · split
    · exact .rasterError h
    · split
      · exact .rasterError h
      · exact h
      · exact .putRaster (.ite
          (.modPipe (.foldl_fst (fun _ _ h1 => .fst_mk (.claimTail h1)) (.chargeCtx (.of_fst ‹_› (.drawTriangle .jobRd h))))) (.commitBlock
            (.modPipe (.foldl_fst (fun _ _ h1 => .fst_mk (.claimTail h1)) (.chargeCtx (.of_fst ‹_› (.drawTriangle .jobRd h)))))))

theorem State.Good.rasterUnpark {s : State} {j va} (h : s.Good) : (rasterUnpark s j va).Good :=
  .ite h (.ite (.failRaster h) (.putRaster h))

theorem State.Good.rasterStep {s : State} {clu} (h : s.Good) : (rasterStep s clu).Good := by
  fun_cases Machine.rasterStep s clu with
  | case1 => exact h
  | case2 => exact .rasterUnpark h
  | case3 => exact .rasterError h
  | case4 => exact .putRaster (.of_fst ‹_› (.jobRead h))
  | case5 => exact .rasterDraw h
  | case6 => exact .failRaster h

theorem State.Good.fragPublish {s : State} {j p q i bs} (h : s.Good) : (fragPublish s j p q i bs).1.Good := by
  fun_cases Machine.fragPublish s j p q i bs with
  | case1 => exact .of_fst ‹_› (.engineWrite (.releaseAt h))
  | case2 => exact .modPipe (.of_fst ‹_› (.engineWrite (.releaseAt h)))

theorem State.Good.fragAppend {s : State} {clu} (h : s.Good) : (fragAppend s clu).Good := by
  fun_cases Machine.fragAppend s clu with
  | case1 | case3 | case6 => exact h
  | case2 => exact .failRaster h
  | case4 => exact .rasterError h
  | case5 =>
    rename_i e
    split at e
    · exact .modRaster (.commitBlock (.of_fst (Option.some.inj e) (.fragPublish h)))
    · exact .modRaster (.commitBlock (.engineAppend e h))

theorem State.Good.reapRasters {s : State} (h : s.Good) : (reapRasters s).Good := .frame h

theorem State.Good.rrelBody {s : State} {i b g present} (h : s.Good) : (rrelBody i s b g present).1.Good :=
  .drainStores (.launchFlight (.reapRasters h))

/-! ### Stops and starts of contexts, boot, errors -/

theorem State.Good.dropFlight {s : State} {core fl} (h : s.Good) : (dropFlight s core fl).Good := .dropPrune h

theorem State.Good.discardBlock {s : State} {b} (h : s.Good) : (discardBlock s b).Good :=
  .modLaunch (.endBlock (.frame (.foldl (fun _ _ h1 => .dropLocks h1) (.foldl (fun _ _ h1 => .endGroup
    (.modGroup (.foldl (fun _ _ h2 => .dropFlight h2) h1))) (.foldl (fun _ _ h1 => .foldl (fun _ _ h2 => .freeJob h2) h1) h)))))

theorem State.Good.saveContext {s : State} {ctx a n} (h : s.Good) : (saveContext s ctx a n).Good :=
  .ite (.cmdEnd (.modContext (.frame h)))
    (.cmdEnd (.modContext (.frame (.bar2Write (.foldl (fun _ _ h1 => .discardBlock h1) (.modContext (.frame h)))))))

theorem State.Good.ctxStop {s : State} (h : s.Good) : (ctxStop s).Good := by
  fun_cases Machine.ctxStop s with
  | case1 | case3 => exact h
  | case2 | case4 | case5 => exact .cmdEnd h
  | case6 => exact .saveContext h
  | case7 => exact .modContext h

theorem State.Good.stopAtWord {s : State} {gid} (h : s.Good) : (stopAtWord s gid).Good := by
  unfold Machine.stopAtWord
  dsimp +zetaDelta only
  split
  · exact .raiseHeld (.qputSweep (.settleStreams (.sweepHeld h)))
  · exact .modGroup (.stopGroup (.unsealFlights (.raiseHeld (.qputSweep (.settleStreams (.sweepHeld h))))))

theorem State.Good.engineStopAck {s : State} {ctx e} (h : s.Good) : (engineStopAck s ctx e).Good := by
  fun_cases Machine.engineStopAck s ctx e with
  | case1 | case2 => exact h
  | case3 =>
    refine .modContext ?_
    dsimp +zetaDelta only
    split
    · exact .foldl (fun _ _ h1 => .stopAtWord h1) h
    · exact .performContext h
    · exact h

theorem State.Good.groupStopTimeout {s : State} {gid} (h : s.Good) : (groupStopTimeout s gid).Good := by
  fun_cases Machine.groupStopTimeout s gid with
  | case1 | case2 | case4 => exact h
  | case3 => exact .stopAtWord h

theorem State.Good.contextStopped {s : State} {ctx} (h : s.Good) : (contextStopped s ctx).Good := by
  fun_cases Machine.contextStopped s ctx with
  | case1 | case2 => exact h
  | case3 => exact .saveContext (.modContext (.frame (.performContext (.foldl (fun _ _ h1 => .writebackAll h1) h))))
  | case4 => exact .modContext (.frame (.performContext (.foldl (fun _ _ h1 => .writebackAll h1) h)))

theorem State.Good.ctxStart {s : State} (h : s.Good) : (ctxStart s).Good := by
  fun_cases Machine.ctxStart s with
  | case1 => exact h
  | case2 | case3 | case4 => exact .cmdEnd h
  | case5 => exact .startFinish (.cmdEnd (.modContext h))

theorem State.Good.ctxSetreg {s : State} (h : s.Good) : (ctxSetreg s).Good := by
  fun_cases Machine.ctxSetreg s with
  | case1 => exact h
  | case2 | case4 => exact .cmdEnd h
  | case3 => exact .cmdEnd (.modContext h)

theorem State.Good.afterReset {s : State} (h : s.Good) : s.afterReset.Good := ⟨rfl, h.hostMem, h.peerMem, rfl, rfl⟩

theorem State.Good.perstDeassert {s : State} {image trained} (h : s.Good) : (perstDeassert s image trained).Good :=
  ⟨h.mem, h.hostMem, h.peerMem, rfl, rfl⟩

theorem State.Good.countError {s : State} {code corrected} (h : s.Good) : (countError s code corrected).Good := .frame h

theorem State.Good.poisonSector {s : State} {pa code} (h : s.Good) : (poisonSector s pa code).Good := .ite h (.frame h)

theorem State.Good.poisonPlace {s : State} {code place} (h : s.Good) : (poisonPlace s code place).Good := by
  fun_cases Machine.poisonPlace s code place with
  | case1 => exact .poisonSector h
  | case2 => exact .modBlock h
  | case3 | case4 | case8 => exact .modGroup h
  | case5 | case6 | case7 => exact .modEngine h
  | case9 | case10 => exact .modCore h
  | case11 => exact h

theorem State.Good.dropPlace {s : State} {place} (h : s.Good) : (dropPlace s place).Good := by
  fun_cases Machine.dropPlace s place with
  | case1 | case2 => exact .modCore h
  | case3 => exact .frame h
  | case4 => exact h

theorem State.Good.eccUncorrectable {s : State} {code ctx place} (h : s.Good) : (eccUncorrectable s code ctx place).Good :=
  .ite h (.ite (.dropPlace (.countError h)) (.frame (.poisonPlace (.countError h))))

theorem State.Good.linkDown {s : State} {port} (h : s.Good) : (linkDown s port).Good := .ite h (.frame (.countError h))

/-! ### The debug agent -/

theorem State.Good.sendWave {s : State} {key m} (h : s.Good) : (sendWave s key m).Good := .ite (.frame h) h

theorem State.Good.setJob {s : State} {j} (h : s.Good) : (setJob s j).Good := .frame h

theorem State.Good.haltArm {s : State} (h : s.Good) : (haltArm s).Good := by
  fun_cases Machine.haltArm s with
  | case1 => exact h
  | case2 | case3 | case4 => exact .cmdEnd h
  | case5 => exact .cmdEnd (.modContext h)

theorem State.Good.haltNow {s : State} (h : s.Good) : (haltNow s).Good := by
  fun_cases Machine.haltNow s with
  | case1 => exact h
  | case2 | case3 => exact .cmdEnd h
  | case4 => exact .cmdEnd (.frame h)

theorem State.Good.haltResume {s : State} (h : s.Good) : (haltResume s).Good := by
  fun_cases Machine.haltResume s with
  | case1 => exact h
  | case2 | case3 | case4 | case5 => exact .cmdEnd h
  | case6 => exact .cmdEnd (.sendWave (.setJob h))

theorem State.Good.haltTrigger {s : State} (h : s.Good) : (haltTrigger s).Good := by
  fun_cases Machine.haltTrigger s with
  | case1 => exact h
  | case2 | case3 => exact .frame h
  | case4 => exact .sendWave (.setJob (.frame h))

theorem State.Good.haltWaveReceive {s : State} {job t port} (h : s.Good) : (haltWaveReceive s job t port).Good :=
  .ite h (.ite (.sendWave h) (.ite h (.sendWave (.setJob h))))

theorem State.Good.settleContext {s : State} {ctx} (h : s.Good) : (settleContext s ctx).Good := by
  unfold Machine.settleContext
  refine .performContext (.foldl (fun _ _ h1 => ?_) (.foldl (fun _ _ h1 => .raiseHeld (.settleStreams (.sweepHeld h1))) h))
  split
  · exact .unsealFlights h1
  · exact h1

theorem State.Good.jobFrozen {s : State} {key} (h : s.Good) : (jobFrozen s key).Good := by
  fun_cases Machine.jobFrozen s key with
  | case1 | case2 | case3 => exact h
  | case4 => exact .setJob (.foldl (fun _ _ h1 => .settleContext h1) h)

theorem State.Good.resumeWaveReceive {s : State} {job release port} (h : s.Good) : (resumeWaveReceive s job release port).Good :=
  .ite h (.ite (.sendWave h) (.ite h (.ite (.sendWave (.setJob h)) (.ite (.sendWave (.setJob (.frame h))) (.sendWave (.setJob h))))))

theorem State.Good.haltRelease {s : State} {key} (h : s.Good) : (haltRelease s key).Good := by
  fun_cases Machine.haltRelease s key with
  | case1 | case2 => exact h
  | case3 => exact .foldl (fun _ _ h1 => .needSync h1) (.setJob (.frame h))

theorem State.Good.bpSet {s : State} (h : s.Good) : (bpSet s).Good := by
  fun_cases Machine.bpSet s with
  | case1 => exact h
  | case2 => exact .cmdEnd h
  | case3 => exact .cmdEnd { h with bps := List.length_set.trans h.bps }

theorem State.Good.wpSet {s : State} (h : s.Good) : (wpSet s).Good := by
  fun_cases Machine.wpSet s with
  | case1 => exact h
  | case2 | case4 => exact .cmdEnd { h with wps := List.length_set.trans h.wps }
  | case3 => exact .cmdEnd h

theorem State.Good.dbgRead {s : State} (h : s.Good) : (dbgRead s).Good := by
  fun_cases Machine.dbgRead s with
  | case1 => exact h
  | case2 | case3 => exact .cmdEnd h
  | case4 => exact .cmdEnd (.frame h)

theorem State.Good.dbgWrite {s : State} (h : s.Good) : (dbgWrite s).Good := by
  fun_cases Machine.dbgWrite s with
  | case1 => exact h
  | case2 | case6 => exact .cmdEnd h
  | case3 | case5 => exact .cmdEnd (.modContext h)
  | case4 => exact .cmdEnd (.modContext (.ite (.needSync h) h))

theorem State.Good.dbgStuff {s : State} (h : s.Good) : (dbgStuff s).Good := by
  fun_cases Machine.dbgStuff s with
  | case1 | case2 => exact h
  | case3 | case4 | case5 | case6 => exact .cmdEnd h
  | case7 => exact .frame (.modContext (.modGroup h))

theorem State.Good.stuffEnd {s : State} {st widx cause} (h : s.Good) : (stuffEnd s st widx cause).Good :=
  .cmdEnd (.frame (.modContext (.modGroup h)))

theorem State.Good.untrap {s t : State} {gid} (ht : t.Good) : (untrap s t gid).Good := by
  fun_cases Machine.untrap s t gid with
  | case1 => exact ht
  | case2 => exact .frame (.modGroup ht)

theorem State.Good.stuffAfter {s t : State} {st b i} (h : s.Good) (ht : t.Good) : (stuffAfter s t st b i).Good := by
  unfold Machine.stuffAfter
  split
  · split
    · exact .ite (.stuffEnd (.untrap ht)) (.stuffEnd h)
    · refine .ite (.stuffEnd h) (.ite (.stuffEnd h) ?_)
      extract_lets r u mine
      have hu : u.Good := .settleStreams (.sweep ht)
      clear_value u
      split
      · exact .stuffEnd (.frame h)
      · refine .ite (.stuffEnd h) (.ite (.stuffEnd hu) ?_)
        split
        · exact .stuffEnd (.modGroup (.performContext hu))
        · exact .ite (.stuffEnd (.modGroup (.performContext hu))) (.frame (.modGroup (.performContext hu)))
  · exact .stuffEnd h

theorem State.Good.splitGroup {s : State} {gid} (h : s.Good) : (splitGroup s gid).Good :=
  .foldl (fun _ _ h1 => .modGroup (.frame (.modBatch (.fresh h1)))) h

theorem State.Good.stepBegin {s : State} {ctx gid} (h : s.Good) : (stepBegin s ctx gid).Good := .frame (.splitGroup h)

theorem State.Good.stepEnd {s : State} {st} (h : s.Good) : (stepEnd s st).Good := .cmdEnd (.frame (.performContext h))

theorem State.Good.dbgStep {s : State} (h : s.Good) : (dbgStep s).Good := by
  fun_cases Machine.dbgStep s with
  | case1 | case3 | case6 => exact h
  | case2 | case4 => exact .frame h
  | case5 => exact .stepEnd h
  | case7 | case8 | case9 | case10 => exact .cmdEnd h
  | case11 => exact .stepBegin h

/-! ### The dual word -/

theorem BodyFn.Keeps.dualBody {parts} : BodyFn.Keeps (dualBody parts) :=
  fun _ _ _ _ h => .foldl_fst (fun _ _ h1 => .fst_mk (.fixedBody h1)) h

/-! ### MBARA, MBARW, MMOVE and MSTART -/

theorem State.Good.mbaraBody {s : State} {i b g present} (h : s.Good) : (mbaraBody i s b g present).1.Good :=
  .ite_fst h (.ite_fst (.leaveBatch h) (.settleMbars (.modGroup (.foldl (fun _ _ h1 => .releaseAt h1) h))))

theorem State.Good.mbarwBody {s : State} {i b g present} (h : s.Good) : (mbarwBody i s b g present).1.Good := by
  fun_cases Machine.mbarwBody i s b g present with
  | case1 | case2 => exact h
  | case3 => exact .modGroup (.foldl (fun _ _ h1 => .acquireAt h1) h)

theorem State.Good.mbarwFin {s : State} {i b0 id} (h : s.Good) : (mbarwFin i b0 s id).Good := by
  fun_cases Machine.mbarwFin i b0 s id with
  | case1 => exact .advanceBatch h
  | case2 => exact .modBatch h

theorem State.Good.mmoveBody {s : State} {i b g present} (h : s.Good) : (mmoveBody i s b g present).1.Good := by
  fun_cases Machine.mmoveBody i s b g present with
  | case1 => exact h
  | case2 => exact .modGroup (.launchFlight h)

theorem State.Good.mstartBody {s : State} {i b g present} (h : s.Good) : (mstartBody i s b g present).1.Good := by
  fun_cases Machine.mstartBody i s b g present with
  | case1 => exact h
  | case2 => exact .modEngine h

/-! ### Every instruction -/

theorem GoodNext.exec {s : State} {i : Instr} (h : s.Good) : GoodNext (exec i s) := by
  cases i with
  | nop => exact .next (.plainWord (fun _ _ _ _ h1 => h1) h)
  | next | nextp | nextx => exact .next (.runWord (fun _ _ _ _ h1 => .endSegment h1) h)
  | call => exact .next (.runWord (fun _ _ _ _ h1 => .endSegment (.callLink h1)) h)
  | ret => exact .next (.runWord (fun _ _ _ _ h1 => .endSegment (.traceRet h1)) h)
  | fork => exact .next (.runWord (fun _ _ _ _ h1 => .forkBody h1) h)
  | quit => exact .next (.plainWord (fun _ _ _ _ h1 => .quitBody h1) h)
  | loop => exact .next (.runWordThen (fun _ _ _ _ h1 => h1) (fun _ _ h1 => .loopFin h1) h)
  | loopPassEnd => exact .next (.skipSpent (.passEnd h))
  | rep => exact .next (.runWordThen (fun _ _ _ _ h1 => h1) (fun _ _ h1 => .repFin h1) h)
  | bar => exact .next (.runWordThen (fun _ _ _ _ h1 => .barBody h1) (fun _ _ h1 => .barFin h1) h)
  | bara => exact .next (.runWord (fun _ _ _ _ h1 => .arriveBlock h1) h)
  | barw => exact .next (.runWordThen (fun _ _ _ _ h1 => .barwBody h1) (fun _ _ h1 => .barFin h1) h)
  | elect | plop => exact .next (.plainWord (fun _ _ _ _ h1 => .predBody h1) h)
  | vote => exact .next (.plainWord (fun _ _ _ _ h1 => .voteBody h1) h)
  | pmov => exact .next (.plainWord (fun _ _ _ _ h1 => .pmovBody h1) h)
  | yield | sleep => exact .next (.runWordThen (fun _ _ _ _ h1 => h1) (fun _ _ h1 => .modBatch (.advanceBatch h1)) h)
  | sleepEnd => exact .next (.modBatch h)
  | live => exact .next (.plainWord (fun _ _ _ _ h1 => .fixedBody h1) h)
  | batchForm => exact .next (.batchForm h)
  | batchIssue => exact .next (.batchIssue h)
  | starvedEntryIssue => exact .next (.starvedIssue h)
  | variableLatencyResult => exact .next (.ite (.getD (.or (.or (.deqStep h) (.publishStep h)) (.pruneStep? h)) (.lateResult h)) h)
  | iadd | isub | iaddc | imul | imulh | imad | imadw | iabs | imin | imax | icmp | sel | and | or | xor | andn | tern | shl
  | shr | sar | rot | funnel | bfe | bfi | brev | popc | clz | ctz | bperm | isad | idot | pack | unpack | mov | movi | lea
  | hrand | helper | subswz | fadd | fsub | fmul | fma | fmin | fmax | fminn | fmaxn | fcmp | fclass | fneg | fabs | frint
  | ffract | fldexp | ffrexp | cvt | cvt8 | fdot2 | scacc | ivadd | ivsub | ivmul | ivsqr | ivmin | ivmax | ivabs | ivhull
  | ivmake | ivsplit | ivtest | ivmid | time => exact .next (.fixedWord h)
  | idiv | irem | frcp | frsq | fsqrt | fdiv | fexp2 | flog2 | fsin | fcos | ivdiv | ivsqrt => exact .next (.lateWord h)
  | lxch | lxor | lbcast => exact .next (.plainWord .exchBody h)
  | qxch => exact .next (.plainWord .qxchBody h)
  | qddx | qddy => exact .next (.plainWord .ddxBody h)
  | lreduce => exact .next (.runWord .lreduceBody h)
  | lscan => exact .next (.runWord .lscanBody h)
  | kget => exact .next (.plainWord .kgetBody h)
  | dualWord => exact .next (.plainWord .dualBody h)
  | ld | st | lds | sts | ldp | stp | ldrs | strs | atom | red | satom | cas | fetch | fetch3 => exact .next (.memWord h)
  | fence => exact .next (.runWord (fun _ _ _ _ h1 => .fenceBody h1) h)
  | fencero => exact .next (.runWord (fun _ _ _ _ h1 => .fenceroBody h1) h)
  | pref => exact .next (.plainWord (fun _ _ _ _ h1 => .prefBody h1) h)
  | ipref => exact .next (.runWord (fun _ _ _ _ h1 => .iprefBody h1) h)
  | sopen | sclose => exact .next (.runWord (fun _ _ _ _ h1 => .streamBody h1) h)
  | sadv => exact .next (.streamWord (fun _ _ _ _ h1 => .streamBody h1) h)
  | stest => exact .next (.streamWord .stestBody h)
  | sisect => exact .next (.streamWord (fun _ _ _ _ h1 => .sisectBody h1) h)
  | smerge => exact .next (.streamWord .smergeBody h)
  | sget => exact .next (.streamWord .sgetBody h)
  | streamSettle => exact .next (.ite (.drainStores (.settleStream h)) h)
  | icacheFill => exact .next (.icacheFill h)
  | privateLineWriteback => exact .execPrivateLineWriteback h
  | qput => exact .next (.runWordThen (fun _ _ _ _ h1 => .qputBody h1) (fun _ _ h1 => .memFin h1) h)
  | qputSlotPublish => exact .next (.qputStep h)
  | wpget => exact .next (.runWord (fun _ _ _ _ h1 => .wpgetBody h1) h)
  | tbinit => exact .next (.runWord (fun _ _ _ _ h1 => .tbBody (fun _ _ _ _ _ _ _ h2 => .tbInit h2) h1) h)
  | tbarr => exact .next (.runWordThen (fun _ _ _ _ h1 => .tbBody (fun _ _ _ _ _ _ _ h2 => .tbArrive h2) h1) (fun _ _ h1 => .memFin h1) h)
  | tbwait => exact .next (.runWordThen (fun _ _ _ _ h1 => .tbwaitBody h1) (fun _ _ h1 => .tbwaitFin h1) h)
  | cpePacketAccept => exact .next (.cpeAccept h)
  | channelPacketStart => exact .next (.channelStart h)
  | copySectorDeliver => exact .next (.copyDeliver h)
  | copyComplete => exact .next (.copyComplete h)
  | mbara => exact .next (.runWord (fun _ _ _ _ h1 => .mbaraBody h1) h)
  | mbarw => exact .next (.runWordThen (fun _ _ _ _ h1 => .mbarwBody h1) (fun _ _ h1 => .mbarwFin h1) h)
  | mmove => exact .next (.runWord (fun _ _ _ _ h1 => .mmoveBody h1) h)
  | mstart => exact .next (.runWord (fun _ _ _ _ h1 => .mstartBody h1) h)
  | mzero | mbload | mstore => exact .next (.msqWord (fun _ _ _ h1 => .ite .error (.ok (.msqLaunch h1))) h)
  | mmul => exact .next (.msqWord (fun _ _ _ h1 => .ite .error (.ite .error (.ok (.msqLaunch h1)))) h)
  | mwait => exact .next (.msqWord (fun _ _ _ h1 => .ok h1) h)
  | marrive => exact .next (.msqWord (fun _ _ _ h1 => .ok (.modEngine (.fresh h1))) h)
  | mloop => exact .next (.msqWord (fun _ _ _ h1 => .ite .error (.ite .error (.ite (.ok (.modEngine h1)) (.ok (.modEngine h1))))) h)
  | mloopPassEnd => exact .next (.mloopPassEnd h)
  | matrixBarrierTurn => exact .next (.mbarTurn h)
  | march => exact .next (.runWord (fun _ _ _ _ h1 => .marchBody h1) h)
  | raySpanEval => exact .next (.raySpanEval h)
  | rayJobEnd => exact .next (.rayJobEnd h)
  | opaqueReply => exact .next (.opaqueReply h)
  | prune => exact .next (.runWord (fun _ _ _ _ h1 => .pruneBody h1) h)
  | rdraw => exact .next (.runWord (fun _ _ _ _ h1 => .rdrawBody h1) h)
  | rasterTriangle => exact .next (.rasterStep h)
  | fragmentRecordAppend => exact .next (.fragAppend h)
  | rrel => exact .next (.runWord (fun _ _ _ _ h1 => .rrelBody h1) h)
  | enq => exact .next (.runWordThen (fun _ _ _ _ h1 => .enqBody h1) (fun _ _ h1 => .enterLeave h1) h)
  | enqWaitSuspend => exact .next (.enqSuspend h)
  | deq => exact .next (.runWordThen (fun _ _ _ _ h1 => .deqBody h1) (fun _ _ h1 => .enterLeave h1) h)
  | evsig => exact .next (.runWord (fun _ _ _ _ h1 => .evsigBody h1) h)
  | evwait => exact .next (.runWordThen (fun _ _ _ _ h1 => .evwaitBody h1) (fun _ _ h1 => .enterLeave h1) h)
  | evwaitSuspend => exact .next (.evSuspend h)
  | eventWaiterRelease => exact .next (.evRelease h)
  | suspend => exact .next (.runWordThen (fun _ _ _ _ h1 => .suspendBody h1) (fun _ _ h1 => .ite (.advanceBatch h1) h1) h)
  | spawn => exact .next (.runWord (fun _ _ _ _ h1 => .spawnBody h1) h)
  | dcdec => exact .next (.runWord (fun _ _ _ _ h1 => .dcdecBody h1) h)
  | continuationResume => exact .next (.continuationResume h)
  | trap => exact .next (.plainWord (fun _ _ _ _ h1 => .trapBody h1) h)
  | rft => exact .next (.runWord (fun _ _ _ _ h1 => .rftBody h1) h)
  | sread => exact .next (.runWord (fun _ _ _ _ h1 => .sreadBody h1) h)
  | swrite => exact .next (.runWord (fun _ _ _ _ h1 => .swriteBody h1) h)
  | publish => exact .next (.runWord (fun _ _ _ _ h1 => .publishBody h1) h)
  | pmcapStart | pmcapStop => exact .next (.plainWord (fun _ _ _ _ h1 => .pmcapBody h1) h)
  | brk => exact .next (.plainWord (fun _ _ _ _ h1 => .brkBody h1) h)
  | erd => exact .next (.runWord (fun _ _ _ _ h1 => .erdBody h1) h)
  | dbgmb => exact .next (.runWord (fun _ _ _ _ h1 => .dbgmbBody h1) h)
  | launchAccept => exact .next (.launchAccept h)
  | carveOutChange => exact .next (.carveOutChange h)
  | launchComplete => exact .next (.launchComplete h)
  | stageEnd => exact .next (.stageEnd h)
  | pageWalk => exact .next (.pageWalk h)
  | trapTake => exact .next (.trapTake h)
  | hostBar2Write => exact .ite .fault (.ite (.next (.bar2Write h)) (.next h))
  | hostBar2Read => exact .ite .fault (.ite (.next (.frame h)) (.next h))
  | hostAtomicop => exact .ite .fault (.next (.hostAtomic h))
  | peerRequest => exact .next (.peerRequest h)
  | hostRegisterWrite => exact .next (.registerWrite h)
  | engineStopAck => exact .next (.engineStopAck h)
  | groupStopTimeout => exact .next (.groupStopTimeout h)
  | contextStopped => exact .next (.contextStopped h)
  | perstDeassert => exact .next (.perstDeassert h)
  | eccCorrected => exact .next (.ite (.countError h) h)
  | eccUncorrectable => exact .next (.eccUncorrectable h)
  | linkDown => exact .next (.linkDown h)
  | haltWaveReceive => exact .next (.haltWaveReceive h)
  | jobFrozen => exact .next (.jobFrozen h)
  | resumeWaveReceive => exact .next (.resumeWaveReceive h)
  | haltRelease => exact .next (.haltRelease h)
  | traceSync => exact .next (.flushSync h)
  | profTag => exact .next (.profTag h)
  | matrixOpComplete => exact .next (.matOpStep h)
  | matrixStreamWordFetch => exact .next (.msqFetchStep h)
  | writePerformedAtScope => exact .next (.performSome h)
  | mend => exact .next (.msqWord (fun _ _ _ h1 => .ok (.modEngine h1)) h)
  | blockAdmit => exact .next (.blockAdmit h)
  | balancingRoundEnd => exact .next (.balancingRoundEnd h)
  | faultRecordFlush => exact .next (.flushFault h)
  | hstatRead | thermalRecover => exact .next (.frame h)
  | commandDone => exact .next (.commandDone h)
  | ctxCreate => exact .next (.ctxCreate h)
  | ctxDestroy => exact .next (.ctxDestroy h)
  | queueReg => exact .next (.queueReg h)
  | queueBind => exact .next (.queueBind h)
  | queueUnreg => exact .next (.queueUnreg h)
  | tlbInval => exact .next (.tlbInval h)
  | faultResume => exact .next (.faultResume h)
  | faultFail => exact .next (.faultFail h)
  | sealFrames => exact .next (.sealFrames h)
  | unsealFrames => exact .next (.unsealFrames h)
  | setBudget => exact .next (.setBudget h)
  | ctxStop => exact .next (.ctxStop h)
  | ctxStart => exact .next (.ctxStart h)
  | ctxSetreg => exact .next (.ctxSetreg h)
  | thermalHigh => exact .next (.ite h (.frame h))
  | thermalTrip => exact .next (.frame (.afterReset h))
  | backgroundScrub => exact .next h
  | haltArm => exact .next (.haltArm h)
  | haltNow => exact .next (.haltNow h)
  | haltResume => exact .next (.haltResume h)
  | dbgStuff => exact .next (.dbgStuff h)
  | dbgStep => exact .next (.dbgStep h)
  | bpSet => exact .next (.bpSet h)
  | wpSet => exact .next (.wpSet h)
  | dbgRead => exact .next (.dbgRead h)
  | dbgWrite => exact .next (.dbgWrite h)
  | haltTrigger => exact .next (.haltTrigger h)

/-! ### Words at issue -/

theorem GoodNext.stepBatch {s : State} (h : s.Good) : GoodNext (stepBatch s) := by
  fun_cases Machine.stepBatch s with
  | case1 => exact .next (.unissue h)
  | case2 => exact .exec (.of_fst ‹_› (.fetchInstr h))
  | case3 => exact .next (.refusedWord (.of_fst ‹_› (.fetchInstr h)))

theorem GoodNext.stepMsq {s : State} {bid} (h : s.Good) : GoodNext (stepMsq s bid) := by
  fun_cases Machine.stepMsq s bid with
  | case1 => exact .next (.unissue h)
  | case2 => exact .exec (.of_fst ‹_› (.msqFetch h))
  | case3 => exact .next (.unissue (.msqFault (.msqFileFetch (.of_fst ‹_› (.msqFetch h)))))

theorem GoodNext.stepStuff {s : State} (h : s.Good) : GoodNext (stepStuff s) := by
  fun_cases Machine.stepStuff s with
  | case1 => exact .next (.stuffEnd h)
  | case2 => exact .next (.stuffAfter h (.of_next ‹_› (.exec h)))
  | case3 => exact .exec h
  | case4 => exact .next (.unissue h)

theorem GoodNext.stepIssue {s : State} {i} (h : s.Good) : GoodNext (stepIssue s i) := by
  fun_cases Machine.stepIssue s i with
  | case1 => exact .stepBatch h
  | case2 => exact .stepMsq h
  | case3 => exact .stepStuff h

/-! ### One step -/

theorem GoodNext.step {s0 : State} (h : s0.Good) : GoodNext (step s0) := by
  fun_cases Machine.step s0 with
  | case1 => exact .stepIssue (.frame h)
  | case2 => exact .exec (.frame (.frame h))
  | case3 => exact .exec (.frame h)
  | case4 => exact .next (.tickClock (.frame h))

/-! ### The obligations -/

/-- Settles O6: the memories of reset are empty and its tables are lists of 16 and 8 empty entries. -/
theorem resetIsGood : Obligations.ResetIsGood := ⟨rfl, rfl, rfl, rfl, rfl⟩

/-- Settles O7: whatever stands in the issue slot or moves next, the state that `step` answers is Good (`GoodNext.step`). -/
theorem stepKeepsGood : Obligations.StepKeepsGood := by
  unfold Obligations.StepKeepsGood
  intro s t h e
  exact .of_next e (.step h)

end Sys2Proof.Machine
end

section
/-! O5: the facts of `State.reset`. Its fields are written out in the model; what is said here is what its list of cores holds, which
the model makes from one function of the core's number, and what its empty memory answers at every address. -/

namespace Sys2Proof.Machine

/-- Reset makes one core for each number below `coreCount` (R11, R403). -/
theorem reset_cores : State.reset.cores = (List.range coreCount).map Core.reset := by
  rw [State.reset]

/-- A chip has 512 cores (R11). -/
theorem reset_cores_length : State.reset.cores.length = 512 := by
  rw [reset_cores, List.length_map, List.length_range, coreCount]

/-- Every core's range-lock table starts with its 32 entries free (R154). -/
theorem rlt_of_mem_reset_cores {c : Core} (h : c ∈ State.reset.cores) : c.rlt = List.replicate 32 none := by
  rw [reset_cores] at h
  obtain ⟨n, -, rfl⟩ := List.mem_map.mp h
  rfl

/-- No byte of local GDDR is listed after reset, so each reads 0 (log entry 2). -/
theorem reset_mem_get (a : Nat) : Memory.get State.reset.mem a = 0 := rfl

/-- Settles O5: the cores' count and range locks by the lemmas on the list of cores, every other field by its value in the model,
where the host control window's registers are those of `HostRegs.reset`. -/
theorem resetLeavesTheChipHeld : Obligations.ResetLeavesTheChipHeld := by
  unfold Obligations.ResetLeavesTheChipHeld
  have hhost : State.reset.host = HostRegs.reset := rfl
  rw [hhost]
  refine ⟨reset_cores_length, ?contexts, ?launches, ?blocks, ?groups, ?batches, ?queues, ?objects,
    ?ready, ?busy, ?overrun, ?therm, ?ctxt, ?frbase, ?frlog, ?frhead, ?frtail, ?cmd, ?arg0, ?arg1, ?arg2, ?arg3, ?result,
    ?chipBudget, fun c hc => rlt_of_mem_reset_cores hc, ?bps, ?wps, ?sealed, ?mem, reset_mem_get⟩
  all_goals rfl

end Sys2Proof.Machine
end

section
/-! O28: the sorter forms and issues batches. What is said once here is what `minBy` chooses, and what `takeUnits` leaves. -/

namespace Sys2Proof.Machine

/-! ### The least element -/

theorem minBy_eq_none {α : Type} {f : α → Nat} {xs : List α} : minBy f xs = none ↔ xs = [] := by
  cases xs with
  | nil => simp [minBy]
  | cons a xs =>
    rw [minBy]
    cases minBy f xs with
    | none => simp
    | some y => by_cases h : f y < f a <;> simp [h]

/-- The element that `minBy` answers stands in the list, and none has a smaller measure. -/
theorem minBy_some {α : Type} {f : α → Nat} {xs : List α} {x : α} (h : minBy f xs = some x) : x ∈ xs ∧ ∀ y ∈ xs, f x ≤ f y := by
  induction xs generalizing x with
  | nil => simp [minBy] at h
  | cons a xs ih =>
    rw [minBy] at h
    cases hm : minBy f xs with
    | none =>
      simp only [hm, Option.some.injEq] at h
      simp [minBy_eq_none.mp hm, h]
    | some y =>
      obtain ⟨hy, hle⟩ := ih hm
      simp only [hm] at h
      by_cases hlt : f y < f a
      · obtain rfl : y = x := by simpa [hlt] using h
        exact ⟨List.mem_cons_of_mem _ hy, by simpa using ⟨hlt.le, hle⟩⟩
      · obtain rfl : a = x := by simpa [hlt] using h
        exact ⟨List.mem_cons_self, by simpa using fun z hz => (Nat.le_of_not_lt hlt).trans (hle z hz)⟩

/-! ### A batch formed -/

/-- Changing groups one after another changes nothing but the groups. -/
theorem foldl_modGroup_groups_only {α : Type} (xs : List α) (gid : α → Nat) (f : α → Group → Group) (s : State) :
    ∃ gs, xs.foldl (fun s x => s.modGroup (gid x) (f x)) s = { s with groups := gs } := by
  induction xs generalizing s with
  | nil => exact ⟨s.groups, rfl⟩
  | cons x xs ih => exact ih (s.modGroup (gid x) (f x))

/-- The batch that units make under a number (R76, R81). -/
def batchOf (s : State) (core sched : Nat) (u : EntryUnit) (us : List EntryUnit) : Batch :=
  ⟨s.nextId, core, sched, membersOf (u :: us), u.obj, u.seg, u.woff, u.rep, minOf ((u :: us).map EntryUnit.time), 0, s.clock, u.wait, none,
    u.bp, s.nextId⟩

/-- Units that leave the sorter become one batch under a fresh number, and only groups and the count of numbers change beside. -/
theorem takeUnits_cons (s : State) (core sched : Nat) (u : EntryUnit) (us : List EntryUnit) :
    ∃ gs, takeUnits s core sched (u :: us)
      = ({ s with groups := gs, batches := s.batches ++ [batchOf s core sched u us], nextId := s.nextId + 1 }, s.nextId) := by
  obtain ⟨gs, h⟩ := foldl_modGroup_groups_only (u :: us) EntryUnit.gid (fun v g => { g with entries := g.entries.filter fun e =>
    !(e.seg == v.seg && e.woff == v.woff && e.rep == v.rep && e.wait == v.wait && e.loops == v.loops && e.lanes &&& v.lanes != 0) }) s.fresh.2
  refine ⟨gs, ?_⟩
  unfold takeUnits
  rw [show s.fresh = (s.nextId, s.fresh.2) from rfl]
  dsimp only at h ⊢
  rw [h]
  rfl

/-- A number that a listed batch has leads to a batch of that number. -/
theorem batch_of_mem {s : State} {b : Batch} (h : b ∈ s.batches) : ∃ x, s.batch? b.id = some x ∧ x.id = b.id := by
  cases hx : s.batch? b.id with
  | some x => exact ⟨x, rfl, (lookupBy_some _ _ hx).1⟩
  | none =>
    have := List.find?_eq_none.mp hx b h
    simp at this

/-- A unit that starves has waited 4096 clocks (R82). -/
theorem starved_waited {s : State} {core sched : Nat} {u : EntryUnit} (h : starved s core sched = some u) : s.clock ≥ u.since + 4096 := by
  have hu := (minBy_some (f := fun u : EntryUnit => u.time * 8 + minOf u.slots) h).1
  simpa using (List.mem_filter.mp hu).2

/-- The batch that goes first is one of the scheduler's that may issue, and no other of those has a smaller key (R81). -/
theorem bestBatch_spec {s : State} {core sched : Nat} {b : Batch} (h : bestBatch s core sched = some b) :
    b ∈ s.batches ∧ b.core = core ∧ b.sched = sched ∧ batchMay s b = true
      ∧ ∀ x ∈ s.batches, x.core = core → x.sched = sched → batchMay s x = true → batchKey s b ≤ batchKey s x := by
  obtain ⟨hb, hle⟩ := minBy_some h
  simp only [List.mem_filter, Bool.and_eq_true, beq_iff_eq] at hb hle
  obtain ⟨hmem, ⟨hcore, hsched⟩, hmay⟩ := hb
  exact ⟨hmem, hcore, hsched, hmay, fun x hx hc hs hm => hle x ⟨hx, ⟨hc, hs⟩, hm⟩⟩

/-- Settles O28: BATCH_FORM and STARVED_ENTRY_ISSUE by what `takeUnits` leaves, BATCH_ISSUE by what `minBy` chooses; where no breakpoint
stops a batch, issuing it fills the slot. -/
theorem sorterFormsAndIssuesBatches : Obligations.SorterFormsAndIssuesBatches := by
  unfold Obligations.SorterFormsAndIssuesBatches
  refine ⟨?form, ?issue, ?starve⟩
  case form =>
    intro s core sched u us hforms hstarved hnew
    obtain ⟨gs, ht⟩ := takeUnits_cons s core sched u us
    have hform : batchForm s core sched = (takeUnits s core sched (u :: us)).1 := by simp [batchForm, hforms, hstarved, hnew]
    rw [ht] at hform
    exact ⟨_, batchOf s core sched u us, congrArg Host.Outcome.next hform, rfl, rfl, rfl, rfl, rfl, rfl, rfl, rfl, rfl, rfl, rfl, rfl, rfl⟩
  case issue =>
    intro s core sched b hslot hissued hforms hbest hbreak
    obtain ⟨hmem, hcore, hsched, hmay, hle⟩ := bestBatch_spec hbest
    have hrun : batchIssue s core sched = { s with issue := some (.batch b.id), issued := (core, sched) :: s.issued } := by
      simp only [batchIssue, hslot, hissued, hforms, hbest, issueBatch, hbreak, Option.isSome_none, Bool.or_self, Bool.false_eq_true, if_false]
    exact ⟨_, congrArg Host.Outcome.next hrun, rfl, List.mem_cons_self, rfl, rfl, hmem, hcore, hsched, hmay, hle⟩
  case starve =>
    intro s core sched u hforms hstarved hbreak
    obtain ⟨gs, ht⟩ := takeUnits_cons s core sched u []
    rw [ht] at hbreak
    obtain ⟨x, hx, hid⟩ := batch_of_mem (b := batchOf s core sched u [])
      (s := { s with groups := gs, batches := s.batches ++ [batchOf s core sched u []], nextId := s.nextId + 1 }) (by simp)
    have hrun : starvedIssue s core sched = { s with
        groups := gs, batches := s.batches ++ [batchOf s core sched u []], nextId := s.nextId + 1
        issue := some (.batch x.id), issued := (core, sched) :: s.issued } := by
      have hid' : (batchOf s core sched u []).id = s.nextId := rfl
      rw [hid'] at hx
      simp only [starvedIssue, hforms, hstarved, ht, hx, issueBatch, hbreak x hx]
    exact ⟨_, batchOf s core sched u [], congrArg Host.Outcome.next hrun, rfl, by rw [hid], rfl, rfl, rfl, starved_waited hstarved⟩

end Sys2Proof.Machine
end

section
/-! What a word at issue leaves of its batch and of its group, for the words of flow (O23 to O27). -/

namespace Sys2Proof.Machine

/-! ### The group -/

/-- The group a word's effect begins with is the one found under its number. -/
theorem group_gid {s : State} {n : Nat} {g : Group} (h : s.group? n = some g) : g.gid = n := (lookupBy_some _ _ h).1

/-- A word that takes a number and changes its own group, and that calls for no trap, leaves that group changed. -/
theorem runWord_group {i : Instr} {ready : ReadyFn} {bar : BarFn} {s : State} {b : Batch} {g0 g : Group} {p : Mask} {body : BodyFn}
    {F : Group → Group} (h : Alone i ready bar s b g0 p) (hg : (entered i s b g0 p).group? g0.gid = some g)
    (hbody : body (entered i s b g0 p) b g p = ((entered i s b g0 p).fresh.2.modGroup g.gid F, none))
    (hF : ∀ x, (F x).gid = x.gid) : (runWord i ready bar body s).group? g.gid = some (F g) := by
  have hgid : g.gid = g0.gid := group_gid hg
  rw [runWord_alone h hg, hbody]
  simp only [unissue_group_at, advanceBatch_group_at, noteIssue_group_at]
  rw [group_modGroup_same _ _ _ hF, hgid, fresh_group_at, hg]
  rfl

/-- The lanes of a mask, each changed by its own change, leave the group's number alone. -/
theorem foldl_modFibre_gid {α : Type} (ls : List α) (lane : α → Nat) (f : α → Fibre → Fibre) (g : Group) :
    (ls.foldl (fun g a => g.modFibre (lane a) (f a)) g).gid = g.gid := by
  obtain ⟨xs, -, h⟩ := foldl_modFibre_fibres_only ls lane f g
  rw [h]

/-- A lane of a mask is changed by its own change. -/
theorem fibre_foldl_lanes {m : Mask} {l : Nat} (f : Nat → Fibre → Fibre) (g : Group) (hl : l ∈ lanesOf m) (hlen : l < g.fibres.length) :
    ((lanesOf m).foldl (fun g l => g.modFibre l (f l)) g).fibre l = f l (g.fibre l) :=
  (fibre_foldl_modFibre (lanesOf m) id f g (by simpa using lanesOf_nodup m) l).1 l hl rfl hlen

/-- A lane outside a mask is not changed. -/
theorem fibre_foldl_other {m : Mask} {l : Nat} (f : Nat → Fibre → Fibre) (g : Group) (hl : l ∉ lanesOf m) :
    ((lanesOf m).foldl (fun g l => g.modFibre l (f l)) g).fibre l = g.fibre l :=
  (fibre_foldl_modFibre (lanesOf m) id f g (by simpa using lanesOf_nodup m) l).2 (by simpa using hl)

/-! ### The batch -/

/-- A batch that has issued a word notes the clock. -/
def Batch.noted (b : Batch) (clock start : Nat) : Batch := { b with last := some clock, lastFrom := start }

/-- A batch at the word after the one it stood at. -/
def Batch.past (b : Batch) (i : Instr) (clock : Nat) : Batch :=
  { b with wait := none, waitSince := clock, bp := false, woff := b.woff + wordCount i }

/-- A batch that is there is changed in place. -/
theorem batch_modBatch_some {s : State} {id : Nat} {b : Batch} {f : Batch → Batch} (h : s.batch? id = some b) (hf : ∀ x, (f x).id = x.id) :
    (s.modBatch id f).batch? id = some (f b) := by
  rw [batch_modBatch_same s id f hf, h, Option.map_some]

/-- Noting an issue touches the batches and the step in progress, and leaves the batch as it was but for the note. -/
theorem noteIssue_spec (start : Nat) {s : State} {b : Batch} (i : Instr) (h : s.batch? b.id = some b) :
    ∃ bs st, noteIssue start s b i = { s with batches := bs, stepping := st }
      ∧ (noteIssue start s b i).batch? b.id = some (b.noted s.clock start) := by
  obtain ⟨bs, st, hs⟩ := noteIssue_eq start s b i
  refine ⟨bs, st, hs, ?_⟩
  have hmod : (s.modBatch b.id fun x => { x with last := some s.clock, lastFrom := start }).batch? b.id = some (b.noted s.clock start) :=
    batch_modBatch_some h fun _ => rfl
  rw [← hmod]
  unfold noteIssue
  dsimp only
  repeat' split
  all_goals rfl

/-- A batch outside a REP moves to the word after (R99). -/
theorem batch_advanceBatch {s : State} {id : Nat} {b : Batch} (i : Instr) (h : s.batch? id = some b) (hrep : b.rep = none) :
    (advanceBatch s id i).batch? id = some (b.past i s.clock) := by
  unfold advanceBatch
  rw [batch_modBatch_some h fun x => by dsimp only; split <;> [split; skip] <;> rfl]
  simp only [hrep, Batch.past]

/-- A word whose effect calls for no trap: the effect, the note of its issue, then what moves the batch on. -/
theorem run_untrapped {i : Instr} {ready : ReadyFn} {bar : BarFn} {s u : State} {b : Batch} {g0 g : Group} {p : Mask} {body : BodyFn}
    (h : Alone i ready bar s b g0 p) (hg : (entered i s b g0 p).group? g0.gid = some g)
    (hbody : body (entered i s b g0 p) b g p = (u, none)) (fin : State → Nat → State) :
    runWordThen i ready bar body fin s = (fin (noteIssue s.nextId u b i) b.id).unissue := by
  rw [run_alone h hg, hbody]

/-- The batch at issue has one member, whose present lanes are the word's. -/
theorem Alone.member {i : Instr} {ready : ReadyFn} {bar : BarFn} {s : State} {b : Batch} {g0 g : Group} {p : Mask}
    (h : Alone i ready bar s b g0 p) (hi : isEnd i = false) (hg : (entered i s b g0 p).group? g0.gid = some g) :
    ∃ m, b.members = [m] ∧ m.gid = g.gid ∧ m.present false = p := by
  obtain ⟨m, hm, hgid, hp⟩ := h.members
  exact ⟨m, hm, hgid.trans (group_gid hg).symm, hi ▸ hp⟩

end Sys2Proof.Machine
end

section
/-! O26: ELECT, VOTE, PLOP, PMOV and LIVE. Each changes the present fibres of its group one by one; what is said once here is what the
change of one fibre leaves on its way there, and what the masks that the words compare hold. -/

namespace Sys2Proof.Machine

/-! ### One fibre -/

/-- A predicate result is on its way, but for p0 (R55). -/
theorem putPred_pend (x : Fibre) (seq dist n : Nat) (q : Bool) (h : n ≠ 0) :
    (⟨seq, .p n, if q then 1 else 0, dist⟩ : Pend) ∈ (putPred x seq dist n q).pend := by
  simp [putPred, h]

/-- Each predicate that PMOV's mask picks is on its way (R101). -/
theorem pmovWrite_pend (x : Fibre) (seq : Nat) (val mask : Word) {n : Nat} (h0 : n ≠ 0) (h16 : n < 16) (hm : mask.getLsbD n = true) :
    (⟨seq, .p n, if val.getLsbD n then 1 else 0, 2⟩ : Pend) ∈ (pmovWrite x seq val mask).pend := by
  let write (x : Fibre) (n : Nat) : Fibre := if n ≠ 0 ∧ mask.getLsbD n then putPred x seq 2 n (val.getLsbD n) else x
  have keeps : ∀ (ns : List Nat) (x : Fibre), ∀ p ∈ x.pend, p ∈ (ns.foldl write x).pend := by
    intro ns
    induction ns with
    | nil => exact fun x p hp => hp
    | cons k ks ih =>
      intro x p hp
      refine ih _ p ?_
      obtain ⟨ps, hps⟩ := putPred_only x seq 2 k (val.getLsbD k)
      dsimp only [write]
      split
      · rw [hps]; exact List.mem_append_left _ hp
      · exact hp
  have writes : ∀ (ns : List Nat) (x : Fibre), n ∈ ns →
      (⟨seq, .p n, if val.getLsbD n then 1 else 0, 2⟩ : Pend) ∈ (ns.foldl write x).pend := by
    intro ns
    induction ns with
    | nil => simp
    | cons k ks ih =>
      intro x hn
      rcases List.mem_cons.mp hn with rfl | hn
      · refine keeps ks _ _ ?_
        simp only [write, h0, hm, ne_eq, not_false_eq_true, and_self, if_true]
        exact putPred_pend x seq 2 n _ h0
      · exact ih _ hn
  exact writes (List.range 16) x (List.mem_range.mpr h16)

/-! ### Masks -/

/-- Two masks of the same lanes are the same. -/
theorem mask_ext {m n : Mask} (h : ∀ l, l ∈ lanesOf m ↔ l ∈ lanesOf n) : m = n := by
  apply BitVec.eq_of_getLsbD_eq
  intro l hl
  have h := h l
  simp only [mem_lanesOf, hl, true_and] at h
  exact Bool.eq_iff_iff.mpr h

/-- A mask is not empty when it has a lane. -/
theorem mask_ne_zero {m : Mask} : m ≠ 0 ↔ ∃ l, l ∈ lanesOf m := by
  constructor
  · intro h
    by_contra hn
    refine h (mask_ext fun l => ⟨fun hl => absurd ⟨l, hl⟩ hn, fun hl => ?_⟩)
    simp [mem_lanesOf] at hl
  · rintro ⟨l, hl⟩ rfl
    simp [mem_lanesOf] at hl

/-- The lanes a test on the fibre keeps. -/
theorem mem_filterLanes {g : Group} {m : Mask} {q : Fibre → Bool} {l : Nat} :
    l ∈ lanesOf (g.filterLanes m q) ↔ l ∈ lanesOf m ∧ q (g.fibre l) = true := by
  rw [Group.filterLanes, mem_lanesOf_maskOf, List.mem_filter]
  exact and_iff_left_of_imp fun h => (mem_lanesOf.mp h.1).1

/-- All candidates have the predicate true (R101). -/
theorem votesFor_eq_iff {g : Group} {cands : Mask} {n : Nat} :
    votesFor g cands n = cands ↔ ∀ k ∈ lanesOf cands, (g.fibre k).pred n = true := by
  constructor
  · intro h k hk
    rw [← h] at hk
    exact (mem_filterLanes.mp hk).2
  · intro h
    exact mask_ext fun l => mem_filterLanes.trans (and_iff_left_of_imp (h l))

/-- Some candidate has the predicate true (R101). -/
theorem votesFor_ne_zero_iff {g : Group} {cands : Mask} {n : Nat} :
    votesFor g cands n ≠ 0 ↔ ∃ k ∈ lanesOf cands, (g.fibre k).pred n = true := by
  rw [mask_ne_zero]
  exact exists_congr fun l => mem_filterLanes

/-- A ballot's bits are its lanes (R101). -/
theorem ballot_bit {m : Mask} {k : Nat} : (w64 m.toNat).getLsbD k = true ↔ k ∈ lanesOf m := by
  rw [w64, BitVec.getLsbD_ofNat, mem_lanesOf, BitVec.testBit_toNat]
  constructor
  · intro h
    simp only [Bool.and_eq_true, decide_eq_true_eq] at h
    exact ⟨BitVec.lt_of_getLsbD h.2, h.2⟩
  · intro h
    simp [h.2, Nat.lt_trans h.1 (by decide : 32 < 64)]

/-! ### The words -/

/-- ELECT and PLOP: the results of the rule for the lanes that take part are on their way (R101). -/
theorem predBody_pend {i : Instr} {fn : Group → Mask → Nat → Bool} {s : State} {b : Batch} {g0 g : Group} {p : Mask}
    (h : Alone i alwaysReady noBar s b g0 p) (hg : (entered i s b g0 p).group? g0.gid = some g) (hl : ∀ l ∈ lanesOf p, l < g.fibres.length) :
    ∃ g', (plainWord i (predBody i fn) s).group? g.gid = some g' ∧ ∀ l ∈ lanesOf (g.participants p (fieldsOfInstr i)),
      (fieldsOfInstr i).dst.toNat ≠ 0 →
        (⟨(entered i s b g0 p).nextId, .p (fieldsOfInstr i).dst.toNat, if fn g (g.actors p (fieldsOfInstr i)) l then 1 else 0, 2⟩ : Pend)
          ∈ (g'.fibre l).pend := by
  refine ⟨_, runWord_group h hg rfl (fun x => foldl_modFibre_gid _ id _ x), ?_⟩
  intro l hlm hd
  rw [fibre_foldl_lanes _ g hlm (hl l (participants_present g p _ hlm))]
  exact putPred_pend _ _ _ _ _ hd

/-- The candidates of a word are present. -/
theorem actors_present (g : Group) (p : Mask) (f : Fields) {l : Nat} (h : l ∈ lanesOf (g.actors p f)) : l ∈ lanesOf p :=
  (mem_filterLanes.mp h).1

/-- VOTE all and any: the verdict on the candidates is on its way in each of them (R101). -/
theorem voteBody_pred {f : Fields} {s : State} {b : Batch} {g0 g : Group} {p : Mask} (h : Alone (.vote f) alwaysReady noBar s b g0 p)
    (hg : (entered (.vote f) s b g0 p).group? g0.gid = some g) (hl : ∀ l ∈ lanesOf p, l < g.fibres.length) (hsc : f.sc.toNat % 4 ≠ 2) :
    ∃ g', (plainWord (.vote f) (voteBody f) s).group? g.gid = some g' ∧ ∀ l ∈ lanesOf (g.actors p f), f.dst.toNat ≠ 0 →
      (⟨(entered (.vote f) s b g0 p).nextId, .p f.dst.toNat,
        if (if f.sc.toNat % 4 = 0 then votesFor g (g.actors p f) (f.sa.toNat % 16) == g.actors p f
          else votesFor g (g.actors p f) (f.sa.toNat % 16) != 0) then 1 else 0, 2⟩ : Pend) ∈ (g'.fibre l).pend := by
  have hbody : voteBody f (entered (.vote f) s b g0 p) b g p
      = ((entered (.vote f) s b g0 p).fresh.2.modGroup g.gid fun g1 => (lanesOf (g.actors p f)).foldl (fun g1 l => g1.modFibre l fun x =>
          putPred x (entered (.vote f) s b g0 p).nextId 2 f.dst.toNat
            (if f.sc.toNat % 4 = 0 then votesFor g (g.actors p f) (f.sa.toNat % 16) == g.actors p f
              else votesFor g (g.actors p f) (f.sa.toNat % 16) != 0)) g1, none) := by
    simp only [voteBody, hsc, if_false]
    rfl
  refine ⟨_, runWord_group h hg hbody (fun x => foldl_modFibre_gid _ id _ x), ?_⟩
  intro l hlm hd
  rw [fibre_foldl_lanes _ g hlm (hl l (actors_present g p f hlm))]
  exact putPred_pend _ _ _ _ _ hd

/-- VOTE ballot: the candidates' bits are on their way in each of them (R101). -/
theorem voteBody_ballot {f : Fields} {s : State} {b : Batch} {g0 g : Group} {p : Mask} (h : Alone (.vote f) alwaysReady noBar s b g0 p)
    (hg : (entered (.vote f) s b g0 p).group? g0.gid = some g) (hl : ∀ l ∈ lanesOf p, l < g.fibres.length) (hsc : f.sc.toNat % 4 = 2) :
    ∃ g', (plainWord (.vote f) (voteBody f) s).group? g.gid = some g' ∧ ∀ l ∈ lanesOf (g.actors p f), ∀ d, dstAt g f.dst.toNat = some d →
      (⟨(entered (.vote f) s b g0 p).nextId, d, w64 (votesFor g (g.actors p f) (f.sa.toNat % 16)).toNat, 2⟩ : Pend) ∈ (g'.fibre l).pend := by
  have hbody : voteBody f (entered (.vote f) s b g0 p) b g p
      = ((entered (.vote f) s b g0 p).fresh.2.modGroup g.gid fun g1 =>
          (lanesOf (p &&& ~~~g.actors p f)).foldl (fun g1 l => g1.modFibre l fun x =>
            putSkipped (entered (.vote f) s b g0 p).fresh.2 g x l (entered (.vote f) s b g0 p).nextId 2 f.dst.toNat)
          ((lanesOf (g.actors p f)).foldl (fun g1 l => g1.modFibre l fun x => putFixed g x (entered (.vote f) s b g0 p).nextId 2 f.dst.toNat
            (w64 (votesFor g (g.actors p f) (f.sa.toNat % 16)).toNat) true) g1), none) := by
    simp only [voteBody, hsc, if_true]
    rfl
  refine ⟨_, runWord_group h hg hbody (fun x => (foldl_modFibre_gid _ id _ _).trans (foldl_modFibre_gid _ id _ x)), ?_⟩
  intro l hlm d hd
  rw [fibre_foldl_other _ _ (fun hn => (mem_lanesOf_and_not hn).2 hlm), fibre_foldl_lanes _ g hlm (hl l (actors_present g p f hlm))]
  exact putFixed_pend _ _ _ _ _ _ _ hd

/-- PMOV from a register: each predicate that the mask selects is on its way (R101). -/
theorem pmovBody_pend {f : Fields} {s : State} {b : Batch} {g0 g : Group} {p : Mask} (h : Alone (.pmov f) alwaysReady noBar s b g0 p)
    (hg : (entered (.pmov f) s b g0 p).group? g0.gid = some g) (hl : ∀ l ∈ lanesOf p, l < g.fibres.length) (hsc : f.sc.getLsbD 0 = true) :
    ∃ g', (plainWord (.pmov f) (pmovBody f) s).group? g.gid = some g' ∧ ∀ l ∈ lanesOf (g.participants p f), ∀ n, 1 ≤ n → n < 16 →
      (srcB (entered (.pmov f) s b g0 p) (srcCtx (entered (.pmov f) s b g0 p) b g) g l (.pmov f)).getLsbD n = true →
      (⟨(entered (.pmov f) s b g0 p).nextId, .p n,
        if (srcA (entered (.pmov f) s b g0 p) (srcCtx (entered (.pmov f) s b g0 p) b g) g l (.pmov f)).getLsbD n then 1 else 0, 2⟩ : Pend)
        ∈ (g'.fibre l).pend := by
  generalize he : entered (.pmov f) s b g0 p = e at hg
  have hbody : pmovBody f e b g p
      = (e.fresh.2.modGroup g.gid fun g1 => (lanesOf (g.participants p f)).foldl (fun g1 l => g1.modFibre l fun x =>
          pmovWrite x e.nextId (srcA e (srcCtx e b g) g l (.pmov f)) (srcB e (srcCtx e b g) g l (.pmov f))) g1, none) := by
    simp only [pmovBody, hsc, if_true]
    rfl
  subst he
  refine ⟨_, runWord_group h hg hbody (fun x => foldl_modFibre_gid _ id _ x), ?_⟩
  intro l hlm n h1 h16 hn
  rw [fibre_foldl_lanes _ g hlm (hl l (participants_present g p _ hlm))]
  exact pmovWrite_pend _ _ _ _ (Nat.ne_of_gt h1) h16 hn

/-! ### Results without flags -/

/-- No flag raised, no trap (R34). -/
theorem flagTrap_none (b : Batch) (g : Group) (ls : List Nat) : flagTrap b g (flagHits g (ls.map fun l => (l, 0))) = none := by
  have hz : flagHits g (ls.map fun l => (l, 0)) = [] := by
    simp [flagHits, enabledFlags]
  rw [hz]
  rfl

/-- A fixed-latency word whose results raise no flag leaves them on their way (R83). -/
theorem fixedWord_post {i : Instr} {s : State} {b : Batch} {g0 g : Group} {p : Mask} {body : BodyFn} (fn : LaneIn → LaneOut)
    (hfl : ∀ x, (fn x).flags = 0) (h : Alone i alwaysReady noBar s b g0 p) (hg : (entered i s b g0 p).group? g0.gid = some g)
    (hl : ∀ l ∈ lanesOf p, l < g.fibres.length) (hbody : body (entered i s b g0 p) b g p = fixedBody i fn (entered i s b g0 p) b g p) :
    FixedPost i fn (entered i s b g0 p) b g p (plainWord i body s) := by
  obtain ⟨F, tr, hfix, hF, -, -, -, hpost, htr⟩ := fixedBody_spec i fn (entered i s b g0 p) b g p hl
  have htr : tr = none := by
    rw [htr]
    simp only [hfl, flagTrap_none]
    split
    · split <;> rfl
    · rfl
  rw [hfix, htr] at hbody
  exact ⟨F g, _, runWord_group h hg hbody hF, hpost⟩

/-- Settles O26: each word is the change of its group that `predBody_pend`, `voteBody_pred`, `voteBody_ballot`, `pmovBody_pend` or
`fixedWord_post` states. -/
theorem predicateWordsResult : Obligations.PredicateWordsResult := by
  unfold Obligations.PredicateWordsResult
  refine ⟨?elect, ?vote, ?plop, ?bit, ?toReg, ?fromReg, ?live⟩
  case elect =>
    intro f s b g0 p g h hg hl _
    obtain ⟨g', ht, hp⟩ := predBody_pend (fn := fun _ cands l => lowestLane cands == some l) h hg hl
    simp only [beq_iff_eq] at hp
    exact ⟨_, rfl, g', ht, hp⟩
  case vote =>
    intro f s b g0 p g h hg hl _
    refine ⟨_, rfl, ?_⟩
    by_cases hsc : f.sc.toNat % 4 = 2
    · obtain ⟨g', ht, hp⟩ := voteBody_ballot h hg hl hsc
      refine ⟨g', ht, fun l hlm => ⟨fun h0 => ?_, fun h1 => ?_, fun _ d hd => ⟨_, hp l hlm d hd, fun k => ?_⟩⟩⟩
      · omega
      · omega
      · exact ballot_bit.trans mem_filterLanes
    · obtain ⟨g', ht, hp⟩ := voteBody_pred h hg hl hsc
      refine ⟨g', ht, fun l hlm => ⟨fun h0 hd => ?_, fun h1 hd => ?_, fun h2 => absurd h2 hsc⟩⟩
      · simpa [h0, votesFor_eq_iff] using hp l hlm hd
      · simpa only [h1, one_ne_zero, if_false, bne_iff_ne, votesFor_ne_zero_iff] using hp l hlm hd
  case plop =>
    intro f s b g0 p g h hg hl _
    obtain ⟨g', ht, hp⟩ := predBody_pend (fn := fun g _ l => plopBit f (g.fibre l)) h hg hl
    exact ⟨_, rfl, g', ht, hp⟩
  case bit =>
    intro f x
    rfl
  case toReg =>
    intro f hsc s b g0 p g h hg hl _
    exact ⟨_, rfl, fixedWord_post _ (fun _ => rfl) h hg hl (by simp only [pmovBody, hsc, Bool.false_eq_true, if_false])⟩
  case fromReg =>
    intro f hsc s b g0 p g h hg hl _
    obtain ⟨g', ht, hp⟩ := pmovBody_pend h hg hl hsc
    exact ⟨_, rfl, g', ht, hp⟩
  case live =>
    intro f s b g0 p g h hg hl _
    exact ⟨_, rfl, fixedWord_post _ (fun _ => rfl) h hg hl rfl⟩

end Sys2Proof.Machine
end

section
/-! O24: LOOP, LOOP_PASS_END and REP. LOOP and a pass end leave a batch of one group at a word, from where `skipSpent` moves it on only
if its innermost level is spent. -/

namespace Sys2Proof.Machine

/-! ### The lanes that a loop level keeps -/

/-- A level with passes left keeps the lanes that the outer levels keep (R89). -/
theorem present_push_ne_zero {m : Member} {l : LoopLvl} (h : m.present false ≠ 0) (hl : l.count ≠ 0) :
    ({ m with loops := l :: m.loops } : Member).present false ≠ 0 := by
  unfold Member.present at h ⊢
  simpa [Nat.pos_iff_ne_zero, hl] using h

/-- A spent level keeps every lane of its group absent (R89). -/
theorem present_push_eq_zero (m : Member) {l : LoopLvl} (hl : l.count = 0) : ({ m with loops := l :: m.loops } : Member).present false = 0 := by
  simp [Member.present, hl]

/-- While no level is spent the lanes of a member are present (R89). -/
theorem present_of_counts {m : Member} (h : ∀ l ∈ m.loops, l.count > 0) : m.present false = m.lanes := by
  unfold Member.present
  rw [List.all_eq_true.mpr fun l hl => decide_eq_true (h l hl)]
  simp

/-! ### A spent level is skipped -/

/-- A batch with a lane present stays where it stands. -/
theorem skipSpent_present {s : State} {id : Nat} {b : Batch} {m : Member} (hb : s.batch? id = some b) (hm : b.members = [m])
    (hp : m.present false ≠ 0) : skipSpent s id = s := by
  have hall : ([m].all fun m => m.present false == 0) = false := by simpa using hp
  simp only [skipSpent, hb, hm]
  split
  · rw [if_neg (by rw [hall]; exact Bool.false_ne_true)]
  · rfl

/-- A batch with no lane present goes on at the word after its innermost body, where that lies in the segment (R89). -/
theorem skipSpent_spent {s : State} {id : Nat} {b : Batch} {m : Member} {l : LoopLvl} {rest : List LoopLvl} {g : Group}
    (hb : s.batch? id = some b) (hm : b.members = [m]) (hp : m.present false = 0) (hl : m.loops = l :: rest)
    (hg : s.group? m.gid = some g) (hlen : l.last < segLen s b g.ctx) :
    skipSpent s id = s.modBatch id fun b => { b with woff := l.last } := by
  have hall : (b.members.all fun m => m.present false == 0) = true := by simp [hm, hp]
  unfold segLen at hlen
  cases ho : s.object? g.ctx b.obj with
  | none => simp [ho] at hlen
  | some o =>
    simp only [ho] at hlen
    simp only [hm] at hall
    simp only [skipSpent, hb, hm, hl, hg, ho, hall, if_true, if_neg (Nat.not_le.mpr hlen)]

/-- Whether or not it is skipped, the batch keeps its members. -/
theorem skipSpent_members {s : State} {id : Nat} {b : Batch} (hb : s.batch? id = some b) :
    ∃ b', (skipSpent s id).batch? id = some b' ∧ b'.members = b.members := by
  unfold skipSpent
  repeat' split
  all_goals first
    | exact ⟨_, hb, rfl⟩
    | exact ⟨_, batch_modBatch_some hb fun _ => rfl, rfl⟩

/-! ### LOOP -/

/-- A member with a LOOP's level of a count. -/
def Member.withLevel (m : Member) (f : Fields) (b : Batch) (n : Nat) : Member :=
  { m with loops := ⟨n, b.woff + wordCount (.loop f), (imm18 f).toNat % 1024 + 1⟩ :: m.loops }

/-- The count that a LOOP gives a member: that of its lowest present lane (R98). -/
def loopCount (f : Fields) (s : State) (b : Batch) (m : Member) : Nat :=
  match s.group? m.gid, lowestLane (m.present false) with
  | some g, some l => (srcA s (srcCtx s b g) g l (.loop f)).toNat
  | _, _ => 0

/-- Every member of a batch takes a LOOP's level. -/
def pushLevels (f : Fields) (s : State) (id : Nat) (b : Batch) : State :=
  s.modBatch id fun x => { x with members := x.members.map fun m => m.withLevel f b (loopCount f s b m) }

/-- A LOOP that has issued pushes its level and stands at the body, where `skipSpent` looks at it (R98). -/
theorem loopFin_eq {f : Fields} {s : State} {id : Nat} {b : Batch} (hb : s.batch? id = some b) :
    loopFin f s id = skipSpent (advanceBatch (pushLevels f s id b) id (.loop f)) id := by
  simp only [loopFin, hb]
  rfl

/-- What a LOOP leaves of its batch: the level, and the place that its count calls for (R98). -/
theorem loopFin_spec {f : Fields} {s : State} {id : Nat} {b : Batch} {g : Group} {m : Member} (hb : s.batch? id = some b)
    (hrep : b.rep = none) (hm : b.members = [m]) (hg : s.group? m.gid = some g) (hp : m.present false ≠ 0) :
    ∃ b', (loopFin f s id).batch? id = some b' ∧ b'.members = [m.withLevel f b (loopCount f s b m)]
      ∧ (loopCount f s b m ≠ 0 → b'.woff = b.woff + wordCount (.loop f))
      ∧ (loopCount f s b m = 0 → b.woff + wordCount (.loop f) + ((imm18 f).toNat % 1024 + 1) < segLen s b g.ctx →
          b'.woff = b.woff + wordCount (.loop f) + ((imm18 f).toNat % 1024 + 1)) := by
  have hpush : (pushLevels f s id b).batch? id = some { b with members := b.members.map fun m => m.withLevel f b (loopCount f s b m) } :=
    batch_modBatch_some hb fun _ => rfl
  rw [hm, List.map_cons, List.map_nil] at hpush
  have hw := batch_advanceBatch (.loop f) hpush hrep
  rw [loopFin_eq hb]
  by_cases h0 : loopCount f s b m = 0
  · obtain ⟨b', hb', hmem⟩ := skipSpent_members hw
    refine ⟨b', hb', hmem, fun h => absurd h0 h, fun _ hlast => ?_⟩
    rw [skipSpent_spent hw rfl (present_push_eq_zero m h0) rfl hg hlast, batch_modBatch_some hw (by intro _; rfl)] at hb'
    rw [← Option.some.inj hb']
    rfl
  · rw [skipSpent_present hw rfl (present_push_ne_zero hp h0)]
    exact ⟨_, hw, rfl, fun _ => rfl, fun h => absurd h h0⟩

/-! ### LOOP_PASS_END -/

/-- A batch of one group at the end of its innermost body starts the body again, or leaves the level (R98). -/
theorem passEnd_batch {s : State} {b : Batch} {m : Member} {l : LoopLvl} {rest : List LoopLvl} (hb : s.batch? b.id = some b)
    (hm : b.members = [m]) (hl : m.loops = l :: rest) (hrep : b.rep = none) (hw : b.woff = l.first + l.len) :
    (passEnd s b.id).batch? b.id = some (if l.count ≥ 2 then
        { b with members := [{ m with loops := { l with count := l.count - 1 } :: rest }], woff := l.first }
      else { b with members := [{ m with loops := rest }] }) := by
  have hend : b.atPassEnd = true := by simp [Batch.atPassEnd, hrep, hm, hl, LoopLvl.last, hw]
  simp only [passEnd, hb, hend, Bool.not_true, Bool.false_eq_true, if_false]
  rw [batch_modBatch_some hb fun x => by split <;> rfl]
  simp only [hm, List.any_cons, List.any_nil, Bool.or_false, hl, decide_eq_true_eq, List.map_cons, List.map_nil, List.tail_cons]

/-! ### REP -/

/-- A step code of REP is two bits of its immediate (R99). -/
theorem repStep_eq (f : Fields) (j : Nat) : repStep f j = repStepOf ((imm18 f).toNat / 2 ^ (6 + 2 * j) % 4) := by
  rw [repStep, bitsN, Nat.shiftRight_eq_div_pow, show 2 ^ 2 = 4 from rfl]

/-- A REP that has issued leaves its batch at the next word with its repeats to go (R99). -/
theorem repFin_batch {f : Fields} {s : State} {id : Nat} {b : Batch} {m : Member} (hb : s.batch? id = some b) (hrep : b.rep = none)
    (hm : b.members = [m]) :
    ∃ b' r, (repFin f s id).batch? id = some b' ∧ b'.rep = some r ∧ b'.woff = b.woff + wordCount (.rep f)
      ∧ r.left = (imm18 f).toNat % 64 + 1 ∧ r.done = 0
      ∧ r.sd = repStepOf ((imm18 f).toNat / 2 ^ 6 % 4) ∧ r.sa = repStepOf ((imm18 f).toNat / 2 ^ 8 % 4)
      ∧ r.sb = repStepOf ((imm18 f).toNat / 2 ^ 10 % 4) ∧ r.sc = repStepOf ((imm18 f).toNat / 2 ^ 12 % 4) := by
  have hadv := batch_advanceBatch (.rep f) hb hrep
  have hmem : (b.past (.rep f) s.clock).members = [m] := hm
  simp only [repFin, hadv, hmem]
  exact ⟨_, _, batch_modBatch_some hadv fun _ => rfl, rfl, rfl, rfl, rfl,
    repStep_eq f 0, repStep_eq f 1, repStep_eq f 2, repStep_eq f 3⟩

/-- Settles O24: `loopFin_spec`, `passEnd_batch` and `repFin_batch` say what the three leave of the batch, and a level that is not spent
leaves it there. -/
theorem loopAndRepeatSetTheirCounts : Obligations.LoopAndRepeatSetTheirCounts := by
  unfold Obligations.LoopAndRepeatSetTheirCounts
  refine ⟨?loop, ?passEnd, ?rep, rfl, rfl, rfl, rfl⟩
  case loop =>
    intro f s b g0 p g h hg _ ⟨hb, hrep⟩
    refine ⟨_, congrArg Host.Outcome.next (run_untrapped h hg rfl _), fun l0 hl0 => ?_⟩
    obtain ⟨m, hm, hgid, hp⟩ := h.member rfl hg
    obtain ⟨bs, st, hnote, hbn⟩ := noteIssue_spec s.nextId (.loop f) hb
    have hgm : (noteIssue s.nextId (entered (.loop f) s b g0 p) b (.loop f)).group? m.gid = some g := by
      rw [noteIssue_group_at, hgid, group_gid hg]
      exact hg
    obtain ⟨b', hb', hmem, hne, heq⟩ := loopFin_spec (f := f) hbn hrep hm hgm (by rw [hp]; exact h.present)
    have hcount : loopCount f (noteIssue s.nextId (entered (.loop f) s b g0 p) b (.loop f)) (b.noted (entered (.loop f) s b g0 p).clock s.nextId) m
        = (srcA (entered (.loop f) s b g0 p) (srcCtx (entered (.loop f) s b g0 p) b g) g l0 (.loop f)).toNat := by
      rw [loopCount, hgm, hp, hl0, hnote]
      rfl
    have hlen : segLen (noteIssue s.nextId (entered (.loop f) s b g0 p) b (.loop f)) (b.noted (entered (.loop f) s b g0 p).clock s.nextId) g.ctx
        = segLen (entered (.loop f) s b g0 p) b g.ctx := by
      rw [hnote]
      rfl
    rw [hcount] at hmem hne heq
    rw [hlen] at heq
    exact ⟨b', m, _, hb', hm, hmem, rfl, hne, heq⟩
  case passEnd =>
    intro s b m l rest hb hm hlanes hl hrep hw hrest
    have hpass := passEnd_batch hb hm hl hrep hw
    by_cases h2 : l.count ≥ 2
    · rw [if_pos h2] at hpass
      have hskip : skipSpent (passEnd s b.id) b.id = passEnd s b.id := by
        refine skipSpent_present hpass rfl ?_
        rw [present_of_counts (by simpa using ⟨by omega, hrest⟩)]
        exact hlanes
      exact ⟨_, _, _, congrArg Host.Outcome.next hskip, hpass, rfl, fun _ => ⟨rfl, rfl⟩, fun h => absurd h2 (by omega)⟩
    · rw [if_neg h2] at hpass
      have hskip : skipSpent (passEnd s b.id) b.id = passEnd s b.id := by
        refine skipSpent_present hpass rfl ?_
        rw [present_of_counts (by simpa using hrest)]
        exact hlanes
      exact ⟨_, _, _, congrArg Host.Outcome.next hskip, hpass, rfl, fun h => absurd h h2, fun _ => ⟨rfl, rfl⟩⟩
  case rep =>
    intro f s b g0 p g h hg _ ⟨hb, hrep⟩
    obtain ⟨m, hm, -, -⟩ := h.members
    obtain ⟨_, _, -, hbn⟩ := noteIssue_spec s.nextId (.rep f) hb
    have hfin := repFin_batch (f := f) hbn hrep hm
    exact ⟨_, congrArg Host.Outcome.next (run_untrapped h hg rfl _), hfin⟩

end Sys2Proof.Machine
end

section
/-! O25: BAR, BARA and BARW. An arrival of a whole group is one change of its block's barrier; what is said of the batch afterwards rests on
a release, an acquire and the count of arrivals leaving the batches alone. -/

namespace Sys2Proof.Machine

/-! ### Elements of a list -/

theorem nth_set_same {α : Type} [Inhabited α] (xs : List α) {n : Nat} (x : α) (h : n < xs.length) : nth (xs.set n x) n = x := by
  simp [nth, h]

theorem nth_map_of_lt {α β : Type} [Inhabited α] [Inhabited β] (f : α → β) {xs : List α} {n : Nat} (h : n < xs.length) :
    nth (xs.map f) n = f (nth xs n) := by
  simp [nth, h]

/-! ### Releases and acquires of a group's lanes -/

theorem foldl_sameButStores {α : Type} {f : State → α → State} (hf : ∀ s x, SameButStores s (f s x)) (xs : List α) (s : State) :
    SameButStores s (xs.foldl f s) := by
  induction xs generalizing s with
  | nil => exact .refl s
  | cons x xs ih => exact (hf s x).trans (ih _)

/-- The end of a wait at a barrier leaves the batches alone. -/
theorem endBarWait_batches (idx : Nat) (seen : Arrive → Option Nat) (s : State) (g : Group) (lanes : Mask) :
    (endBarWait idx seen s g lanes).batches = s.batches := by
  unfold endBarWait
  split
  · rfl
  · exact (foldl_sameButStores (fun s l => acquireAt_sameButStores s g.core g.ctx g.gid l .block) (lanesOf lanes) s).batches

/-! ### The arrival of a whole group -/

/-- A phase with its count, after one more arrival. -/
def Barrier.arrival (x : Barrier) (n : Nat) : Barrier := { x with expected := some n, arrived := x.arrived + 1 }

/-- A phase whose arrivals reach its count turns, and one short of it goes on (R100). -/
theorem turned_arrival {x : Barrier} (n live : Nat) (hz : x.zero = false) :
    (x.arrived + 1 ≥ n → ((x.arrival n).turned live).phase = x.phase + 1 ∧ ((x.arrival n).turned live).arrived = 0)
    ∧ (x.arrived + 1 < n → ((x.arrival n).turned live).phase = x.phase ∧ ((x.arrival n).turned live).arrived = x.arrived + 1
        ∧ ((x.arrival n).turned live).expected = some n) := by
  constructor <;> intro h
  · simp [Barrier.turned, Barrier.arrival, hz, h]
  · simp [Barrier.turned, Barrier.arrival, hz, Nat.not_le.mpr h]

/-- The count of the phase that a group arrives in: the phase's own, or the one this word's lanes all give (R100). -/
def countIs (i : Instr) (s : State) (b : Batch) (g : Group) (p : Mask) (blk : Block) (n : Nat) : Prop :=
  (nth blk.bars (barIdx i)).expected = some n
    ∨ ((nth blk.bars (barIdx i)).expected = none ∧ ∀ l ∈ lanesOf (g.actors p (fieldsOfInstr i)), barCount i s b g l = some n)

/-- The barrier of a phase once the arriving word's lowest lane has set its count (R100). -/
def Barrier.withCount (x : Barrier) (i : Instr) (s : State) (b : Batch) (g : Group) (l0 : Nat) : Barrier :=
  if (barSet x).isSome then x
  else match barCount i s b g l0 with
    | some n => { x with expected := some n, zero := false }
    | none => { x with expected := some 32, zero := true }

theorem withCount_of_countIs {i : Instr} {s : State} {b : Batch} {g : Group} {p : Mask} {blk : Block} {n l0 : Nat}
    (hz : (nth blk.bars (barIdx i)).zero = false) (hn : countIs i s b g p blk n) (hl0 : l0 ∈ lanesOf (g.actors p (fieldsOfInstr i))) :
    (nth blk.bars (barIdx i)).withCount i s b g l0 = { nth blk.bars (barIdx i) with expected := some n } := by
  rcases hn with hn | ⟨hnone, hlanes⟩
  · have hset : (barSet (nth blk.bars (barIdx i))).isSome = true := by simp [barSet, hz, hn]
    rw [Barrier.withCount, if_pos hset, ← hn]
  · have hset : ¬ (barSet (nth blk.bars (barIdx i))).isSome = true := by simp [barSet, hz, hnone]
    rw [Barrier.withCount, if_neg hset, hlanes l0 hl0, ← hz]

/-- An arrival of the last missing workers: releases, a change of the group, and one more arrival at the barrier, which may turn
(R100, R144). -/
theorem arriveBlock_full {i : Instr} {s : State} {b : Batch} {g : Group} {p : Mask} {blk : Block} {l0 : Nat}
    (hl0 : lowestLane (g.actors p (fieldsOfInstr i)) = some l0) (hblk : s.block? g.bid = some blk)
    (hfull : (g.workers &&& ~~~((arriveOf g.bars (barIdx i)).lanes ||| g.actors p (fieldsOfInstr i)) == 0) = true) :
    ∃ s' F, arriveBlock i s b g p = recountBarriers ((s'.modGroup g.gid F).modBlock g.bid fun blk' =>
      { blk' with bars := blk'.bars.set (barIdx i) { (nth blk.bars (barIdx i)).withCount i s b g l0 with
          arrived := ((nth blk.bars (barIdx i)).withCount i s b g l0).arrived + 1 } }) g.bid ∧ SameButStores s s' := by
  simp only [arriveBlock, hl0, hblk, hfull, if_true]
  exact ⟨_, _, rfl, foldl_sameButStores (fun s l => releaseAt_sameButStores s g.core g.ctx g.gid l .block)
    (lanesOf (g.actors p (fieldsOfInstr i))) s⟩

/-- All workers of a group arrive in a phase with a count: the block's barrier counts one arrival, or turns, and the batches stay
(R100). -/
theorem arriveBlock_whole {i : Instr} {s : State} {b : Batch} {g : Group} {p : Mask} {blk : Block} {n : Nat} (hblk : s.block? g.bid = some blk)
    (hne : g.workers ≠ 0) (hall : g.actors p (fieldsOfInstr i) = g.workers) (hidx : barIdx i < blk.bars.length)
    (hz : (nth blk.bars (barIdx i)).zero = false) (hn : countIs i s b g p blk n) :
    (arriveBlock i s b g p).batches = s.batches
    ∧ ∃ blk' live, (arriveBlock i s b g p).block? g.bid = some blk'
      ∧ nth blk'.bars (barIdx i) = ((nth blk.bars (barIdx i)).arrival n).turned live := by
  obtain ⟨l0, hl0⟩ : ∃ l0, lowestLane (g.actors p (fieldsOfInstr i)) = some l0 := by
    obtain ⟨l, hl⟩ := mask_ne_zero.mp (hall ▸ hne)
    exact ⟨_, List.head?_eq_some_head (List.ne_nil_of_mem hl)⟩
  have hfull : (g.workers &&& ~~~((arriveOf g.bars (barIdx i)).lanes ||| g.actors p (fieldsOfInstr i)) == 0) = true := by
    rw [hall, beq_iff_eq, BitVec.not_or]
    ext k hk
    simp only [BitVec.getElem_and, BitVec.getElem_not]
    cases g.workers[k] <;> simp
  obtain ⟨s', F, harr, hs'⟩ := arriveBlock_full (b := b) hl0 hblk hfull
  rw [withCount_of_countIs hz hn (List.mem_of_mem_head? hl0)] at harr
  rw [harr]
  refine ⟨hs'.batches, ?_⟩
  have hblk' : (s'.modGroup g.gid F).block? g.bid = some blk := by
    rw [modGroup_block_at, State.block?, hs'.blocks]
    exact hblk
  unfold recountBarriers
  dsimp only
  generalize (liveGroups _ g.bid).length = live
  rw [block_modBlock_same _ g.bid _ (by intro _; rfl), block_modBlock_same _ g.bid _ (by intro _; rfl), hblk']
  refine ⟨_, live, rfl, ?_⟩
  dsimp only
  rw [nth_map_of_lt _ (by simpa using hidx), nth_set_same _ _ hidx]
  rfl

/-! ### The batch after the word -/

/-- A batch that moves on has no wait, and outside a REP stands at the word after. -/
theorem advanceBatch_some {s : State} {id : Nat} {b : Batch} (i : Instr) (h : s.batch? id = some b) :
    ∃ b', (advanceBatch s id i).batch? id = some b' ∧ b'.wait = none ∧ (b.rep = none → b'.woff = b.woff + wordCount i) := by
  refine ⟨_, batch_modBatch_some h fun x => by dsimp only; split <;> [split; skip] <;> rfl, ?_⟩
  cases hrep : b.rep with
  | none => exact ⟨rfl, fun _ => rfl⟩
  | some r =>
    dsimp only
    split
    · exact ⟨rfl, fun h => nomatch h⟩
    · exact ⟨rfl, fun h => nomatch h⟩

theorem noteIssue_block_at (start : Nat) (s : State) (b : Batch) (i : Instr) (n : Nat) : (noteIssue start s b i).block? n = s.block? n := by
  obtain ⟨bs, st, h⟩ := noteIssue_eq start s b i
  rw [h]
  rfl

/-- A batch that comes to a barrier stays at its word and waits. -/
theorem barFin_waits {i : Instr} {phases : State → Batch → List (Nat × Nat)} {b x : Batch} {s : State} {id : Nat} (hb : b.wait = none)
    (hx : s.batch? id = some x) :
    (barFin i phases (some b) s id).batch? id = some { x with wait := some (.bar (barIdx i) (phases s x)), waitSince := s.clock } := by
  have hw : b.barWait = none := by simp [Batch.barWait, hb]
  simp only [barFin, hw, Option.isSome_none, Bool.false_eq_true, if_false]
  exact batch_modBatch_some hx fun _ => rfl

/-- The phase that a BARW of a batch of one group waits out. -/
theorem barwPhases_one {i : Instr} {s : State} {b : Batch} {m : Member} {g : Group} (hm : b.members = [m]) (hg : s.group? m.gid = some g) :
    barwPhases i s b = [(g.gid, match (arriveOf g.bars (barIdx i)).phase with
      | some q => if (arriveOf g.bars (barIdx i)).observed = some q then (nth ((s.block? g.bid).getD default).bars (barIdx i)).phase else q
      | none => (nth ((s.block? g.bid).getD default).bars (barIdx i)).phase)] := by
  simp only [barwPhases, hm, List.filterMap_cons, List.filterMap_nil, hg]
  cases (arriveOf g.bars (barIdx i)).phase <;> rfl

/-! ### A batch that waits -/

/-- The word of a batch of one group that waits in it, and that nothing holds any longer: no part of it counts again. -/
theorem run_waiting {i : Instr} {ready : ReadyFn} {bar : BarFn} {s u : State} {b : Batch} {m : Member} {g : Group} {body : BodyFn}
    (hslot : issuerBatch s = some b) (hwait : b.wait.isSome = true) (hm : b.members = [m]) (hp : m.present (isEnd i) ≠ 0)
    (hg : s.group? m.gid = some g) (hsat : satFails i = false) (hmay : fullVerdict i ready bar s b g (m.present (isEnd i)) = .ok)
    (hbody : body s b g (m.present (isEnd i)) = (u, none)) (fin : State → Nat → State) :
    runWordThen i ready bar body fin s = (fin (noteIssue s.nextId u b i) b.id).unissue := by
  have htick : tickBatch s b = s := by simp only [tickBatch, hwait, if_true]
  have hmembers : wordMembers b i = [(m.gid, m.present (isEnd i))] := by simpa [wordMembers, hm] using hp
  have hfails : batchFails i s b = none := by simp [batchFails, hsat, hmembers, hg, windowFails_of_may hmay]
  have hv : verdicts i ready bar s b = [(m.gid, m.present (isEnd i), .ok)] := by
    simp only [verdicts, hfails, hmembers, List.map_cons, List.map_nil, hg, hmay]
  have hwaits : anyWait [(m.gid, m.present (isEnd i), Verdict.ok)] = false := rfl
  have htraps : ([(m.gid, m.present (isEnd i), Verdict.ok)].filter fun v => v.2.2 != Verdict.ok) = [] := rfl
  have hoks : ([(m.gid, m.present (isEnd i), Verdict.ok)].filter fun v => v.2.2 == Verdict.ok) = [(m.gid, m.present (isEnd i), .ok)] := rfl
  have hcount : countWord s b i [(m.gid, m.present (isEnd i), .ok)] = s := by simp only [countWord, hwait, if_true]
  simp only [runWordThen, hslot, htick, hv, hwaits, Bool.false_eq_true, if_false, htraps, hoks, List.foldl_nil, List.foldl_cons, hcount,
    issueGroup, hg, hwait, if_true, hbody]

/-- A batch whose wait at a barrier is over goes on past the word (R100). -/
theorem barWait_ends {i : Instr} {ready : ReadyFn} {bar : BarFn} {s u : State} {b : Batch} {m : Member} {g : Group} {body : BodyFn}
    {ps : List (Nat × Nat)} {phases : State → Batch → List (Nat × Nat)} {idx : Nat} {seen : Arrive → Option Nat} {lanes : Mask}
    (hslot : issuerBatch s = some b) (hb : s.batch? b.id = some b) (hwait : b.wait = some (.bar idx ps)) (hm : b.members = [m])
    (hp : m.present (isEnd i) ≠ 0) (hg : s.group? m.gid = some g) (hsat : satFails i = false)
    (hmay : fullVerdict i ready bar s b g (m.present (isEnd i)) = .ok) (hu : u = endBarWait idx seen s g lanes)
    (hbody : body s b g (m.present (isEnd i)) = (u, none)) :
    ∃ t b', runWordThen i ready bar body (barFin i phases (issuerBatch s)) s = t ∧ t.issue = none ∧ t.batch? b.id = some b' ∧ b'.wait = none
      ∧ (b.rep = none → b'.woff = b.woff + wordCount i) := by
  have hub : u.batch? b.id = some b := by rw [hu, State.batch?, endBarWait_batches]; exact hb
  obtain ⟨_, _, -, hnote⟩ := noteIssue_spec s.nextId i hub
  obtain ⟨b', hb', hnone, hwoff⟩ := advanceBatch_some i hnote
  refine ⟨_, b', run_waiting hslot (by rw [hwait]; rfl) hm hp hg hsat hmay hbody _, rfl, ?_, hnone, hwoff⟩
  rw [hslot]
  simp only [barFin, Batch.barWait, hwait, Option.isSome_some, if_true]
  exact hb'

/-- Moving a batch on, or making it wait, leaves the blocks alone. -/
theorem barFin_blocks {i : Instr} {phases : State → Batch → List (Nat × Nat)} {b0 : Option Batch} {s : State} {id : Nat} :
    (barFin i phases b0 s id).blocks = s.blocks := by
  unfold barFin
  cases b0 with
  | none => rfl
  | some b =>
    dsimp only
    split <;> rfl

/-- What the two arriving words leave of the block's barrier (R100). -/
theorem arriveBlock_turns {i : Instr} {s : State} {b : Batch} {g : Group} {p : Mask} {blk : Block} {n : Nat} (hblk : s.block? g.bid = some blk)
    (hne : g.workers ≠ 0) (hall : g.actors p (fieldsOfInstr i) = g.workers) (hidx : barIdx i < blk.bars.length)
    (hz : (nth blk.bars (barIdx i)).zero = false) (hn : countIs i s b g p blk n) :
    ∃ blk', (arriveBlock i s b g p).block? g.bid = some blk'
      ∧ ((nth blk.bars (barIdx i)).arrived + 1 ≥ n →
          (nth blk'.bars (barIdx i)).phase = (nth blk.bars (barIdx i)).phase + 1 ∧ (nth blk'.bars (barIdx i)).arrived = 0)
      ∧ ((nth blk.bars (barIdx i)).arrived + 1 < n →
          (nth blk'.bars (barIdx i)).phase = (nth blk.bars (barIdx i)).phase
            ∧ (nth blk'.bars (barIdx i)).arrived = (nth blk.bars (barIdx i)).arrived + 1 ∧ (nth blk'.bars (barIdx i)).expected = some n) := by
  obtain ⟨-, blk', live, hblk', hx⟩ := arriveBlock_whole hblk hne hall hidx hz hn
  obtain ⟨hturn, hgo⟩ := turned_arrival n live hz
  exact ⟨blk', hblk', by rw [hx]; exact hturn, by rw [hx]; exact hgo⟩

/-- Settles O25: `arriveBlock_turns` says what becomes of the barrier, `barFin_waits`, `advanceBatch_some` and `barWait_ends` what becomes of
the batch. -/
theorem blockBarrierArrivals : Obligations.BlockBarrierArrivals := by
  unfold Obligations.BlockBarrierArrivals
  refine ⟨?arrive, ?barw, ?ends⟩
  case arrive =>
    intro i f hi ready hbar hbara s b g0 p g h hg _ ⟨hb, hne, hall, _, blk0, _, hblk0, hidx, hz, _, hcount⟩
    have hbatch : (arriveBlock i (entered i s b g0 p) b g p).batch? b.id = some b := by
      rw [State.batch?, (arriveBlock_whole hblk0 hne (by rcases hi with rfl | rfl <;> exact hall) hidx hz
        (by rcases hi with rfl | rfl <;> exact hcount)).1]
      exact hb
    obtain ⟨bs, st, hnote, hbn⟩ := noteIssue_spec s.nextId i hbatch
    rcases hi with rfl | rfl
    · obtain rfl := hbar rfl
      have hbody : barBody (.bar f) (entered (.bar f) s b g0 p) b g p = (arriveBlock (.bar f) (entered (.bar f) s b g0 p) b g p, none) := by
        simp only [barBody, Batch.barWait, h.fresh]
      have hwaits := barFin_waits (i := .bar f) (phases := fun _ _ => []) h.fresh hbn
      rw [← h.slot] at hwaits
      refine ⟨_, congrArg Host.Outcome.next (run_untrapped h hg hbody _), fun blk n hblk hn => ?_⟩
      obtain rfl : blk0 = blk := Option.some.inj (hblk0.symm.trans hblk)
      obtain ⟨blk', hblk', hturn, hgo⟩ := arriveBlock_turns (i := .bar f) hblk hne hall hidx hz hn
      refine ⟨blk', _, ?_, hwaits, hturn, hgo, fun _ => ⟨rfl, rfl⟩, fun hne => nomatch hne⟩
      rw [unissue_block_at, State.block?, barFin_blocks, hnote]
      exact hblk'
    · obtain rfl := hbara rfl
      obtain ⟨b', hb', hnone, hwoff⟩ := advanceBatch_some (.bara f) hbn
      refine ⟨_, congrArg Host.Outcome.next (run_untrapped (u := arriveBlock (.bara f) (entered (.bara f) s b g0 p) b g p) h hg rfl _),
        fun blk n hblk hn => ?_⟩
      obtain rfl : blk0 = blk := Option.some.inj (hblk0.symm.trans hblk)
      obtain ⟨blk', hblk', hturn, hgo⟩ := arriveBlock_turns (i := .bara f) hblk hne hall hidx hz hn
      refine ⟨blk', b', ?_, hb', hturn, hgo, (fun hne => nomatch hne), fun _ => ⟨hnone, hwoff⟩⟩
      rw [hnote]
      exact hblk'
  case barw =>
    intro f s b g0 p g h hg _ hb
    obtain ⟨m, hm, hgid, -⟩ := h.member rfl hg
    have hbody : barwBody (.barw f) (entered (.barw f) s b g0 p) b g p = (entered (.barw f) s b g0 p, none) := by
      simp only [barwBody, Batch.barWait, h.fresh]
    obtain ⟨bs, st, hnote, hbn⟩ := noteIssue_spec s.nextId (.barw f) hb
    have hgm : (noteIssue s.nextId (entered (.barw f) s b g0 p) b (.barw f)).group? m.gid = some g := by
      rw [noteIssue_group_at, hgid, group_gid hg]
      exact hg
    have hwaits := barFin_waits (i := .barw f) (phases := barwPhases (.barw f)) h.fresh hbn
    rw [barwPhases_one (b := b.noted _ _) hm hgm, noteIssue_block_at] at hwaits
    rw [← h.slot] at hwaits
    refine ⟨_, congrArg Host.Outcome.next (run_untrapped h hg hbody _), ?_, _, _, hwaits, rfl, rfl, rfl⟩
    rw [unissue_blocks, barFin_blocks, hnote]
  case ends =>
    intro i f hi s b g m ps hslot hb hwait hm hgid hp hg hmay
    have htick : tickBatch s b = s := by simp only [tickBatch, hwait, Option.isSome_some, if_true]
    rw [htick, ← hgid] at hg
    rw [htick] at hmay
    rcases hi with rfl | rfl
    · rw [if_pos rfl, if_pos rfl] at hmay
      obtain ⟨t, b', ht, h⟩ := barWait_ends (i := .bar f) hslot hb hwait hm hp hg rfl hmay rfl (body := barBody (.bar f)) (phases := fun _ _ => [])
        (by simp only [barBody, Batch.barWait, hwait]; rfl)
      exact ⟨t, b', congrArg Host.Outcome.next ht, h⟩
    · have hne : ¬ Instr.barw f = .bar f := by simp
      rw [if_neg hne, if_neg hne] at hmay
      obtain ⟨t, b', ht, h⟩ := barWait_ends (i := .barw f) hslot hb hwait hm hp hg rfl hmay rfl (body := barwBody (.barw f))
        (phases := barwPhases (.barw f)) (by simp only [barwBody, Batch.barWait, hwait]; rfl)
      exact ⟨t, b', congrArg Host.Outcome.next ht, h⟩

end Sys2Proof.Machine
end

section
/-! What the engines' accesses and the trace buffer leave of the fibres: everything. An engine's access changes no group, and a trace record
only the trace state of groups. -/

namespace Sys2Proof.Machine

/-- The fibres of each group, by its number. -/
def State.HasFibres (s : State) (φ : Nat → Option (List Fibre)) : Prop := ∀ n, (s.group? n).map Group.fibres = φ n

section
variable {φ : Nat → Option (List Fibre)}

/-- A state of the same groups has the same fibres. -/
theorem State.HasFibres.of_groups {s t : State} (e : t.groups = s.groups) (h : s.HasFibres φ) : t.HasFibres φ := by
  intro n
  rw [State.group?, e]
  exact h n

theorem State.HasFibres.of_fst {α : Type} {p : State × α} {s : State} {a : α} (e : p = (s, a)) (h : p.1.HasFibres φ) : s.HasFibres φ := by
  subst e
  exact h

theorem State.HasFibres.ite {c} {inst : Decidable c} {s t : State} (hs : s.HasFibres φ) (ht : t.HasFibres φ) :
    (if c then s else t).HasFibres φ := by
  split
  · exact hs
  · exact ht

/-- Changes of groups that keep each one's number and fibres keep the fibres. -/
theorem State.HasFibres.map {s : State} (f : Group → Group) (hf : ∀ g, (f g).gid = g.gid ∧ (f g).fibres = g.fibres) (h : s.HasFibres φ) :
    State.HasFibres { s with groups := s.groups.map f } φ := by
  intro n
  rw [← h n]
  simp only [State.group?, lookupBy, List.find?_map, Option.map_map]
  have hkey : ((fun x : Group => x.gid == n) ∘ f) = fun x => x.gid == n := funext fun g => congrArg (· == n) (hf g).1
  have hfib : Group.fibres ∘ f = Group.fibres := funext fun g => (hf g).2
  rw [hkey, hfib]

theorem State.HasFibres.modGroup {s : State} (k : Nat) (f : Group → Group) (hf : ∀ g, (f g).gid = g.gid ∧ (f g).fibres = g.fibres)
    (h : s.HasFibres φ) : (s.modGroup k f).HasFibres φ :=
  h.map (fun g => if g.gid == k then f g else g) fun g => by
    split
    · exact hf g
    · exact ⟨rfl, rfl⟩

/-! ### Engines' accesses -/

theorem chargeWalk_groups (s : State) (ctx : Nat) (es : List Nat) : (chargeWalk s ctx es).groups = s.groups := by
  unfold chargeWalk
  generalize es.zipIdx = ps
  induction ps generalizing s with
  | nil => rfl
  | cons p ps ih => exact (ih _).trans rfl

theorem notePin_groups (s : State) (e : Word) (ctx va pa : Nat) : (notePin s e ctx va pa).groups = s.groups := by
  unfold notePin
  dsimp only
  split <;> rfl

theorem setAD_groups (s : State) (at_ : Nat) (e : Word) (acc : Access) : (setAD s at_ e acc).groups = s.groups := by
  fun_cases setAD s at_ e acc <;> rfl

theorem leafEnd_groups (s : State) (c : Context) (e : Word) (bits va : Nat) (acc : Access) (n : Nat) (data : List Byte) :
    (leafEnd s c e bits va acc n data).1.groups = s.groups := by
  unfold leafEnd
  split
  · rfl
  · split
    · split
      · rfl
      · exact notePin_groups ..
    · dsimp only
      have hask : ∀ m q, (if n = 0 then s else askPeer s m q).groups = s.groups := fun m q => by split <;> rfl
      split
      · rfl
      · split <;> exact hask ..
    · rfl

theorem State.HasFibres.walkFor {s : State} {core c va acc n data} (h : s.HasFibres φ) : (walkFor s core c va acc n data).1.HasFibres φ := by
  fun_cases Machine.walkFor s core c va acc n data with
  | case1 | case2 => exact h.of_groups (chargeWalk_groups ..)
  | case3 => exact .of_fst ‹_› ((h.of_groups (chargeWalk_groups ..)).of_groups (leafEnd_groups ..))
  | case4 => exact .of_groups (setAD_groups ..) (.of_fst ‹_› ((h.of_groups (chargeWalk_groups ..)).of_groups (leafEnd_groups ..)))

theorem State.HasFibres.translate {s : State} {core c va acc n data} (h : s.HasFibres φ) :
    (translate s core c va acc n data).1.HasFibres φ := by
  unfold Machine.translate
  split
  · exact h
  · split
    · exact h.walkFor
    · dsimp only
      split
      · exact h.of_groups (leafEnd_groups ..)
      · exact h.walkFor

theorem State.HasFibres.translateAll {s : State} {core c acc base data parts} (h : s.HasFibres φ) :
    (translateAll s core c acc base data parts).1.HasFibres φ := by
  fun_induction Machine.translateAll s core c acc base data parts with
  | case1 => exact h
  | case2 => exact .of_fst ‹_› h.translate
  | case3 _ _ _ _ _ _ _ _ _ _ ih => exact .of_fst ‹_› (ih (.of_fst ‹_› h.translate))
  | case4 _ _ _ _ _ _ _ _ _ _ ih => exact .of_fst ‹_› (ih (.of_fst ‹_› h.translate))

theorem State.HasFibres.portParts {s : State} {core ctx va n acc data} (h : s.HasFibres φ) :
    (portParts s core ctx va n acc data).1.HasFibres φ := by
  fun_cases Machine.portParts s core ctx va n acc data with
  | case1 => exact h
  | case2 => exact h.translateAll

theorem chargeHome_groups (s : State) (ctx tag rm : Nat) (parts : List (Nat × Nat × Target)) :
    (chargeHome s ctx tag rm parts).groups = s.groups := by
  obtain ⟨l, c, h⟩ := chargeHome_does s ctx tag rm parts
  rw [h]

theorem State.HasFibres.engineRead {s : State} {core ctx va n} (h : s.HasFibres φ) : (engineRead s core ctx va n).1.HasFibres φ := by
  fun_cases Machine.engineRead s core ctx va n with
  | case1 | case2 => exact .of_fst ‹_› h.portParts
  | case3 => exact .of_groups (chargeHome_groups ..) (.of_fst ‹_› h.portParts)
  | case4 => exact .of_groups ((performSome_sameButStores ..).groups.trans (chargeHome_groups ..)) (.of_fst ‹_› h.portParts)

theorem foldl_writeTarget_groups (ps : List (Nat × Nat × Target)) (bs : (Nat × Nat × Target) → List Byte) (s : State) :
    (ps.foldl (fun s p => writeTarget s p.2.2 (bs p)) s).groups = s.groups := by
  induction ps generalizing s with
  | nil => rfl
  | cons p ps ih => exact (ih _).trans (writeTarget_sameButStores ..).groups

theorem State.HasFibres.engineWrite {s : State} {core ctx va bs} (h : s.HasFibres φ) : (engineWrite s core ctx va bs).1.HasFibres φ := by
  fun_cases Machine.engineWrite s core ctx va bs with
  | case1 => exact .of_fst ‹_› h.portParts
  | case2 =>
    refine .of_groups ?_ (.of_fst ‹_› h.portParts)
    exact (foldl_writeTarget_groups _ _ _).trans ((chargeHome_groups ..).trans (performSome_sameButStores ..).groups)

/-! ### The trace buffer -/

theorem State.HasFibres.tracePut {s : State} {g base size tail bs} (h : s.HasFibres φ) : (tracePut s g base size tail bs).HasFibres φ := by
  unfold Machine.tracePut
  refine State.HasFibres.engineWrite ?_
  generalize traceParts base size tail bs = ps
  induction ps generalizing s with
  | nil => exact h
  | cons p ps ih => exact ih h.engineWrite

theorem State.HasFibres.needSync {s : State} {ctx} (h : s.HasFibres φ) : (needSync s ctx).HasFibres φ :=
  h.map _ fun g => by split <;> exact ⟨rfl, rfl⟩

theorem State.HasFibres.traceDrop {s : State} {g base lost} (h : s.HasFibres φ) : (traceDrop s g base lost).HasFibres φ :=
  h.engineWrite.needSync.of_groups rfl

theorem State.HasFibres.traceWrite {s : State} {g sync bs} (h : s.HasFibres φ) : (traceWrite s g sync bs).HasFibres φ := by
  fun_cases Machine.traceWrite s g sync bs with
  | case1 | case2 => exact h
  | case3 => exact .of_fst ‹_› h.engineRead
  | case4 => exact (State.HasFibres.tracePut (.of_fst ‹_› h.engineRead)).of_groups rfl
  | case5 =>
    have hread := State.HasFibres.of_fst ‹_› h.engineRead
    exact .traceDrop (.ite hread.tracePut hread)

theorem State.HasFibres.flushSync {s : State} {gid} (h : s.HasFibres φ) : (flushSync s gid).HasFibres φ := by
  fun_cases Machine.flushSync s gid with
  | case1 | case2 => exact h
  | case3 => exact .traceWrite (h.modGroup _ _ fun _ => ⟨rfl, rfl⟩)

theorem State.HasFibres.flushSyncs {s : State} {ctx} (h : s.HasFibres φ) : (flushSyncs s ctx).HasFibres φ := by
  unfold Machine.flushSyncs
  generalize (s.groups.filter fun g => g.ctx == ctx && g.syncDue.isSome).map Group.gid = ns
  induction ns generalizing s with
  | nil => exact h
  | cons n ns ih => exact ih h.flushSync

theorem State.HasFibres.traceSafe {s : State} {g ord woff lanes} (h : s.HasFibres φ) : (traceSafe s g ord woff lanes).HasFibres φ := by
  unfold Machine.traceSafe
  split
  · exact h
  · split
    · exact h.flushSyncs.modGroup _ _ fun _ => ⟨rfl, rfl⟩
    · exact (State.HasFibres.traceWrite h.flushSyncs).modGroup _ _ fun _ => ⟨rfl, rfl⟩

end

end Sys2Proof.Machine
end

section
/-! O27: NOP, YIELD and SLEEP, the words that change nothing but their batch; the decoding of opcode 0; and what a word has done before
its effect begins. -/

namespace Sys2Proof.Machine

/-! ### The word of opcode 0 -/

/-- The bits of a field that is zero are zero. -/
theorem bit_of_field_zero {w : Word} {lo len k : Nat} (h : wordBits w lo len = 0) (hlo : lo ≤ k) (hhi : k < lo + len) : w.getLsbD k = false := by
  have hb := congrArg (fun x : BitVec len => x.getLsbD (k - lo)) h
  simpa [wordBits, BitVec.getLsbD_extractLsb', show k - lo < len by omega, Nat.add_sub_cancel' hlo] using hb

/-- A field all of whose bits are zero is zero. -/
theorem field_zero_of_bits {w : Word} {lo len : Nat} (h : ∀ k, lo ≤ k → k < lo + len → w.getLsbD k = false) : wordBits w lo len = 0 := by
  apply BitVec.eq_of_getLsbD_eq
  intro j hj
  simp [wordBits, hj, h (lo + j) (by omega) (by omega)]

/-- All fields of a full-form word but S are zero. -/
def clearFields (f : Fields) : Prop :=
  f.ty = 0 ∧ f.dst = 0 ∧ f.sa = 0 ∧ f.sb = 0 ∧ f.sc = 0 ∧ f.g = 0 ∧ f.gn = false ∧ f.rm = 0 ∧ f.fi = false
    ∧ f.fo = false ∧ f.sat = false ∧ f.w = 0

theorem eq_of_clearFields {f : Fields} (h : clearFields f) : f = { (default : Fields) with safe := f.safe, lit := f.lit } := by
  obtain ⟨safe, ty, dst, sa, sb, sc, g, gn, rm, fi, fo, sat, w, lit⟩ := f
  obtain ⟨hty, hdst, hsa, hsb, hsc, hg, hgn, hrm, hfi, hfo, hsat, hw⟩ := h
  dsimp only at hty hdst hsa hsb hsc hg hgn hrm hfi hfo hsat hw
  rw [hty, hdst, hsa, hsb, hsc, hg, hgn, hrm, hfi, hfo, hsat, hw]
  rfl

/-- Bit 63 aside, a word has a bit iff it lies in one of the fields. -/
theorem fields_clear_iff {w : Word} (lit : Option Word) (hop : wordBits w 54 8 = 0) (h62 : w.getLsbD 62 = false) :
    clearFields (fieldsOf w lit) ↔ w &&& 0x7FFFFFFFFFFFFFFF#64 = 0 := by
  have hmask : w &&& 0x7FFFFFFFFFFFFFFF#64 = 0 ↔ ∀ k < 63, w.getLsbD k = false := by
    have hbit : ∀ k < 64, (w &&& 0x7FFFFFFFFFFFFFFF#64).getLsbD k = (w.getLsbD k && decide (k < 63)) := by
      intro k hk
      rw [show (0x7FFFFFFFFFFFFFFF#64) = BitVec.ofNat 64 (2 ^ 63 - 1) from rfl, BitVec.getLsbD_and, BitVec.getLsbD_ofNat,
        Nat.testBit_two_pow_sub_one, decide_eq_true hk, Bool.true_and]
    constructor
    · intro h k hk
      have hb := hbit k (by omega)
      rw [h, decide_eq_true hk, Bool.and_true] at hb
      rw [← hb]
      simp
    · intro h
      apply BitVec.eq_of_getLsbD_eq
      intro k hk
      rw [hbit k hk]
      by_cases h63 : k < 63
      · simp [h k h63]
      · simp [h63]
  rw [hmask]
  constructor
  · rintro ⟨hty, hdst, hsa, hsb, hsc, hg, hgn, hrm, hfi, hfo, hsat, hw⟩ k hk
    have hcases : k < 3 ∨ k = 3 ∨ k = 4 ∨ k = 5 ∨ (6 ≤ k ∧ k < 9) ∨ k = 9 ∨ (10 ≤ k ∧ k < 14) ∨ (14 ≤ k ∧ k < 23) ∨ (23 ≤ k ∧ k < 32)
        ∨ (32 ≤ k ∧ k < 41) ∨ (41 ≤ k ∧ k < 50) ∨ (50 ≤ k ∧ k < 54) ∨ (54 ≤ k ∧ k < 62) ∨ k = 62 := by omega
    rcases hcases with h | rfl | rfl | rfl | h | rfl | h | h | h | h | h | h | h | rfl
    · exact bit_of_field_zero hw (Nat.zero_le k) (by omega)
    · exact hsat
    · exact hfo
    · exact hfi
    · exact bit_of_field_zero hrm h.1 h.2
    · exact hgn
    · exact bit_of_field_zero hg h.1 h.2
    · exact bit_of_field_zero hsc h.1 h.2
    · exact bit_of_field_zero hsb h.1 h.2
    · exact bit_of_field_zero hsa h.1 h.2
    · exact bit_of_field_zero hdst h.1 h.2
    · exact bit_of_field_zero hty h.1 h.2
    · exact bit_of_field_zero hop h.1 h.2
    · exact h62
  · intro h
    have hz : ∀ lo len, lo + len ≤ 63 → wordBits w lo len = 0 := fun lo len hle => field_zero_of_bits fun k _ hk => h k (by omega)
    exact ⟨hz _ _ (by decide), hz _ _ (by decide), hz _ _ (by decide), hz _ _ (by decide), hz _ _ (by decide), hz _ _ (by decide), h 9 (by decide),
      hz _ _ (by decide), h 5 (by decide), h 4 (by decide), h 3 (by decide), hz _ _ (by decide)⟩

/-- NOP's row (R92). -/
def nopRow : Row := ⟨0x00, .F, .none, .none, .none, .none, 0, tB64, false, .zero, false, false, 0, false⟩

theorem formOf_nop (f : Fields) : formOf (.nop f) = .full nopRow f := rfl

/-- The fields of a NOP are refused unless all but S are zero (R42, R93). -/
theorem fieldErr_nop (f : Fields) : fieldErr nopRow f = false ↔ clearFields f := by
  have hw : f.w = 0 ↔ f.w.getLsbD 0 = false ∧ f.w.getLsbD 1 = false ∧ f.w.getLsbD 2 = false := by
    refine ⟨fun h => by simp [h], fun ⟨h0, h1, h2⟩ => BitVec.eq_of_getLsbD_eq fun j hj => ?_⟩
    have : j = 0 ∨ j = 1 ∨ j = 2 := by omega
    rcases this with rfl | rfl | rfl <;> simpa
  by_cases hty : f.ty = 0
  · unfold clearFields
    rw [hw]
    simp [fieldErr, nopRow, hty, dstUse, useA, useB, useC, srcUseOf, x8Form, srcFieldErr, srcCodes, SrcUse.isOpnd, extraFieldErr, tB64,
      DstUse.readsData]
    tauto
  · have hne : ¬ f.ty.toNat = 0 := fun h => hty (BitVec.eq_of_toNat_eq h)
    simp only [fieldErr, nopRow, tB64, List.contains_cons, beq_eq_false_iff_ne.mpr hne, List.contains_nil, Bool.or_self, Bool.not_false,
      Bool.true_or, Bool.true_eq_false, false_iff]
    exact fun h => hty h.1

/-- A row without sources holds no literal code (R51). -/
theorem litCount_of_no_sources {r : Row} (f : Fields) (ha : r.a = .none) (hb : r.b = .none) (hc : r.c = .none) : litCount r f = 0 := by
  have huse : (useA r f).isOpnd = false ∧ (useB r f).isOpnd = false ∧ (useC r f).isOpnd = false := by
    simp only [useA, useB, useC, ha, hb, hc]
    exact ⟨rfl, rfl, by split <;> rfl⟩
  obtain ⟨h1, h2, h3⟩ := huse
  have hcodes : srcCodes r f = [none, none, none] := by
    unfold srcCodes
    cases r.lay <;> simp [h1, h2, h3]
  rw [litCount, hcodes]
  rfl

/-- No field of a NOP is an operand, so none names a wrong one (R46). -/
theorem opndErr_nop (f : Fields) : opndErr nopRow f = false := by
  have hlit : litCount nopRow f = 0 := litCount_of_no_sources f rfl rfl rfl
  have hc : (useC nopRow f).isOpnd = false := by
    unfold useC
    split <;> rfl
  have hsrc : srcOpndErr nopRow f (useC nopRow f) f.sc.toNat = false := by
    unfold srcOpndErr
    rw [hc]
    exact Bool.false_and _
  simp only [opndErr, hlit, hsrc]
  rfl

/-- A NOP is taken if its fields but S are zero, and refused otherwise. -/
theorem checked_nop (f : Fields) : checked (.nop f) = if fieldErr nopRow f then .error .illegalField else .ok (.nop f) := by
  cases h : fieldErr nopRow f <;> simp [checked, checkInstr, formOf_nop, rowFieldErr, h, opndErr_nop]

/-- A word of opcode 0 is a NOP if all its fields but S are zero, and refused otherwise (R93). -/
theorem decode_opcode_zero {w : Word} (lit : Word) (hop : wordBits w 54 8 = 0) (h62 : w.getLsbD 62 = false) :
    decode false w lit = if w &&& 0x7FFFFFFFFFFFFFFF#64 = 0 then .ok (.nop { (default : Fields) with safe := w.getLsbD 63 })
      else .error .illegalField := by
  have hlit : withLit 0 w lit = some (.nop (fieldsOf w none)) := by
    simp only [withLit, show ofOp 0 (fieldsOf w none) = some (.nop (fieldsOf w none)) from rfl, formOf_nop,
      litCount_of_no_sources (r := nopRow) _ rfl rfl rfl]
    rfl
  have hdec : decode false w lit = checked (.nop (fieldsOf w none)) := by
    have hnat : (wordBits w 54 8).toNat = 0 := by rw [hop]; rfl
    have hres : reservedOp 0 = false := by decide
    simp only [decode, h62, hnat, hres, hlit, Bool.false_eq_true, if_false]
    rfl
  rw [hdec, checked_nop]
  by_cases h : w &&& 0x7FFFFFFFFFFFFFFF#64 = 0
  · have hclear := (fields_clear_iff none hop h62).mpr h
    rw [if_neg (by rw [(fieldErr_nop _).mpr hclear]; exact Bool.false_ne_true), if_pos h]
    rw [eq_of_clearFields hclear]
    rfl
  · have hclear := mt (fields_clear_iff none hop h62).mp h
    rw [if_pos (by rw [← Bool.not_eq_false, fieldErr_nop]; exact hclear), if_neg h]

/-! ### Words that change nothing but their batch -/

/-- A row without sources takes one word (R51). -/
theorem wordCount_of_no_sources {i : Instr} {r : Row} {f : Fields} (hi : formOf i = .full r f) (ha : r.a = .none) (hb : r.b = .none)
    (hc : r.c = .none) : wordCount i = 1 := by
  simp only [wordCount, hasLiteral, hi, litCount_of_no_sources f ha hb hc]
  rfl

/-- A word without an effect, after which only its batch is moved on as `F` says, leaves everything outside the batches as it was. -/
theorem noEffect_spec {i : Instr} {ready : ReadyFn} {bar : BarFn} {s : State} {b : Batch} {g0 g : Group} {p : Mask}
    {fin : State → Nat → State} {F : State → Batch → Batch} (h : Alone i ready bar s b g0 p)
    (hg : (entered i s b g0 p).group? g0.gid = some g) (hb : (entered i s b g0 p).batch? b.id = some b)
    (hfin : ∀ u x, u.batch? b.id = some x → x.rep = b.rep →
      (∃ bs, fin u b.id = { u with batches := bs }) ∧ (fin u b.id).batch? b.id = some (F u x)) :
    OnlyGroup g.gid (entered i s b g0 p) (runWordThen i ready bar (fun s _ _ _ => (s, none)) fin s)
      ∧ (runWordThen i ready bar (fun s _ _ _ => (s, none)) fin s).group? g.gid = (entered i s b g0 p).group? g.gid
      ∧ ∃ u, u.clock = (entered i s b g0 p).clock ∧ (runWordThen i ready bar (fun s _ _ _ => (s, none)) fin s).batch? b.id
          = some (F u (b.noted (entered i s b g0 p).clock s.nextId)) := by
  rw [run_untrapped h hg rfl fin]
  obtain ⟨bs, st, hnote, hbn⟩ := noteIssue_spec s.nextId i hb
  obtain ⟨⟨bs', hmoves⟩, hmoved⟩ := hfin _ _ hbn rfl
  refine ⟨?_, ?_, _, ?_, hmoved⟩
  · rw [hmoves, hnote]
    exact ⟨fun _ => rfl, fun _ => rfl, fun _ => rfl, rfl, rfl, rfl, rfl, rfl, rfl, rfl, rfl, rfl, rfl, rfl, rfl, ⟨rfl, rfl, rfl, rfl⟩,
      fun _ _ => rfl⟩
  · rw [hmoves, hnote]
    rfl
  · rw [hnote]

/-- Moving a batch on touches the batches alone, and so does a change of it after. -/
theorem advance_then_modBatch {i : Instr} {u : State} {id : Nat} {x : Batch} (f : Batch → Batch) (hf : ∀ x, (f x).id = x.id)
    (hx : u.batch? id = some x) (hrep : x.rep = none) :
    (∃ bs, (advanceBatch u id i).modBatch id f = { u with batches := bs })
      ∧ ((advanceBatch u id i).modBatch id f).batch? id = some (f (x.past i u.clock)) :=
  ⟨⟨_, rfl⟩, batch_modBatch_some (batch_advanceBatch i hx hrep) hf⟩

/-- SLEEP lasts from n to n + 64 clocks (R102). -/
theorem sleepClocks_bounds (s : State) {n : Nat} (h : 0 < n) : n ≤ sleepClocks s n ∧ sleepClocks s n ≤ n + 64 := by
  have hmod := Nat.mod_lt (s.freeVal 20).toNat (by decide : 0 < 65)
  rw [sleepClocks, if_neg (Nat.ne_of_gt h)]
  omega

/-- A batch put to sleep for n clocks, or a bit more (R102). -/
def Batch.asleep (b : Batch) (u : State) (n : Nat) : Batch :=
  { b with sleepUntil := let k := sleepClocks u n; if k = 0 then 0 else u.clock + k }

theorem Batch.asleep_until (b : Batch) (u : State) (n : Nat) :
    (n = 0 → (b.asleep u n).sleepUntil = 0)
      ∧ (0 < n → u.clock + n ≤ (b.asleep u n).sleepUntil ∧ (b.asleep u n).sleepUntil ≤ u.clock + n + 64) := by
  constructor
  · rintro rfl
    rfl
  · intro hn
    obtain ⟨hlo, hhi⟩ := sleepClocks_bounds u hn
    have hk : (b.asleep u n).sleepUntil = u.clock + sleepClocks u n := if_neg (by omega)
    omega

/-- What moves the batch on after NOP, YIELD and SLEEP. -/
def nopFin (f : Fields) : State → Nat → State := fun u id => advanceBatch u id (.nop f)
def yieldFin (f : Fields) : State → Nat → State := fun u id => (advanceBatch u id (.yield f)).modBatch id fun b => { b with time := u.clock }
def sleepFin (f : Fields) : State → Nat → State := fun u id =>
  (advanceBatch u id (.sleep f)).modBatch id fun b => b.asleep u ((imm18 f).toNat % 2 ^ 16)

/-! ### Before the effect -/

/-- A context that is there stays there when a context changes. -/
theorem context_modContext_some {s : State} {k n : Nat} {c : Context} (f : Context → Context) (hf : ∀ c, (f c).ctx = c.ctx)
    (h : s.context? n = some c) : ∃ c', (s.modContext k f).context? n = some c' := by
  by_cases hk : n = k
  · subst hk
    exact ⟨f c, by rw [context_modContext_same s n f hf, h, Option.map_some]⟩
  · exact ⟨c, by rw [context_modContext_other s n k f hf hk, h]⟩

/-- A group whose lanes of a mask have passed the safe point of an ordinal, under a trace setting (R90, R480). -/
def Group.safeAt (g : Group) (p : Mask) (ord : Nat) (trace : Word) : Group :=
  (lanesOf p).foldl (fun g l => g.modFibre l fun x => { x with safeord := ord }) { g with trace := trace }

theorem Group.safeAt_gid (g : Group) (p : Mask) (ord : Nat) (trace : Word) : (g.safeAt p ord trace).gid = g.gid :=
  foldl_modFibre_gid (lanesOf p) id (fun _ x => { x with safeord := ord }) _

theorem Group.safeAt_safeord {g : Group} {p : Mask} {l : Nat} (ord : Nat) (trace : Word) (hl : l ∈ lanesOf p) (hlen : l < g.fibres.length) :
    ((g.safeAt p ord trace).fibre l).safeord = ord :=
  congrArg Fibre.safeord (fibre_foldl_lanes (fun _ x => { x with safeord := ord }) { g with trace := trace } hl hlen)

/-- A word with S = 1 at a safe point gives its present lanes the safe point's ordinal, whatever the trace then records (R90, R480). -/
theorem passSafe_at {s : State} {b : Batch} {gid : Nat} {p : Mask} {i : Instr} {g : Group} {o : CodeObj} {c : Context} {ord : Nat}
    {n : SafePoint} (hS : stopBit i = true) (hg : s.group? gid = some g) (ho : s.object? g.ctx b.obj = some o)
    (hc : s.context? g.ctx = some c) (hsafe : o.safeAt b.seg b.woff = some (ord, n)) :
    ∃ g1, (passSafe s b gid p i).group? gid = some g1 ∧ g1.fibres = (g.safeAt p ord c.tracectl).fibres := by
  have hpass : passSafe s b gid p i =
      let s1 := s.modGroup gid fun g => g.safeAt p ord c.tracectl
      if p &&& g.workers = 0 then s1 else traceSafe s1 { g with trace := c.tracectl } ord 0 p := by
    simp only [passSafe, hS, hg, ho, hc, hsafe]
    rfl
  have hmod : (s.modGroup gid fun g => g.safeAt p ord c.tracectl).group? gid = some (g.safeAt p ord c.tracectl) := by
    rw [group_modGroup_same _ _ _ fun x => x.safeAt_gid .., hg, Option.map_some]
  have hkeeps := (State.HasFibres.traceSafe (s := s.modGroup gid fun g => g.safeAt p ord c.tracectl) (g := { g with trace := c.tracectl })
    (ord := ord) (woff := 0) (lanes := p) fun _ => rfl) gid
  rw [hmod, Option.map_some, Option.map_eq_some_iff] at hkeeps
  rw [hpass]
  dsimp only
  split
  · exact ⟨_, hmod, rfl⟩
  · exact hkeeps

/-- A word that passes no safe point leaves the state alone. -/
theorem passSafe_else {s : State} {b : Batch} {gid : Nat} {p : Mask} {i : Instr} {g : Group} (hg : s.group? gid = some g)
    (h : ∀ o c ord n, s.object? g.ctx b.obj = some o → s.context? g.ctx = some c → o.safeAt b.seg b.woff ≠ some (ord, n)) :
    passSafe s b gid p i = s := by
  unfold passSafe
  rw [hg]
  split
  · rfl
  · dsimp only
    split
    · split
      · rfl
      · exact absurd ‹_› (h _ _ _ _ ‹_› ‹_›)
    · rfl

/-- Passing a safe point keeps the group. -/
theorem passSafe_group {s : State} {b : Batch} {gid : Nat} {p : Mask} {i : Instr} {g : Group} (hg : s.group? gid = some g) :
    ∃ g1, (passSafe s b gid p i).group? gid = some g1 := by
  cases hS : stopBit i with
  | false => exact ⟨g, by rw [passSafe_plain s b gid p i hS, hg]⟩
  | true =>
    by_cases h : ∃ o c ord n, s.object? g.ctx b.obj = some o ∧ s.context? g.ctx = some c ∧ o.safeAt b.seg b.woff = some (ord, n)
    · obtain ⟨o, c, ord, n, ho, hc, hsafe⟩ := h
      obtain ⟨g1, hg1, -⟩ := passSafe_at (p := p) hS hg ho hc hsafe
      exact ⟨g1, hg1⟩
    · exact ⟨g, by rw [passSafe_else hg fun o c ord n ho hc hsafe => h ⟨o, c, ord, n, ho, hc, hsafe⟩, hg]⟩

/-- A group whose lanes of a mask have counted a word of a batch (R83). -/
def Group.ticked (g : Group) (id : Nat) (lanes : Mask) : Group :=
  { (lanesOf lanes).foldl (fun g l => g.modFibre l tickFibre) g with kpend := tickK id g.kpend }

theorem Group.ticked_spec (g : Group) (id : Nat) (lanes : Mask) :
    (g.ticked id lanes).gid = g.gid ∧ (g.ticked id lanes).ctx = g.ctx ∧ (g.ticked id lanes).fibres.length = g.fibres.length := by
  obtain ⟨xs, hlen, hfold⟩ := foldl_modFibre_fibres_only (lanesOf lanes) (fun l => l) (fun _ => tickFibre) g
  rw [Group.ticked, hfold]
  exact ⟨rfl, rfl, hlen⟩

/-- The lanes of the mask have counted the word and the others not; a lane the group has not got holds no fibre either way. -/
theorem Group.ticked_fibre {g : Group} (id : Nat) (lanes : Mask) (hlen : g.fibres.length ≤ 32) (l : Nat) :
    (g.ticked id lanes).fibre l = if inMask lanes l then tickFibre (g.fibre l) else g.fibre l := by
  have hsame : (g.ticked id lanes).fibre l = ((lanesOf lanes).foldl (fun g l => g.modFibre l tickFibre) g).fibre l := rfl
  by_cases hl : l < g.fibres.length
  · rw [hsame]
    split
    case isTrue hin => exact fibre_foldl_lanes (fun _ => tickFibre) g (mem_lanesOf.mpr ⟨by omega, hin⟩) hl
    case isFalse hin => exact fibre_foldl_other (fun _ => tickFibre) g fun hmem => hin (mem_lanesOf.mp hmem).2
  · have hnone : ∀ x : Group, x.fibres.length = g.fibres.length → x.fibre l = default := fun x hx => by
      rw [Group.fibre, nth, List.getD_eq_default _ _ (by omega)]
    rw [hnone _ (g.ticked_spec id lanes).2.2, hnone g rfl]
    exact (ite_self _).symm

/-- Before a word's effect begins its batch's lanes count it (R83). -/
theorem tickBatch_group {s : State} {b : Batch} {m : Member} {g : Group} (hwait : b.wait = none) (hm : b.members = [m])
    (hg : s.group? m.gid = some g) : (tickBatch s b).group? m.gid = some (g.ticked b.id m.lanes) := by
  have htick : tickBatch s b = s.modGroup m.gid fun x => x.ticked b.id m.lanes := by
    simp only [tickBatch, hwait, hm]
    rfl
  rw [htick, group_modGroup_same _ _ _ fun x => (x.ticked_spec b.id m.lanes).1, hg, Option.map_some]

/-- The states before and after the charges of a word hold the same objects, and a context where there was one. -/
theorem charged_lookups (i : Instr) (s : State) (b : Batch) (g : Group) (p : Mask) (oks : List (Nat × Mask × Verdict)) {n : Nat} {c : Context}
    (hc : s.context? n = some c) :
    (chargeWord (countWord (tickBatch s b) b i oks) g p i).objects = s.objects
      ∧ ∃ c', (chargeWord (countWord (tickBatch s b) b i oks) g p i).context? n = some c' := by
  have hcount : (countWord (tickBatch s b) b i oks).objects = s.objects ∧ ∃ c', (countWord (tickBatch s b) b i oks).context? n = some c' := by
    obtain ⟨gs, htick⟩ := tickBatch_groups_only s b
    rw [htick]
    rcases countWord_eq { s with groups := gs } i b oks with h | ⟨ctx, ps, h⟩
    · rw [h]
      exact ⟨rfl, c, hc⟩
    · rw [h]
      exact ⟨rfl, context_modContext_some _ (fun _ => rfl) (s := { s with groups := gs, prof := ps }) hc⟩
  obtain ⟨hobj, c1, hc1⟩ := hcount
  obtain ⟨c2, hc2⟩ := context_modContext_some (fun c => { c with energy := c.energy + _ }) (fun _ => rfl) hc1
  exact ⟨hobj, context_modContext_some _ (fun _ => rfl) (s := charge _ _ _ _) hc2⟩

/-- The fibres as the effect of a word finds them: the batch's lanes have counted the word and, with S = 1 at a safe point, the present
ones have passed it (R83, R90). -/
theorem entered_fibres {s : State} {b : Batch} {m : Member} {g : Group} {i : Instr} {p : Mask} (hwait : b.wait = none) (hm : b.members = [m])
    (hg : s.group? m.gid = some g) :
    ∃ g1, (entered i s b g p).group? m.gid = some g1
      ∧ (stopBit i = false → g1 = g.ticked b.id m.lanes)
      ∧ (stopBit i = true → ∀ o c ord n, s.object? g.ctx b.obj = some o → s.context? g.ctx = some c → o.safeAt b.seg b.woff = some (ord, n) →
          ∀ l ∈ lanesOf p, l < g.fibres.length → (g1.fibre l).safeord = ord) := by
  obtain ⟨-, hctx, hlen⟩ := g.ticked_spec b.id m.lanes
  have hgid : g.gid = m.gid := group_gid hg
  have hcharged : (chargeWord (countWord (tickBatch s b) b i [(g.gid, p, .ok)]) g p i).group? g.gid = some (g.ticked b.id m.lanes) := by
    rw [chargeWord_group_at, countWord_group_at, hgid]
    exact tickBatch_group hwait hm hg
  rw [← hgid]
  cases hS : stopBit i with
  | false =>
    refine ⟨_, ?_, fun _ => rfl, fun h => absurd h Bool.false_ne_true⟩
    rw [entered, passSafe_plain _ _ _ _ _ hS, hcharged]
  | true =>
    obtain ⟨g1, hg1⟩ := passSafe_group (b := b) (p := p) (i := i) hcharged
    refine ⟨g1, hg1, fun h => absurd h Bool.noConfusion, fun _ o c ord n ho hc hsafe l hl hlt => ?_⟩
    obtain ⟨hobj, c', hc'⟩ := charged_lookups i s b g p [(g.gid, p, .ok)] hc
    have ho' : (chargeWord (countWord (tickBatch s b) b i [(g.gid, p, .ok)]) g p i).object? g.ctx b.obj = some o := by
      rw [State.object?, hobj]
      exact ho
    rw [← hctx] at ho' hc'
    obtain ⟨g2, hg2, hfib⟩ := passSafe_at (p := p) hS hcharged ho' hc' hsafe
    obtain rfl : g2 = g1 := Option.some.inj (hg2.symm.trans hg1)
    rw [Group.fibre, hfib]
    exact Group.safeAt_safeord ord _ hl (hlen ▸ hlt)

/-- Settles O27: a word without effect changes nothing but its batch (`noEffect_spec`), opcode 0 decodes as `decode_opcode_zero`
says, and what a word does before its effect is `entered_fibres`. -/
theorem nopYieldAndSleep : Obligations.NopYieldAndSleep := by
  unfold Obligations.NopYieldAndSleep
  refine ⟨fun w lit => decode_opcode_zero lit, ?words, ?before, ?order, ?wakes, ?may, fun _ _ _ _ _ => rfl, fun _ _ _ _ => rfl, ?resume⟩
  case words =>
    intro i f hi s b g0 p g h hg _ ⟨hb, hrep⟩
    have hcount : wordCount i = 1 := by
      rcases hi with rfl | rfl | rfl <;> exact wordCount_of_no_sources rfl rfl rfl rfl
    rcases hi with rfl | rfl | rfl
    · obtain ⟨honly, hgroup, u, -, hbatch⟩ := noEffect_spec (fin := nopFin f) (F := fun u x => x.past (.nop f) u.clock) h hg hb
        fun u x hx hr => ⟨⟨_, rfl⟩, batch_advanceBatch _ hx (hr.trans hrep)⟩
      exact ⟨_, rfl, honly, hgroup, _, hbatch, congrArg (b.woff + ·) hcount, rfl, fun _ => ⟨rfl, rfl⟩, (fun hne => nomatch hne),
        fun hne => nomatch hne⟩
    · obtain ⟨honly, hgroup, u, hclock, hbatch⟩ := noEffect_spec (fin := yieldFin f)
        (F := fun u x => { x.past (.yield f) u.clock with time := u.clock }) h hg hb fun u x hx hr =>
          advance_then_modBatch (fun b => { b with time := u.clock }) (fun _ => rfl) hx (hr.trans hrep)
      exact ⟨_, rfl, honly, hgroup, _, hbatch, congrArg (b.woff + ·) hcount, rfl, (fun hne => nomatch hne), fun _ => hclock,
        fun hne => nomatch hne⟩
    · obtain ⟨honly, hgroup, u, hclock, hbatch⟩ := noEffect_spec (fin := sleepFin f)
        (F := fun u x => (x.past (.sleep f) u.clock).asleep u ((imm18 f).toNat % 2 ^ 16)) h hg hb fun u x hx hr =>
          advance_then_modBatch (fun b => b.asleep u ((imm18 f).toNat % 2 ^ 16)) (fun _ => rfl) hx (hr.trans hrep)
      refine ⟨_, rfl, honly, hgroup, _, hbatch, congrArg (b.woff + ·) hcount, rfl, (fun hne => nomatch hne), (fun hne => nomatch hne),
        fun _ => ⟨rfl, ?_⟩⟩
      rw [← hclock]
      exact Batch.asleep_until _ u _
  case before =>
    intro s b m g i p hwait hm hg hlen
    obtain ⟨g1, hg1, hplain, hsafe⟩ := entered_fibres (i := i) (p := p) hwait hm hg
    exact ⟨g1, hg1, fun hS l => hplain hS ▸ Group.ticked_fibre b.id m.lanes hlen l, hsafe⟩
  case order =>
    intro s b
    refine ⟨_, _, rfl, fun time' slot' hslot htime => ?_⟩
    show issueKey _ time' slot' < issueKey _ b.time _
    unfold issueKey
    omega
  case wakes =>
    intro s b hb hle
    refine ⟨_, rfl, ?_⟩
    rw [batch_modBatch_some hb fun x => by split <;> rfl, if_pos hle]
  case may =>
    intro s b h
    simp only [batchMay, Bool.and_eq_true, decide_eq_true_eq] at h
    obtain ⟨⟨⟨⟨⟨⟨⟨-, hslept⟩, -⟩, -⟩, -⟩, -⟩, -⟩, -⟩ := h
    exact hslept
  case resume =>
    intro s b m hl hrep
    simp only [memberPos, hl, hrep, repPos, List.any_nil, settlePos]

end Sys2Proof.Machine
end

section
/-! O23: FORK. Its plan lists each forking lane once, and each free lane at most once; as a free lane has no live fibre, the word's changes are
each of a lane of its own. Then the children are handed to the sorter. -/

namespace Sys2Proof.Machine

/-! ### The plan -/

/-- The lane a child of a lane takes of the free ones: of its quad for a helper, and none for a worker of a helper (R96). -/
def forkPick (g : Group) (helper : Bool) (free : List Nat) (l : Nat) : Option Nat :=
  if helper then free.find? fun n => n / 4 == l / 4 else if (g.fibre l).helper then none else free.head?

theorem forkPick_mem {g : Group} {helper : Bool} {free : List Nat} {l n : Nat} (h : forkPick g helper free l = some n) : n ∈ free := by
  unfold forkPick at h
  split at h
  · exact List.mem_of_find?_eq_some h
  · split at h
    · exact absurd h (by simp)
    · exact List.mem_of_mem_head? h

/-- One lane's turn to take a lane for its child: the plan so far and the lanes still free. -/
def forkStep (s : State) (g : Group) (helper : Bool) (acc : List (Nat × Option Nat) × List Nat) (l : Nat) :
    List (Nat × Option Nat) × List Nat :=
  let done := acc.1 ++ [(l, forkPick g helper acc.2 l)]
  (done, match forkPick g helper acc.2 l with
    | some n => if (done.filterMap Prod.snd).length < forkRoom s g then acc.2.filter fun x => x != n else []
    | none => acc.2)

theorem forkPlan_eq (s : State) (g : Group) (helper : Bool) (lanes : List Nat) :
    forkPlan s g helper lanes = (lanes.foldl (forkStep s g helper) ([], freeLanes s g)).1 := rfl

/-- A turn adds the lane with its pick, which is a free lane that is then free no more. -/
theorem forkStep_spec (s : State) (g : Group) (helper : Bool) (done : List (Nat × Option Nat)) (free : List Nat) (l : Nat) :
    ∃ pick free', forkStep s g helper (done, free) l = (done ++ [(l, pick)], free') ∧ (∀ n ∈ free', n ∈ free)
      ∧ ∀ n, pick = some n → n ∈ free ∧ n ∉ free' := by
  refine ⟨forkPick g helper free l, _, rfl, ?_, fun n hn => ⟨forkPick_mem hn, ?_⟩⟩
  · intro n hn
    dsimp only at hn
    split at hn
    · split at hn
      · exact List.mem_of_mem_filter hn
      · exact absurd hn List.not_mem_nil
    · exact hn
  · rw [hn]
    dsimp only
    split <;> simp

/-- The lanes of a plan: each forking lane once in order, and lanes for children that were free, each once. -/
theorem forkSteps_spec (s : State) (g : Group) (helper : Bool) (lanes : List Nat) (done : List (Nat × Option Nat)) (free : List Nat) :
    ∃ plan, (lanes.foldl (forkStep s g helper) (done, free)).1 = done ++ plan ∧ plan.map Prod.fst = lanes
      ∧ (plan.filterMap Prod.snd).Nodup ∧ ∀ n ∈ plan.filterMap Prod.snd, n ∈ free := by
  induction lanes generalizing done free with
  | nil => exact ⟨[], by simp⟩
  | cons l ls ih =>
    obtain ⟨pick, free', hstep, hsub, hpick⟩ := forkStep_spec s g helper done free l
    obtain ⟨plan, hplan, hfst, hnodup, hfree⟩ := ih (done ++ [(l, pick)]) free'
    refine ⟨(l, pick) :: plan, ?_, by rw [List.map_cons, hfst], ?_⟩
    · rw [List.foldl_cons, hstep, hplan, List.append_assoc, List.singleton_append]
    · cases pick with
      | none => exact ⟨hnodup, fun n hn => hsub n (hfree n hn)⟩
      | some n =>
        obtain ⟨hin, hout⟩ := hpick n rfl
        refine ⟨List.nodup_cons.mpr ⟨fun hn => hout (hfree n hn), hnodup⟩, fun k hk => ?_⟩
        rcases List.mem_cons.mp hk with rfl | hk
        · exact hin
        · exact hsub k (hfree k hk)

theorem forkPlan_spec (s : State) (g : Group) (helper : Bool) (lanes : List Nat) :
    (forkPlan s g helper lanes).map Prod.fst = lanes ∧ ((forkPlan s g helper lanes).filterMap Prod.snd).Nodup
      ∧ ∀ n ∈ (forkPlan s g helper lanes).filterMap Prod.snd, n ∈ freeLanes s g := by
  obtain ⟨plan, hplan, hspec⟩ := forkSteps_spec s g helper lanes [] (freeLanes s g)
  rw [forkPlan_eq, hplan]
  exact hspec

/-- A free lane is one of the group, without a live fibre and without a result still due (R97, R342). -/
theorem freeLanes_spec {s : State} {g : Group} {l : Nat} (h : l ∈ freeLanes s g) :
    l < g.wg ∧ (g.fibre l).live = false ∧ resultDue (g.flights ++ g.aside.map Prod.snd) l = false := by
  unfold freeLanes at h
  split at h
  · exact absurd h List.not_mem_nil
  · obtain ⟨hl, hfree⟩ := List.mem_filter.mp h
    simp only [laneUsed, Bool.and_eq_true, Bool.not_eq_true', Bool.or_eq_false_iff] at hfree
    obtain ⟨⟨hdead, hdue⟩, -⟩ := hfree
    exact ⟨List.mem_range.mp hl, hdead, hdue⟩

/-- No result is due on a lane: each flight that still has it has no result for it. -/
theorem noResult_of_not_due {fls : List Flight} {l : Nat} (h : resultDue fls l = false) {fl : Flight} (hfl : fl ∈ fls)
    (hu : fl.uniform = false) (hp : inMask fl.pending l = true) : fl.noResult = true ∨ fl.kind = .qput := by
  have hone := List.any_eq_false.mp h fl hfl
  simp only [hu, hp, Bool.not_false, Bool.true_and, Bool.and_eq_true, Bool.not_eq_true', bne_iff_ne, not_and, not_not] at hone
  cases hr : fl.noResult with
  | true => exact Or.inl rfl
  | false => exact Or.inr (hone (by rw [hr]; rfl))

/-! ### The changes of the word -/

/-- What the word does to the lanes of one forking lane: the child, if any, and the parent's predicate. -/
def forkChanges (f : Fields) (g : Group) (ord seq : Nat) (q : Nat × Option Nat) : List (Nat × (Fibre → Fibre)) :=
  (q.2.toList.map fun n => (n, fun _ => childFibre g.win (g.fibre q.1) (forkHelper f) ord))
    ++ [(q.1, fun x => putPred x seq 2 (forkPred f) q.2.isSome)]

/-- A group after changes of its lanes. -/
def Group.changed (g : Group) (cs : List (Nat × (Fibre → Fibre))) : Group := cs.foldl (fun g c => g.modFibre c.1 c.2) g

/-- The ordinal a child starts with: that of its segment's first safe point. -/
def forkOrd (f : Fields) (s : State) (b : Batch) (g : Group) : Nat :=
  match s.object? g.ctx b.obj with
  | some o => (nth o.segs (forkSeg f)).safeord
  | none => 0

theorem forkBody_eq (f : Fields) (s : State) (b : Batch) (g : Group) (p : Mask) :
    forkBody f s b g p =
      let plan := forkPlan s g (forkHelper f) (lanesOf (g.participants p f))
      (sendLanes (s.fresh.2.modGroup g.gid fun x => x.changed (plan.flatMap (forkChanges f g (forkOrd f s b g) s.nextId))) g.gid (forkSeg f)
        (maskOf (plan.filterMap Prod.snd)), none) := by
  have hstep : ∀ (q : Nat × Option Nat) (x : Group),
      (forkChanges f g (forkOrd f s b g) s.nextId q).foldl (fun g c => g.modFibre c.1 c.2) x
        = (match q.2 with
          | some n => x.modFibre n fun _ => childFibre g.win (g.fibre q.1) (forkHelper f) (forkOrd f s b g)
          | none => x).modFibre q.1 fun y => putPred y s.nextId 2 (forkPred f) q.2.isSome := by
    rintro ⟨l, _ | n⟩ x <;> rfl
  simp only [Group.changed, List.foldl_flatMap, hstep]
  rfl

/-- Each change is of a lane of its own where no parent's lane is free. -/
theorem forkChanges_nodup {s : State} {f : Fields} {g : Group} {ord seq : Nat} {lanes : List Nat} (hnodup : lanes.Nodup)
    (hlive : ∀ l ∈ lanes, (g.fibre l).live = true) :
    (((forkPlan s g (forkHelper f) lanes).flatMap (forkChanges f g ord seq)).map Prod.fst).Nodup := by
  obtain ⟨hfst, hsnd, hfree⟩ := forkPlan_spec s g (forkHelper f) lanes
  have hlanes : ∀ plan : List (Nat × Option Nat), (plan.flatMap (forkChanges f g ord seq)).map Prod.fst
      = plan.flatMap fun q => q.2.toList ++ [q.1] := by
    intro plan
    rw [List.map_flatMap]
    congr 1
    funext q
    simp [forkChanges, Function.comp_def]
  rw [hlanes]
  refine ((List.flatMap_append_perm _ _ _).nodup_iff).mp ?_
  rw [← List.filterMap_eq_flatMap_toList, ← List.map_eq_flatMap, List.nodup_append, hfst]
  refine ⟨hsnd, hnodup, ?_⟩
  rintro n hn l hl rfl
  have hdead := (freeLanes_spec (hfree n hn)).2.1
  rw [hlive n hl] at hdead
  exact absurd hdead Bool.noConfusion

theorem Group.changed_gid (g : Group) (cs : List (Nat × (Fibre → Fibre))) : (g.changed cs).gid = g.gid := foldl_modFibre_gid cs Prod.fst Prod.snd g

/-- A lane's own change is made. -/
theorem Group.changed_fibre {g : Group} {cs : List (Nat × (Fibre → Fibre))} (h : (cs.map Prod.fst).Nodup) {c : Nat × (Fibre → Fibre)} (hc : c ∈ cs)
    (hl : c.1 < g.fibres.length) : (g.changed cs).fibre c.1 = c.2 (g.fibre c.1) :=
  (fibre_foldl_modFibre cs Prod.fst Prod.snd g h c.1).1 c hc rfl hl

/-! ### The child -/

/-- A bit of the child's STATUS: set at reset, copied from the parent (DRM and the enables), or HELPER. -/
theorem childFibre_status (win : Nat) (x : Fibre) (helper : Bool) (ord k : Nat) :
    (childFibre win x helper ord).status.getLsbD k =
      ((1#64).getLsbD k || (x.status.getLsbD k && (0x3EE00000#64).getLsbD k) || (helper && (0x1000000#64).getLsbD k)) := by
  cases helper <;> simp [childFibre, statusReset]

/-- The rounding mode and the trap enables are copied (R30, R33). -/
theorem childFibre_copies (win : Nat) (x : Fibre) (helper : Bool) (ord : Nat) :
    (childFibre win x helper ord).status.extractLsb' 21 3 = x.status.extractLsb' 21 3
      ∧ (childFibre win x helper ord).status.extractLsb' 25 5 = x.status.extractLsb' 25 5 := by
  have hmask : ∀ k < 30, (21 ≤ k ∧ k < 24 ∨ 25 ≤ k) →
      (1#64).getLsbD k = false ∧ (0x3EE00000#64).getLsbD k = true ∧ (0x1000000#64).getLsbD k = false := by decide
  have hbit : ∀ k < 30, (21 ≤ k ∧ k < 24 ∨ 25 ≤ k) → (childFibre win x helper ord).status.getLsbD k = x.status.getLsbD k := by
    intro k hk hrange
    obtain ⟨h1, h2, h3⟩ := hmask k hk hrange
    rw [childFibre_status, h1, h2, h3, Bool.false_or, Bool.and_true, Bool.and_false, Bool.or_false]
  constructor <;>
  · apply BitVec.eq_of_getLsbD_eq
    intro j hj
    simp only [BitVec.getLsbD_extractLsb', hj, decide_true, Bool.true_and]
    exact hbit _ (by omega) (by omega)

theorem childFibre_helper (win : Nat) (x : Fibre) (helper : Bool) (ord : Nat) : (childFibre win x helper ord).helper = helper := by
  have hbits : (1#64).getLsbD 24 = false ∧ (0x3EE00000#64).getLsbD 24 = false ∧ (0x1000000#64).getLsbD 24 = true := by decide
  obtain ⟨h1, h2, h3⟩ := hbits
  rw [Fibre.helper, childFibre_status, h1, h2, h3, Bool.and_false, Bool.or_false, Bool.false_or, Bool.and_true]

theorem childFibre_pred (win : Nat) (x : Fibre) (helper : Bool) (ord : Nat) {j : Nat} (h1 : 1 ≤ j) (h16 : j < 16) :
    (childFibre win x helper ord).pred j = false := by
  have hmask : ∀ k < 16, 1 ≤ k → (1#64).getLsbD k = false ∧ (0x3EE00000#64).getLsbD k = false ∧ (0x1000000#64).getLsbD k = false := by decide
  obtain ⟨hr, hm, hh⟩ := hmask j h16 h1
  rw [Fibre.pred, childFibre_status, hr, hm, hh]
  simp only [Bool.and_false, Bool.or_false, beq_eq_false_iff_ne]
  omega

/-- The child's registers: v0 to v7 of its parent, the others zero (R96). -/
theorem childFibre_v (win : Nat) (x : Fibre) (helper : Bool) (ord : Nat) {j : Nat} (h : j < win) :
    nth (childFibre win x helper ord).v j = if j < 8 then { nth x.v j with full := true } else Reg.zero := by
  have hrange : nth (List.range win) j = j := by simp [nth, h]
  rw [childFibre, nth_map_of_lt _ (by rw [List.length_range]; exact h), hrange]

/-! ### Handing lanes to the sorter -/

/-- A lane waits in an entry at the first word of a segment. -/
def Group.waitsAt (g : Group) (n seg : Nat) : Prop := ∃ y ∈ g.entries, n ∈ lanesOf y.lanes ∧ y.seg = seg ∧ y.woff = 0

/-- The lanes of one quad join that quad's waiting entry for a segment, or make a new one (R77). -/
def Group.sentQuad (seg clock : Nat) (lanes : Mask) (g : Group) (j : Nat) : Group :=
  let m := lanes &&& (0xF#32 <<< (4 * j))
  if m = 0 then g
  else if g.entries.any fun e => e.quad == j && e.seg == seg && e.woff == 0 && e.rep.isNone && e.wait.isNone && e.loops.isEmpty && !e.bp then
    { g with entries := g.entries.map fun e =>
        if e.quad == j && e.seg == seg && e.woff == 0 && e.rep.isNone && e.wait.isNone && e.loops.isEmpty && !e.bp
        then { e with lanes := e.lanes ||| m } else e }
  else { g with entries := g.entries ++ [⟨j, m, seg, 0, [], none, none, clock, clock, false⟩] }

/-- Lanes handed to the sorter touch the entries of their group alone. -/
theorem sentQuads_only (seg clock : Nat) (lanes : Mask) (js : List Nat) (g : Group) :
    ∃ es, js.foldl (Group.sentQuad seg clock lanes) g = { g with entries := es } := by
  induction js generalizing g with
  | nil => exact ⟨g.entries, rfl⟩
  | cons j js ih =>
    have hone : ∃ es, g.sentQuad seg clock lanes j = { g with entries := es } := by
      unfold Group.sentQuad
      dsimp only
      repeat' split
      all_goals exact ⟨_, rfl⟩
    obtain ⟨es, hes⟩ := hone
    obtain ⟨es', hes'⟩ := ih (g.sentQuad seg clock lanes j)
    exact ⟨es', by rw [List.foldl_cons, hes', hes]⟩

theorem sentQuads_fibre (seg clock : Nat) (lanes : Mask) (js : List Nat) (g : Group) (l : Nat) :
    (js.foldl (Group.sentQuad seg clock lanes) g).fibre l = g.fibre l := by
  obtain ⟨es, h⟩ := sentQuads_only seg clock lanes js g
  rw [h]
  rfl

theorem sendLanes_group (s : State) (gid seg : Nat) (lanes : Mask) {g : Group} (hg : s.group? gid = some g) :
    (sendLanes s gid seg lanes).group? gid = some ((List.range 8).foldl (Group.sentQuad seg s.clock lanes) g) := by
  have harrive : (stepArrive s gid lanes).group? gid = some g := by
    unfold stepArrive
    repeat' split
    all_goals exact hg
  have hsend : sendLanes s gid seg lanes
      = (stepArrive s gid lanes).modGroup gid fun g => (List.range 8).foldl (Group.sentQuad seg s.clock lanes) g := rfl
  rw [hsend, group_modGroup_same, harrive, Option.map_some]
  intro x
  obtain ⟨es, h⟩ := sentQuads_only seg s.clock lanes (List.range 8) x
  rw [h]

/-- The lanes of a quad. -/
theorem mem_quadMask {m : Mask} {j l : Nat} : l ∈ lanesOf (m &&& (0xF#32 <<< (4 * j))) ↔ l ∈ lanesOf m ∧ l / 4 = j := by
  have hF : ∀ k, (0xF#32).getLsbD k = decide (k < 4) := fun k => by
    rw [show (0xF#32) = BitVec.ofNat 32 (2 ^ 4 - 1) from rfl, BitVec.getLsbD_ofNat, Nat.testBit_two_pow_sub_one]
    by_cases h : k < 4
    · simp [h, Nat.lt_trans h (by decide : 4 < 32)]
    · simp [h]
  simp only [mem_lanesOf, BitVec.getLsbD_and, BitVec.getLsbD_shiftLeft, hF, Bool.and_eq_true, Bool.not_eq_true', decide_eq_true_eq,
    decide_eq_false_iff_not]
  constructor
  · rintro ⟨hl, hm, ⟨-, hlo⟩, hhi⟩
    exact ⟨⟨hl, hm⟩, by omega⟩
  · rintro ⟨⟨hl, hm⟩, rfl⟩
    exact ⟨hl, hm, ⟨hl, by omega⟩, by omega⟩

theorem mem_lanesOf_or {m k : Mask} {l : Nat} : l ∈ lanesOf (m ||| k) ↔ l ∈ lanesOf m ∨ l ∈ lanesOf k := by
  simp only [mem_lanesOf, BitVec.getLsbD_or, Bool.or_eq_true]
  tauto

/-- A lane that waits goes on waiting as lanes of a quad join. -/
theorem Group.waitsAt.sentQuad {g : Group} {n seg seg' clock j : Nat} {lanes : Mask} (h : g.waitsAt n seg) :
    (g.sentQuad seg' clock lanes j).waitsAt n seg := by
  obtain ⟨y, hy, hn, hseg, hw⟩ := h
  unfold Group.sentQuad
  dsimp only
  split
  · exact ⟨y, hy, hn, hseg, hw⟩
  · split
    · refine ⟨_, List.mem_map_of_mem hy, ?_⟩
      split
      · exact ⟨mem_lanesOf_or.mpr (Or.inl hn), hseg, hw⟩
      · exact ⟨hn, hseg, hw⟩
    · exact ⟨y, List.mem_append_left _ hy, hn, hseg, hw⟩

/-- A lane of the quad waits once its quad's lanes have joined. -/
theorem Group.sentQuad_waits (g : Group) {n seg clock j : Nat} {lanes : Mask} (hn : n ∈ lanesOf lanes) (hj : n / 4 = j) :
    (g.sentQuad seg clock lanes j).waitsAt n seg := by
  have hin : n ∈ lanesOf (lanes &&& (0xF#32 <<< (4 * j))) := mem_quadMask.mpr ⟨hn, hj⟩
  unfold Group.sentQuad
  dsimp only
  rw [if_neg (mask_ne_zero.mpr ⟨n, hin⟩)]
  split
  case isTrue hany =>
    obtain ⟨y, hy, hjoin⟩ := List.any_eq_true.mp hany
    refine ⟨_, List.mem_map_of_mem hy, ?_⟩
    rw [if_pos hjoin]
    simp only [Bool.and_eq_true, beq_iff_eq] at hjoin
    obtain ⟨⟨⟨⟨⟨⟨-, hseg⟩, hwoff⟩, -⟩, -⟩, -⟩, -⟩ := hjoin
    exact ⟨mem_lanesOf_or.mpr (Or.inr hin), hseg, hwoff⟩
  case isFalse =>
    exact ⟨_, List.mem_append_right _ (List.mem_singleton.mpr rfl), hin, rfl, rfl⟩

/-- Every lane handed to the sorter waits for its segment. -/
theorem sentQuads_wait {n seg clock : Nat} {lanes : Mask} (hn : n ∈ lanesOf lanes) (js : List Nat) (g : Group) (hj : n / 4 ∈ js ∨ g.waitsAt n seg) :
    (js.foldl (Group.sentQuad seg clock lanes) g).waitsAt n seg := by
  induction js generalizing g with
  | nil => exact hj.resolve_left List.not_mem_nil
  | cons j js ih =>
    refine ih _ ?_
    rcases hj with hj | hwaits
    · rcases List.mem_cons.mp hj with hj | hj
      · exact Or.inr (g.sentQuad_waits hn hj)
      · exact Or.inl hj
    · exact Or.inr hwaits.sentQuad

/-! ### The word -/

/-- The group after FORK: its lanes changed as planned, and the children's lanes in entries. -/
theorem fork_group {f : Fields} {s : State} {b : Batch} {g0 g : Group} {p : Mask} (h : Alone (.fork f) (forkReady f) (forkBar f) s b g0 p)
    (hg : (entered (.fork f) s b g0 p).group? g0.gid = some g) :
    let e := entered (.fork f) s b g0 p
    let plan := forkPlan e g (forkHelper f) (lanesOf (g.participants p f))
    (runWord (.fork f) (forkReady f) (forkBar f) (forkBody f) s).group? g.gid
      = some ((List.range 8).foldl (Group.sentQuad (forkSeg f) e.clock (maskOf (plan.filterMap Prod.snd)))
          (g.changed (plan.flatMap (forkChanges f g (forkOrd f e b g) e.nextId)))) := by
  have hgid : g.gid = g0.gid := group_gid hg
  intro e plan
  rw [runWord_alone h hg, forkBody_eq]
  simp only [unissue_group_at, advanceBatch_group_at, noteIssue_group_at]
  refine sendLanes_group _ _ _ _ ?_
  rw [group_modGroup_same _ _ _ fun x => x.changed_gid _, fresh_group_at, hgid, hg, Option.map_some]

/-- What FORK's changes leave: the parent awaits its predicate, and on a lane without a live fibre stands its child. -/
theorem fork_changes {e : State} {f : Fields} {g : Group} {p : Mask} {ord : Nat} (hlen : ∀ l ∈ lanesOf p, l < g.fibres.length)
    (hlive : ∀ l ∈ lanesOf p, (g.fibre l).live = true) (hwg : g.wg = g.fibres.length) :
    let plan := forkPlan e g (forkHelper f) (lanesOf (g.participants p f))
    let g' := g.changed (plan.flatMap (forkChanges f g ord e.nextId))
    ∀ q ∈ plan, (forkPred f ≠ 0 → (⟨e.nextId, .p (forkPred f), if q.2.isSome then 1 else 0, 2⟩ : Pend) ∈ (g'.fibre q.1).pend)
      ∧ ∀ n, q.2 = some n → n < g.wg ∧ (g.fibre n).live = false ∧ g'.fibre n = childFibre g.win (g.fibre q.1) (forkHelper f) ord := by
  intro plan g' q hq
  obtain ⟨hfst, -, hfree⟩ := forkPlan_spec e g (forkHelper f) (lanesOf (g.participants p f))
  have hpresent : ∀ l ∈ lanesOf (g.participants p f), l ∈ lanesOf p := fun l => participants_present g p f
  have hnodup := forkChanges_nodup (s := e) (f := f) (ord := ord) (seq := e.nextId) (lanesOf_nodup (g.participants p f)) fun l hl =>
    hlive l (hpresent l hl)
  have hchange : ∀ c ∈ forkChanges f g ord e.nextId q, c.1 < g.fibres.length → g'.fibre c.1 = c.2 (g.fibre c.1) := fun c hc hl =>
    Group.changed_fibre hnodup (List.mem_flatMap.mpr ⟨q, hq, hc⟩) hl
  constructor
  · intro hp
    have hq1 : q.1 ∈ lanesOf (g.participants p f) := hfst ▸ List.mem_map_of_mem hq
    rw [hchange _ (List.mem_append_right _ (List.mem_singleton.mpr rfl)) (hlen _ (hpresent _ hq1))]
    exact putPred_pend _ _ _ _ _ hp
  · intro n hn
    obtain ⟨hnwg, hdead, -⟩ := freeLanes_spec (hfree n (List.mem_filterMap.mpr ⟨q, hq, hn⟩))
    exact ⟨hnwg, hdead, hchange _ (List.mem_append_left _ (List.mem_map_of_mem (by rw [hn]; exact List.mem_singleton.mpr rfl))) (hwg ▸ hnwg)⟩

/-- Settles O23: FORK's changes are each of a lane of its own (`forkChanges_nodup`), so parent and child stand as they say, and the children's
lanes wait in entries (`sentQuads_wait`). -/
theorem forkMakesChildren : Obligations.ForkMakesChildren := by
  unfold Obligations.ForkMakesChildren
  refine ⟨?fork, ?helper, ?worker, ?free⟩
  case fork =>
    intro f s b g0 p g h hg hlen ⟨hlive, hwg, h32⟩
    have hchanged := fork_changes (f := f) (e := entered (.fork f) s b g0 p) (ord := forkOrd f (entered (.fork f) s b g0 p) b g) hlen hlive hwg
    refine ⟨_, rfl, _, fork_group h hg, fun q hq => ?_⟩
    obtain ⟨hpred, hchild⟩ := hchanged q hq
    rw [sentQuads_fibre]
    refine ⟨hpred, fun n hn => ?_⟩
    obtain ⟨hnwg, hdead, hfib⟩ := hchild n hn
    rw [sentQuads_fibre, hfib]
    obtain ⟨hdrm, htraps⟩ := childFibre_copies g.win (g.fibre q.1) (forkHelper f) (forkOrd f (entered (.fork f) s b g0 p) b g)
    refine ⟨rfl, hdead, childFibre_helper .., fun j hj hwin => ?_, fun j hj hwin => ?_, fun j => childFibre_pred _ _ _ _, hdrm, htraps, ?_⟩
    · rw [childFibre_v _ _ _ _ hwin, if_pos hj]
    · rw [childFibre_v _ _ _ _ hwin, if_neg (Nat.not_lt.mpr hj)]
    · have hin : n ∈ lanesOf (maskOf ((forkPlan (entered (.fork f) s b g0 p) g (forkHelper f) (lanesOf (g.participants p f))).filterMap Prod.snd)) :=
        mem_lanesOf_maskOf.mpr ⟨List.mem_filterMap.mpr ⟨q, hq, hn⟩, by omega⟩
      exact sentQuads_wait hin _ _ (Or.inl (List.mem_range.mpr (by omega)))
  case helper =>
    intro s g l
    rfl
  case worker =>
    intro s g l
    rfl
  case free =>
    intro s g l h
    obtain ⟨hwg, hdead, hdue⟩ := freeLanes_spec h
    exact ⟨hwg, hdead, fun fl hfl => noResult_of_not_due hdue (List.mem_append_left _ hfl)⟩

end Sys2Proof.Machine
end

section
/-! O22, refuted by a word that no program holds. CALL has no guard (R65: its row takes none, so its G field must be zero), but the statement
takes CALL with every field. With G = 1 the model writes the link only in the lanes whose p1 is true, and the statement asks for it in
every present lane. -/

namespace Sys2Proof.Machine

/-- CALL v9, segment 0, with the guard p1 that no decodable CALL has. -/
def guardedCall : Fields := { (default : Fields) with dst := 9, g := 1 }

/-- One group of eight fibres, all of whose predicates are false, with a word at issue. -/
def guardedCallAt : State := State.reset.withFetchWord 64 0

def guardedCallBatch : Batch := (issuerBatch guardedCallAt).getD default

def guardedCallGroup : Group := ((tickBatch guardedCallAt guardedCallBatch).group? 3).getD default

/-- The value of v9 in lane 0 after the word. -/
def guardedCallLink : Option Word :=
  match exec (.call guardedCall) guardedCallAt with
  | .next t => (t.group? 3).map fun g => (g.fibre 0).dstVal (.v 9)
  | _ => none

set_option maxRecDepth 40000 in
/-- The decoder refuses the word. -/
theorem guardedCall_refused : checked (.call guardedCall) = .error .illegalField := by decide

set_option maxRecDepth 40000 in
theorem guardedCall_slot : issuerBatch guardedCallAt = some guardedCallBatch := by decide

set_option maxRecDepth 40000 in
theorem guardedCall_group : (tickBatch guardedCallAt guardedCallBatch).group? 3 = some guardedCallGroup := by decide

set_option maxRecDepth 40000 in
theorem guardedCall_may : fullVerdict (.call guardedCall) alwaysReady (succBar (succImm guardedCall)) (tickBatch guardedCallAt guardedCallBatch)
    guardedCallBatch guardedCallGroup 0xFF = .ok := by decide

set_option maxRecDepth 40000 in
theorem guardedCall_batch : guardedCallBatch.wait = none ∧ guardedCallBatch.seg = 0 ∧ guardedCallBatch.members.map Member.gid = [3]
    ∧ guardedCallBatch.members.map (fun m => m.present true) = [0xFF] := by decide

set_option maxRecDepth 40000 in
theorem guardedCall_fibres : guardedCallGroup.gid = 3 ∧ vIndex guardedCallGroup 9 = some 9 ∧ ∀ l ∈ lanesOf 0xFF,
    l < guardedCallGroup.fibres.length ∧ 9 < (guardedCallGroup.fibre l).v.length ∧ (guardedCallGroup.fibre l).pend = [] := by decide

set_option maxRecDepth 40000 in
/-- The word leaves v9 of lane 0, whose p1 is false, as it was. -/
theorem guardedCall_leaves_link : guardedCallLink = some 0 := by decide

/-- Nothing holds the word back. -/
theorem guardedCall_alone : Alone (.call guardedCall) alwaysReady (succBar (succImm guardedCall)) guardedCallAt guardedCallBatch
    guardedCallGroup 0xFF := by
  obtain ⟨hwait, -, hgid, hlanes⟩ := guardedCall_batch
  obtain ⟨m, hm, hmgid⟩ := List.map_eq_singleton_iff.mp hgid
  rw [hm, List.map_singleton, List.singleton_inj] at hlanes
  exact ⟨guardedCall_slot, hwait, ⟨m, hm, hmgid.trans guardedCall_fibres.1.symm, hlanes⟩, by decide, guardedCall_fibres.1 ▸ guardedCall_group,
    rfl, guardedCall_may⟩

/-- Refutes O22, and only for words that no program holds: the statement takes CALL with every field, also with a guard, which the decoder
refuses (`guardedCall_refused`). Under a false guard the model writes no link (`guardedCall_leaves_link`), and the statement asks for
the next segment's number, 1, in every present lane. -/
theorem not_segmentEndsSendOnOrQuit : ¬ Obligations.SegmentEndsSendOnOrQuit := by
  unfold Obligations.SegmentEndsSendOnOrQuit
  rintro ⟨⟨-, -, -, -, hcall⟩, -⟩
  obtain ⟨hgid, hv9, hfibres⟩ := guardedCall_fibres
  have hentered : (entered (.call guardedCall) guardedCallAt guardedCallBatch guardedCallGroup 0xFF).group? guardedCallGroup.gid
      = some guardedCallGroup := by
    rw [entered_group _ _ _ _ _ _ rfl, hgid, guardedCall_group]
  obtain ⟨t, ht, g', hg', hlink⟩ := hcall guardedCall _ _ _ _ _ guardedCall_alone hentered (fun l hl => (hfibres l hl).1)
    ⟨by decide, by decide, fun l hl r hr => by rw [(hfibres l hl).2.2] at hr; exact absurd hr List.not_mem_nil⟩
  have h0 : 0 ∈ lanesOf 0xFF := by decide
  have hone : (g'.fibre 0).dstVal (.v 9) = BitVec.ofNat 64 (guardedCallBatch.seg + 1) := hlink 0 h0 9 hv9 (hfibres 0 h0).2.1
  have hzero := guardedCall_leaves_link
  rw [hgid] at hg'
  rw [guardedCallLink, ht] at hzero
  simp only [hg', Option.map_some, hone, guardedCall_batch.2.1] at hzero
  exact absurd hzero (by decide)

end Sys2Proof.Machine
end
